-- ==== Sys2Proof/Word.lean ====
section
/-! DEFINITION. The word types of the block: a byte, a 32-bit word, a 64-bit register word. -/

namespace Sys2Proof

/-- One byte of a structure, a frame body or a memory (R8: bit 0 is the least significant bit). -/
abbrev Byte := BitVec 8

/-- A 32-bit word: a record parameter, a Plovlugo register, a rank-table entry. -/
abbrev Word32 := BitVec 32

/-- A 64-bit register word of BAR0 (R12). -/
abbrev Word := BitVec 64

end Sys2Proof
end

