-- ==== Sys2Proof/Syntax.lean ====
section
/-! DEFINITION. The commands of the block: one constructor of `Instr` for each row of spec/opcode_table.json, with the operand types.
A command carries what comes from outside: a descriptor and the structures its `addr` names, a frame, a pin event, a measured value. -/

namespace Sys2Proof

/-! ### Host side -/

/-- The descriptor header of R339: posting function (0 physical, n virtual n), submission queue, tag, fence; `resv` is true when a
reserved header or body byte is not 0; `addr`, the host address of the structure or output buffer. -/
structure DescHdr where
  fn : Nat
  sq : Nat
  tag : Word32
  fence : Bool
  resv : Bool
  addr : Nat
deriving DecidableEq, Repr

/-- A descriptor as DOORBELL_POLL fetches it (R336, R339): queue, `op`, tag, fence, reserved bits found non-zero, `addr`, and the 48 bytes of its body. -/
structure RawDesc where
  sq : Nat
  op : Nat
  tag : Word32
  fence : Bool
  resv : Bool
  addr : Nat
  body : List Byte
deriving DecidableEq, Repr

/-- One port entry of the topology (R350); `resv` is 1 more than the place in it of its first reserved field that is not 0, else 0. -/
structure PortEnt where
  use : Nat
  peer : Nat
  asym : Int
  pparent : Nat
  rearm : Nat
  resv : Nat
deriving DecidableEq, Repr

/-- One site entry of the topology (R350), `resv` likewise. -/
structure SiteEnt where
  mapped : Bool
  port : Nat
  asym : Int
  resv : Nat
deriving DecidableEq, Repr

/-- The TOPOLOGY structure as the host hands it over (R350): the 1,568 bytes of header, port and site entries, and the rank table as (rank, entry) pairs; a
rank not listed holds route 0xFF. -/
structure TopoIn where
  head : List Byte
  ranks : List (Nat × Word32)
deriving DecidableEq, Repr

/-- The TOPOLOGY structure read (R350), `resv` for its header's reserved fields as in an entry; `crcOk`: its CRC-32C matches. -/
structure Topology where
  magic : Nat
  len : Nat
  node : Nat
  level : Nat
  top : Bool
  tray : Bool
  parent : Nat
  foster : Nat
  adopt : Nat
  gen : Nat
  nrank : Nat
  resv : Nat
  crcOk : Bool
  ports : List PortEnt
  sites : List SiteEnt
  ranks : List (Nat × Word32)
deriving DecidableEq, Repr

/-- How a structured operand B stands in memory (R60, R64): dense with its declared pattern, compressed, or compressed and read transposed. -/
inductive Form where
  | declared
  | compressed
  | transposed
deriving DecidableEq, Repr

/-- Matrix-stage facts of an image (R25, R39, R60, R65): stage number, format codes of R108 (A, B, output), block sizes and scale formats of the
MX operands, K, N, structured pattern of B (0 dense, 1 2:4, 2 2:8), its form, which operand declares it, declared extent, unstructured mode, the `strict` flag of R63. -/
structure Stage where
  num : Nat
  fmtA : Nat
  fmtB : Nat
  fmtOut : Nat
  blk : Nat
  e8m0 : Bool
  k : Nat
  n : Nat
  pattern : Nat
  form : Form
  onA : Bool
  kExt : Nat
  sparse : Bool
  strict : Bool
deriving DecidableEq, Repr

/-- Footprint record of one logical cluster (R69). -/
structure Foot where
  cores : Nat
  schedKib : Nat
  sbanks : Nat
  dataKib : Nat
  resv : Nat
deriving DecidableEq, Repr

/-- One placement (R69, R70): its plan (0 base, else missing cores 1, 2, 4), logical cluster, the logical cores and shared-buffer banks
it touches, schedule bytes over its cores, break points in island cycles, its last cycle. -/
structure Place where
  plan : Nat
  lc : Nat
  cores : Nat
  sbanks : Nat
  schedBytes : Nat
  bps : List Nat
  last : Nat
deriving DecidableEq, Repr

/-- A pipeline image as the host loads it (R69): its bytes, and what its placement sections say, whose layout the manual does not give (assumption
log 5): placements, matrix stages, ensemble slots of its model tasks, whether it quantizes under them. -/
structure ImageIn where
  raw : List Byte
  places : List Place
  stages : List Stage
  ensSlots : List Nat
  quant : Bool
deriving DecidableEq, Repr

/-- A pipeline image (R69) with the parts the load checks of R70 read; `crcOk`: its CRC-32C matches. -/
structure Image where
  magic : Nat
  fmtVer : Nat
  nlc : Nat
  length : Nat
  bpMax : Nat
  kVar : Nat
  flags : Nat
  planOff : List (List Nat)
  proCyc : List Nat
  resv : Nat
  crcOk : Bool
  foots : List Foot
  places : List Place
  stages : List Stage
  ensSlots : List Nat
  quant : Bool
deriving DecidableEq, Repr

/-- A panel as the host stages it (R94): header bytes, the non-zero node words as (bank, row, word), the non-zero category sets as
(bank, set row, 256 bits). -/
structure PanelIn where
  hdr : List Byte
  nodes : List (Nat × Nat × Word)
  sets : List (Nat × Nat × BitVec 256)
deriving DecidableEq, Repr

/-- An ensemble epoch as the host stages it (R101): header bytes, quantizer records, boundary values, panels. -/
structure EnsIn where
  hdr : List Byte
  qrecs : List (BitVec 128)
  bounds : List Word32
  panels : List PanelIn
deriving DecidableEq, Repr

/-- A configuration image: the F fields it loads (R358) and what else the manual says it holds: role (R17), the set of coalesced codes
(R266), TC-2 compatibility, hall-root flag, reference preference, start delay, cap, policing values, F fields of GN_RD_CFG. -/
structure CfgImage where
  tray : Bool
  top : Bool
  tc2 : Bool
  srcSel : Nat
  hsDelayMs : Nat
  capW : Nat
  pol : List (Nat × Nat × Nat)
  coalCodes : List Nat
deriving DecidableEq, Repr

/-- An image written into a slot of the image region (R323, R353): version, SHA-384 of the image, the signature it carries, its length, and
(configuration images) its content. -/
structure FwImage where
  ver : Nat
  digest : List Byte
  sig : List Byte
  len : Nat
  cfg : CfgImage
deriving DecidableEq, Repr

/-- The enrolment block of R324: key hashes, minimum versions, and the signature it carries. -/
structure OwnerIn where
  cfgKey : BitVec 384
  dbgKey : BitVec 384
  minFw : Nat
  minCfg : Nat
  sig : List Byte
deriving DecidableEq, Repr

/-- What a bring-up phase found when it ended (R348): the start-up state of the identity array (R322), the link outcomes, self-test results. -/
structure PhaseEnd where
  sram : List Byte
  stFail : List (Nat × Nat)
  refReady : Bool
  buMs : Nat
deriving DecidableEq, Repr

/-! ### Frames and records -/

/-- A link the block keeps time and sitting state for: a port, or the die route of a site. -/
inductive LinkRef where
  | port (p : Nat)
  | site (s : Nat)
deriving DecidableEq, Repr

/-- The two time units (R158). -/
inductive TimeUnit where
  | ginath
  | block
deriving DecidableEq, Repr

/-- Where a frame leaves or a link is watched: a port of the module, or the block's message port (R152). -/
inductive Outlet where
  | port (p : Nat)
  | block
deriving DecidableEq, Repr

/-- Where a whole frame has come: a port of the module, or the block's message port with the flit tags it travelled under (R152). -/
inductive Inlet where
  | port (p : Nat)
  | block (tags : List Word)
deriving DecidableEq, Repr

/-- One time exchange (R162), times in 1/65,536 ns. -/
structure Xchg where
  t1 : Nat
  t2 : Nat
  t3 : Nat
  t4 : Nat
deriving DecidableEq, Repr

/-- A time reply: the `xid` it returns, and the times of its exchange. A child adds t1 and t4 from its own time unit. -/
structure TimeReply where
  xid : Nat
  x : Xchg
deriving DecidableEq, Repr

/-- The part of an aggregate that a read asks for (R214): its weight epoch, and the sitting to be served from, 0 for none. -/
structure AggPart where
  epoch : Nat
  sit : Nat
deriving DecidableEq, Repr

/-- A fixed-size record as a block or a producer hands it over (R258). -/
structure RecIn where
  ht : Nat
  code : Nat
  sev : Nat
  tq : Nat
  rep : Nat
  source : Word32
  p0 : Word32
  p1 : Word32
  p2 : Word32
  p3 : Word32
deriving DecidableEq, Repr

/-- Who submits a record: a producer of the event-ring arbiter (R201), or the host die to the block (R154). -/
inductive RecSource where
  | producer (prod : Nat)
  | hostDie (r : RecIn)
deriving DecidableEq, Repr

/-- A progress record (R149) as the tray receives it, with the time quality of its frame. -/
structure ProgIn where
  ht : Nat
  mon : Nat
  stall : Bool
  recovered : Bool
  rpDone : Bool
  rpLeft : Nat
  count : Word32
  tq : Nat
  winMs : Nat
deriving DecidableEq, Repr

/-- A sample record (R139) as the tray receives it: its counters as (index, value). -/
structure SampleIn where
  ht : Nat
  skip : Nat
  palGen : Nat
  priv : Bool
  resumed : Bool
  studio : Nat
  tq : Nat
  ctrs : List (Nat × Word)
deriving DecidableEq, Repr

/-- Read request body (R213). -/
structure ReadReq where
  tag : Word32
  origin : Nat
  rstudio : Nat
  sit : Nat
  gen : Nat
  ta : Word
deriving DecidableEq, Repr

/-- Read reply body (R213). -/
structure ReadRep where
  tag : Word32
  status : Nat
  tq : Nat
  value : Word
  ht : Nat
deriving DecidableEq, Repr

/-- A sketch (R217): header and its non-zero buckets as (index, count). -/
structure Sketch where
  n : Nat
  sum : Nat
  min : Nat
  max : Nat
  sat : Bool
  buckets : List (Nat × Nat)
deriving DecidableEq, Repr

/-- One top-k entry (R218). -/
structure TopEnt where
  val : Nat
  rank : Nat
  aux : Nat
deriving DecidableEq, Repr

/-- A series payload (R216). -/
inductive Series where
  | cum (v : Nat)
  | sum (v : Nat)
  | sketch (x : Sketch)
  | topk (k : Nat) (es : List TopEnt)
deriving DecidableEq, Repr

/-- A series as a tray's graph writes it for one window: a CUM series by die site, as cumulative values (R216); the others whole. -/
inductive SeriesIn where
  | cum (vals : List (Nat × Word))
  | sum (v : Nat)
  | sketch (x : Sketch)
  | topk (k : Nat) (es : List TopEnt)
deriving DecidableEq, Repr

/-- A summary part (R215): header fields and its series as (sid, payload). -/
structure Summary where
  win : Nat
  lenUs : Nat
  epoch : Nat
  stream : Nat
  epChg : Bool
  short : Bool
  partialF : Bool
  lateF : Bool
  foster : Bool
  decim : Nat
  tq : Nat
  level : Nat
  origin : Nat
  dies : Nat
  diesExp : Nat
  stale : Nat
  bndUnc : Nat
  latePrior : Nat
  replay : Nat
  bytes : Nat
  part : Nat
  nparts : Nat
  contrib : Nat
  series : List (Nat × Series)
deriving DecidableEq, Repr

/-- Arm body (R229). -/
structure Arm where
  bid : Nat
  origin : Nat
  action : Nat
  rearm : Bool
  studio : Nat
  tFire : Nat
  param : Word
deriving DecidableEq, Repr

/-- What stands at the other end of a port that trains: a Ginath or an edge bridge with all lanes, one whose port has a single lane (R227), a TC-2 collector
(R234). -/
inductive TrainPeer where
  | full
  | single
  | collector
deriving DecidableEq, Repr

/-- The end of training: the port, and what it found at its other end. -/
structure Trained where
  port : Nat
  peer : TrainPeer
deriving DecidableEq, Repr

/-- Sitting report body (R235). -/
structure SitReport where
  ident : Nat
  cause : Nat
  tq : Nat
  complete : Nat
  incomplete : Nat
deriving DecidableEq, Repr

/-- TC-2 abort body (R234). -/
structure Tc2Abort where
  job : Nat
  origin : Nat
  aseq : Nat
  ht : Nat
  reason : Nat
deriving DecidableEq, Repr

/-! ### Pipelines -/

/-- Where in HBM a transfer of a task lies (R78): an offset from its instance's input or output base, from its third operand set, or an address. -/
inductive HbmRef where
  | input (off : Nat)
  | output (off : Nat)
  | aux (off : Nat)
  | addr (a : Nat)
deriving DecidableEq, Repr

/-- The MX blocks that an entry of a crossing holds (R51): format, blocks, pattern when compressed (0 dense), where their metadata goes, position along
K of the first, declared extent. -/
structure Blocks where
  fmt : Nat
  n : Nat
  pattern : Nat
  md : Nat
  k : Nat
  kExt : Nat
deriving DecidableEq, Repr

/-- Where an outgoing entry goes (R59): HBM (elements, block scales), or another cluster's incoming crossing. -/
inductive XDst where
  | hbm (data scales : HbmRef)
  | cluster (c : Nat)
deriving DecidableEq, Repr

/-- What a running pipeline presents to one cluster in one island cycle (R48 to R68, R72, R73, R90 to R98). Engines are numbered 4 × core + engine, the
tally file of a core's walker 64 + core. Engine addresses are bytes of the engine's own core SRAM; cluster addresses are bytes of the 12 MiB of core
SRAM (core × 786,432 + byte) and, above it, of the 4 MiB shared buffer. -/
inductive CycleOp where
  /-- An access of a requester index to a resource (0 to 383 core-SRAM bank, 384 to 447 shared-buffer bank) by the schedule and prologue loader. -/
  | access (req : Nat) (res : Nat)
  /-- A stage reads an entry of the incoming crossing into a cluster address; MX blocks get their tags there (R51, R59). -/
  | crossIn (dst : Nat) (blocks : Option Blocks)
  /-- A stage pushes `n` bytes of a cluster address, with the scales of that many MX blocks of a format when it names one (R59). -/
  | crossOut (src n : Nat) (fmt : Option Nat) (dst : XDst)
  /-- The I/O side brings `n` bytes and `ns` block scales of HBM to the incoming crossing, or takes the oldest entry of the outgoing one. -/
  | ioIn (data : HbmRef) (n : Nat) (scales : HbmRef) (ns : Nat)
  | ioOut
  /-- The core-to-shared-buffer path moves `n` bytes, at most what it carries in a cycle, the tags of their blocks with them (R55). -/
  | move (core : Nat) (src dst n : Nat)
  /-- An engine takes up a stage descriptor (R25, R39, R60). -/
  | stageStart (eng : Nat) (st : Stage)
  /-- The anchor pass of the next tile starts, over the whole K of the stage (R50): operand addresses. -/
  | anchorPass (eng a b : Nat)
  /-- A tile is given to the engine (R49): operand addresses, metadata of a compressed B, first K and length of its slice, whether its tallies stay for a
  raw drain, output address. -/
  | tile (eng a b md k0 kn : Nat) (raw : Bool) (out : Nat)
  /-- A drain of a tile's or a chunk's `n` tallies starts: raw or converted to a format, output address (R52, R97). -/
  | drain (eng n : Nat) (raw : Bool) (fmt out : Nat)
  /-- An add-in of `n` raw records starts, from an address of the core's SRAM (R52). -/
  | addIn (eng n src : Nat)
  /-- Unstructured mode (R65 to R67): the engines named, address of the sparse rows, their number, B and output addresses in each engine's core. -/
  | sparseStart (st : Stage) (engs : List Nat) (rows n b out : Nat)
  /-- A vector-unit operation on `n` lanes (R53): operation code, operand and result addresses in the core's SRAM. -/
  | vec (core op n a b c dst : Nat)
  /-- An MX encode of 32 FP32 values into a block with its tag (R53). -/
  | mxEncode (core fmt src dst : Nat)
  /-- Quantize feature `feat` of a row under an ensemble slot: FP32 value and code addresses in the core's SRAM (R87, R88). -/
  | quantize (core ens feat src dst : Nat)
  /-- `n` codes from the core's SRAM enter a walker's code buffer at an index; a chunk of rows starts under an ensemble slot (R97). -/
  | codeLoad (core src idx n : Nat)
  | chunk (core ens rows : Nat)
  /-- HBM returns the node that a walk of a slot waits for (R96). -/
  | hbmNode (core bank i : Nat)
  /-- The last chunk of this cluster has passed panel `panel` of the slot (R103). -/
  | panelPassed (ens panel : Nat)
  /-- An upset flips a bit: of a 72-bit word of core SRAM or the shared buffer (R56), of a tally (bits 0 to 191, parity 192 to 195; R52), of a node word
  or of a quarter of a set row (R98). -/
  | upset (word bit : Nat)
  | tallyUpset (eng idx bit : Nat)
  | nodeUpset (bank row : Nat) (isSet : Bool) (quarter bit : Nat)
  /-- A detect stage submits a record (the image writes it). -/
  | record (r : RecIn)
  /-- A scoring task's result for a die (R245, R246): site, cause bit 3 or 4; the score is the FP32 value at an address of a core's SRAM, as a walker's drain or a vector
  stage left it there. -/
  | anomaly (core site cause src : Nat)
deriving DecidableEq, Repr

/-- A weight frame's outcome of R195: the hall time stamped on it, its subheader and data, or damage with the header readable or not (R194). -/
inductive WeightIn where
  | good (ht epoch tensor offset : Nat) (data : List Byte)
  | damagedHdr (epoch tensor offset : Nat)
  | damagedNoHdr
deriving DecidableEq, Repr

/-- A row-block identity on px_id (R130): reserved bits [127:121] in `resv`. -/
structure PxId where
  epoch : Nat
  step : Nat
  rb : Nat
  tensor : Nat
  op : Nat
  resv : Nat
deriving DecidableEq, Repr

/-! ### The commands -/

/-- One constructor for each row of spec/opcode_table.json, in the table's order. -/
inductive Instr where
  | nop (h : DescHdr)
  | topology (h : DescHdr) (t : TopoIn)
  | timeSet (h : DescHdr) (ht : Nat)
  | rankmapLoad (h : DescHdr) (gen : Nat) (ranks : List (Nat × Word32))
  | imageLoad (h : DescHdr) (num len : Nat) (img : ImageIn)
  | imageEvict (h : DescHdr) (num : Nat)
  | graphLoad (h : DescHdr) (allTasks : Bool) (hdr : List Byte) (tasks : List (List Byte)) (edges : List Nat)
  | graphUnload (h : DescHdr) (slot : Nat)
  | ensStage (h : DescHdr) (e : EnsIn)
  | ensRepair (h : DescHdr) (e : EnsIn)
  | ensUnload (h : DescHdr) (slot : Nat)
  | plan (h : DescHdr) (hdr : List Byte) (tensors : List (List Byte))
  | seed (h : DescHdr) (epoch : Nat) (sd : BitVec 128)
  | read (h : DescHdr) (ta : Word) (sit : Nat)
  | aggregateRead (h : DescHdr) (key : Word) (win : Nat) (part : AggPart)
  | sitting (h : DescHdr) (ident t : Nat)
  | sitRetire (h : DescHdr) (ident : Nat)
  | broadcast (h : DescHdr) (bid action studio tFire : Nat) (param : Word)
  | bcCancel (h : DescHdr) (bid : Nat)
  | coreWithdraw (h : DescHdr) (cluster mask : Nat)
  | coreReturn (h : DescHdr) (cluster mask : Nat)
  | coreRetest (h : DescHdr) (cluster mask : Nat)
  | poolRelease (h : DescHdr) (cluster : Nat)
  | powerRun (h : DescHdr)
  | powerIdle (h : DescHdr)
  | powerDeepIdle (h : DescHdr)
  | accept (h : DescHdr) (rank : Nat)
  | decline (h : DescHdr) (rank muteMin : Nat)
  | declineHeld (h : DescHdr) (muteMin : Nat)
  | returnRank (h : DescHdr) (rank : Nat)
  | clearAlarm (h : DescHdr)
  | setJob (h : DescHdr) (n : Nat)
  | studioOpen (h : DescHdr) (n : Nat)
  | studioClose (h : DescHdr) (n : Nat)
  | studioKey (h : DescHdr) (block : List Byte)
  | attest (h : DescHdr) (nonce : BitVec 256)
  | logRead (h : DescHdr) (first count : Nat)
  | dumpRead (h : DescHdr) (slot off4k bytes : Nat)
  | regRead (h : DescHdr) (off : Nat) (w64 : Bool)
  | regWrite (h : DescHdr) (off : Nat) (w64 : Bool) (data : Word)
  | maintStop (h : DescHdr)
  | imageWrite (h : DescHdr) (kind slot : Nat) (img : FwImage)
  | enrol (h : DescHdr) (o : OwnerIn)
  | doorbellPoll (fn : Nat) (tails heads : List Word32) (descs : List RawDesc)
  | nudge (fn : Nat)
  | ringDisable (fn : Nat) (cq : Bool) (q : Nat)
  | holdbackDrain (fn q : Nat)
  | cqOvfWarning (fn q : Nat)
  | irqModerationTimer (fn q : Nat)
  | functionLevelReset (fn : Nat)
  | powerApply
  | holdupChargeDone
  | bringupPhaseEnd (e : PhaseEnd)
  | hrefQualify
  | refCompareGate (foster : Bool) (linkEdges hrefEdges : Nat)
  | refLoss
  | powerCapEval (p4 vin iin : Nat)
  | autoIdle
  | idleWake
  | pfailDetect
  | undervoltage
  | overvoltage
  | flushEnd (pfailHigh vinOk : Bool) (dtLast : Nat)
  | thermalTrip (mask : Nat)
  | warmReset (fn key : Nat)
  | coldReset (fn key : Nat)
  | pcieFundamentalReset
  | clusterReset (fn c : Nat)
  | linkPortReset (fn p : Nat)
  | dumpRequest (fn : Nat)
  | monitorEval
  | gnMonitorStall (n : Nat)
  | monitorConfigWrite (n : Nat) (v : Word)
  | supervisorHeartbeat
  | hwWatchdog
  | dumpSnapshotDone
  | dumpWriteDone
  | dumpAck (slot : Nat)
  | selfTestDue (core : Nat)
  | selfTestStart (core : Nat)
  | selfTestDeadline (core : Nat)
  | selfTestDone (core : Nat) (pass : Bool) (stage : Nat)
  | linkTrainStart (p : Nat)
  | linkTrainDone (x : Trained)
  | linkAlignDone (p : Nat)
  | linkCreditDone (p : Nat) (cred : List Nat)
  | linkStateTimeout (p : Nat) (lane : Option Nat)
  | linkStartDone (l : LinkRef)
  | linkLoss (o : Outlet) (lane : Option Nat)
  | flitReceive (p : Nat) (tag : Word) (b : List Byte) (ce ue : Nat)
  | frameReceive (i : Inlet) (raw : List Byte)
  | decompressDone (p src cls : Nat)
  | linkControlFrame (p : Nat) (cred : List Nat) (acks : List (Nat × Nat))
  | creditReturnTimer (p : Nat)
  | class0ResendTimeout (p src seq : Nat)
  | frameSend (o : Outlet)
  | gateCommit (u : Nat)
  | gateCycleStart (u : Nat)
  | keepaliveTimer (o : Outlet)
  | keepaliveFrame (site : Nat) (watermark : Option Word32)
  | arbiterGrant (a : Nat) (reqs : List Nat)
  | arbFreeze (a : Nat)
  | tapOvfWarning
  | linkTrainFailWarning (p : Nat)
  | unmappedSourceWarning (p : Nat)
  | timeRefresh (u : TimeUnit)
  | timeRequestFrame (l : LinkRef) (xid t1 frac : Nat)
  | timeReplyFrame (u : TimeUnit) (l : LinkRef) (r : TimeReply)
  | islandStretch (i cyclePs : Nat)
  | islandStop (i : Nat)
  | islandResume (i : Nat)
  | windowClose (w : Nat) (old new : List (Nat × SeriesIn))
  | winSkipWarning (slot : Nat)
  | winCfgWrite (w : Nat) (v : Word)
  | sampleRecordFrame (site : Nat) (r : SampleIn)
  | traceDataFrame (site : Nat) (stamp tq : Nat) (data : List Byte)
  | eventRecordFrame (site : Nat) (studio : Nat) (recs : List RecIn)
  | sittingRequestFrame (ident t : Nat)
  | sittingFreeze (ident : Nat)
  | sittingMarkerSend (l : LinkRef) (ident : Nat)
  | sittingMarkerArrival (l : LinkRef) (ident : Nat) (image : Option SampleIn)
  | blockRefusalFrame (site ident reason : Nat)
  | sittingOverrunFrame (site ident : Nat)
  | sittingFreezeTimeout (ident : Nat)
  | sittingReportFrame (p : Nat) (r : SitReport)
  | sittingReportTimeout (ident : Nat)
  | sittingRetireFrame (ident : Nat) (cancel : Bool)
  | readRequestFrame (p : Nat) (r : ReadReq)
  | readReplyFrame (p : Nat) (r : ReadRep)
  | readTimeout (tag : Word32)
  | regReplyFrame (site tag : Nat) (value : Word) (ht tq : Nat)
  | summaryFrame (p : Nat) (x : Summary)
  | latePartialFrame (p : Nat) (x : Summary)
  | passThroughFrame (p : Nat) (x : Summary)
  | summaryEmit
  | summaryWaitTimeout
  | reductionControlTimer
  | reductionControlFrame (ptBeads : Word32) (j : Nat)
  | armFrame (p : Nat) (a : Arm)
  | armAckFrame (p bid origin node status : Nat)
  | armAckTimeout (p bid origin : Nat)
  | rearmRequestFrame (a : Arm) (failed : Nat)
  | broadcastCancelFrame (p bid origin : Nat)
  | broadcastFire (bid origin : Nat)
  | fireReportFrame (p bid origin fired late full nodes : Nat)
  | fireReportTimeout (bid origin : Nat)
  | tc2AbortFrame (p : Nat) (a : Tc2Abort)
  | progressRecordFrame (site : Nat) (recs : List ProgIn)
  | healthRun
  | muteEnd (rank : Nat)
  | exportPartFrame (site : Nat) (seq part nparts : Nat) (data : List Byte)
  | weightFrame (w : WeightIn)
  | batchDispatch
  | gatherExpiry
  | proofRunDone (slot inst : Nat)
  | proofDeadline (site seq : Nat)
  | taskLaunch
  | taskComplete (slot inst task : Nat)
  | pipelineCycle (slot inst task cluster : Nat) (ops : List CycleOp)
  | breakPoint (slot inst task : Nat)
  | holdResume (slot inst task : Nat)
  | bpWatchdog (slot inst task : Nat)
  | scrubCycle (c : Nat) (errs : List (Nat × Bool × Nat × Bool))
  | stagingDone (slot : Nat)
  | panelWriteStart (slot panel : Nat)
  | panelWriteDone (slot panel : Nat)
  | recordSubmit (r : RecSource)
  | coalesceFlush
  | fixedChunkFlash
  | ringPageFlash
  | ringAgeFlash
  | fxack (slot : Nat)
  | closeEraseDone
  | dpStatus
  | dpOpen (level : Nat) (sig : List Byte)
  | dpAccess (w : BitVec 128)
  | dpClose
  | idcode
  | bypass
  | extest
  | samplePreload
  | clamp
  | highz
  | trstN
  | registerWrite (fn off width : Nat) (v : Word)
  | mpRegisterWrite (addr : Nat) (v : Word32) (priv : Bool)
  | plCntLowRead (addr : Nat) (priv : Bool)
  | regWriteFrame (off : Nat) (data : List Word32)
  | regReadFrame (off n tag : Nat)
  | blockReset
  | softReset (priv link : Bool)
  | samplingInstant
  | palCommit
  | palWrite (off : Nat) (data : Word32)
  | blockSittingRequest (ident t : Nat)
  | sittingCapture (t : Nat)
  | sittingRelease (ident : Nat) (retire : Bool)
  | freezeExpiry
  | traceWord (core kind : Nat) (data : BitVec 48)
  | traceBurstDma
  | stampMarkerTimer
  | traceFrameShip
  | traceExtract (n : Nat)
  | lpEntry (core : Nat)
  | lpEntryTimeout (core : Nat)
  | lpExit (core : Nat)
  | progressPulse (mon : Nat)
  | progressRecordSend (mon : Nat)
  | progressStall (mon : Nat)
  | pxIdentity (i : PxId)
  | pxReexportIdentity (i : PxId)
  | pxStreamEnd (fmt kred nout : Nat) (a e : List Byte)
  | verdictFrame (body : List Byte)
  | pxRexGone
  | exportSlotTimeout (seq : Word32)
  | rpAck
  | seedFrame (epoch deadlineUs k : Nat) (sd : BitVec 128)
  | watermarkKeepalive
  | registerRead (fn off width : Nat)
  | mpRegisterRead (addr : Nat) (priv : Bool)
  | controlCoreTrap
  | sequencerMemoryError
  | timeUnitIncrement (u : TimeUnit)
  | counterIncrement (lanes : List (Nat × Nat))
deriving DecidableEq, Repr

end Sys2Proof
end

