-- ==== Sys2Proof/Decode.lean ====
section
/-! DEFINITION. The decoder over the opcode table. The table gives no row bits: the commands are register accesses, descriptors, frames,
protocol events and pin events, so a word spells none of them. -/

namespace Sys2Proof

/-- The command that a word of `nbits` bits spells by the table: no row of spec/opcode_table.json has bit fields. -/
def decodeTableWord (_nbits _w : Nat) : Option Instr := none

end Sys2Proof
end

