-- ==== Sys2Proof/Machine/Aes.lean ====
section
/-! DEFINITION. AES-256 of one block (FIPS 197), which R321 uses in counter mode. -/

namespace Sys2Proof.Machine

/-- Multiplication by x in GF(2^8). -/
def aesX (b : Byte) : Byte := (b <<< 1) ^^^ (if b.msb then 0x1B else 0)

/-- Multiplication in GF(2^8), over the low `n` bits of the second factor. -/
def aesMul : Nat → Byte → Byte → Byte
  | 0, _, _ => 0
  | n + 1, a, b => (if b.getLsbD 0 then a else 0) ^^^ aesMul n (aesX a) (b >>> 1)

/-- The inverse in GF(2^8), as the 254th power; 0 gives 0. -/
def aesInv (a : Byte) : Byte :=
  let sq := fun x : Byte => aesMul 8 x x
  let p2 := sq a
  let p6 := aesMul 8 p2 (sq p2)
  let p14 := aesMul 8 p2 (sq p6)
  let p30 := aesMul 8 p2 (sq p14)
  let p62 := aesMul 8 p2 (sq p30)
  let p126 := aesMul 8 p2 (sq p62)
  aesMul 8 p2 (sq p126)

/-- S-box. -/
def aesSub (a : Byte) : Byte :=
  let i := aesInv a
  i ^^^ i.rotateLeft 1 ^^^ i.rotateLeft 2 ^^^ i.rotateLeft 3 ^^^ i.rotateLeft 4 ^^^ 0x63

/-- XOR of two byte lists of one length. -/
def xorBytes (a b : List Byte) : List Byte := List.zipWith (· ^^^ ·) a b

/-- Round constant of the key expansion. -/
def aesRcon : Nat → Byte
  | 0 => 1
  | n + 1 => aesX (aesRcon n)

/-- Key expansion: `n` further words after the words `w`. -/
def aesExpand : Nat → List (List Byte) → List (List Byte)
  | 0, w => w
  | n + 1, w =>
    let i := w.length
    let t := w.getD (i - 1) []
    let t := if i % 8 = 0 then xorBytes ((t.rotateLeft 1).map aesSub) [aesRcon (i / 8 - 1), 0, 0, 0]
      else if i % 8 = 4 then t.map aesSub else t
    aesExpand n (w ++ [xorBytes (w.getD (i - 8) []) t])

/-- The 16 bytes of round key r. -/
def aesKey (w : List (List Byte)) (r : Nat) : List Byte := ((w.drop (4 * r)).take 4).flatten

/-- ShiftRows, byte r + 4c being row r of column c. -/
def aesShift (s : List Byte) : List Byte := (List.range 16).map (fun i => s.getD (i % 4 + 4 * ((i / 4 + i % 4) % 4)) 0)

/-- MixColumns. -/
def aesMix (s : List Byte) : List Byte :=
  (List.range 16).map (fun i =>
    let at_ := fun k => s.getD (i / 4 * 4 + (i + k) % 4) 0
    aesX (at_ 0) ^^^ (aesX (at_ 1) ^^^ at_ 1) ^^^ at_ 2 ^^^ at_ 3)

/-- Rounds r to 13. -/
def aesRounds (w : List (List Byte)) : Nat → Nat → List Byte → List Byte
  | 0, _, s => s
  | n + 1, r, s => aesRounds w n (r + 1) (xorBytes (aesMix (aesShift (s.map aesSub))) (aesKey w r))

/-- AES-256 of a block of 16 bytes under a key of 32. -/
def aes256 (key block : List Byte) : List Byte :=
  let w := aesExpand 52 ((List.range 8).map (fun i => (key.drop (4 * i)).take 4))
  xorBytes (aesShift ((aesRounds w 13 1 (xorBytes block (aesKey w 0))).map aesSub)) (aesKey w 14)

end Sys2Proof.Machine
end

