-- ==== Sys2Proof/Machine/Bits.lean ====
section
/-! DEFINITION. Bit fields, little-endian structures, check values and the keyed hash of the selection test
(R8, R13, R111, R113, R186, R187, R261). -/

namespace Sys2Proof.Machine

/-- Bits [lo + len - 1 : lo] of a number (R8). -/
def bits (w lo len : Nat) : Nat := (w >>> lo) % 2 ^ len

/-- One bit of a number. -/
def bit (w i : Nat) : Bool := w.testBit i

/-- 1 for true, 0 for false. -/
def b2n (b : Bool) : Nat := if b then 1 else 0

/-- Byte `i` of a structure; bytes past its end read 0. -/
def u8 (b : List Byte) (i : Nat) : Nat := (b.getD i 0).toNat

/-- Little-endian number of a byte list (R8: the lowest address holds bits [7:0]). -/
def leNat : List Byte → Nat
  | [] => 0
  | x :: xs => x.toNat + 256 * leNat xs

/-- Little-endian field of `n` bytes at offset `i`. -/
def uN (b : List Byte) (i n : Nat) : Nat := leNat ((b.drop i).take n)

def u16 (b : List Byte) (i : Nat) : Nat := uN b i 2
def u32 (b : List Byte) (i : Nat) : Nat := uN b i 4
def u64 (b : List Byte) (i : Nat) : Nat := uN b i 8

/-- The `n` little-endian bytes of a number. -/
def leBytes : Nat → Nat → List Byte
  | 0, _ => []
  | n + 1, v => BitVec.ofNat 8 v :: leBytes n (v / 256)

/-- Every byte of the half-open range [i, j) is 0 (R9: reserved bytes are written 0). -/
def zeroBytes (b : List Byte) (i j : Nat) : Bool := ((b.drop i).take (j - i)).all (· == 0)

/-- Two's-complement reading of the low `w` bits of a number. -/
def sext (w v : Nat) : Int :=
  let x := v % 2 ^ w
  if x < 2 ^ (w - 1) then (x : Int) else (x : Int) - (2 ^ w : Nat)

/-- floor(log2 x) for x > 0, 0 for 0. -/
def msb (x : Nat) : Nat := x.log2

/-- Ceiling of a quotient; 0 when the divisor is 0. -/
def ceilDiv (a b : Nat) : Nat := if b = 0 then 0 else (a + b - 1) / b

/-- How many of the low `n` bits of a mask are set. -/
def popcount (n mask : Nat) : Nat := ((List.range n).filter (fun i => mask.testBit i)).length

/-- The set bits of a mask below `n`, ascending. -/
def setBits (n mask : Nat) : List Nat := (List.range n).filter (fun i => mask.testBit i)

/-- A mask with the named bits set. -/
def maskOf (l : List Nat) : Nat := l.foldl (fun m i => m ||| 2 ^ i) 0

/-- `m` with bit `i` set or cleared. -/
def putBit (m i : Nat) (v : Bool) : Nat := if v then m ||| 2 ^ i else if m.testBit i then m - 2 ^ i else m

/-- Remove `b`'s bits from `a` (below bit 64). -/
def maskDiff (a b : Nat) : Nat := a &&& (b ^^^ (2 ^ 64 - 1))

/-! ### Check values -/

def crc32cStep : Nat → Nat → Nat
  | 0, c => c
  | n + 1, c => crc32cStep n (if c % 2 = 1 then (c / 2) ^^^ 0x82F63B78 else c / 2)

/-- CRC-32C register over a byte list. -/
def crc32cRun (c : Nat) : List Byte → Nat
  | [] => c
  | x :: xs => crc32cRun (crc32cStep 8 (c ^^^ x.toNat)) xs

/-- CRC-32C of a byte list (the scope chapter's list of standards). -/
def crc32c (b : List Byte) : Nat := crc32cRun 0xFFFFFFFF b ^^^ 0xFFFFFFFF

def crc16Step : Nat → Nat → Nat
  | 0, c => c
  | n + 1, c => crc16Step n (if c ≥ 0x8000 then ((c * 2) % 0x10000) ^^^ 0x1021 else (c * 2) % 0x10000)

def crc16Run (c : Nat) : List Byte → Nat
  | [] => c
  | x :: xs => crc16Run (crc16Step 8 (c ^^^ (x.toNat * 256))) xs

/-- CRC-16 of the varnish word: polynomial 0x1021, initial value 0xFFFF, no reflection, no final inversion (R261). -/
def crc16 (b : List Byte) : Nat := crc16Run 0xFFFF b

def crc8Step : Nat → Nat → Nat
  | 0, c => c
  | n + 1, c => crc8Step n (if c ≥ 0x80 then ((c * 2) % 0x100) ^^^ 0x07 else (c * 2) % 0x100)

def crc8Run (c : Nat) : List Byte → Nat
  | [] => c
  | x :: xs => crc8Run (crc8Step 8 (c ^^^ x.toNat)) xs

/-- CRC-8 of a flit tag: polynomial 0x07, initial value 0x00, over bits [55:0] (R186), byte 0 first. -/
def crc8 (b : List Byte) : Nat := crc8Run 0 b

/-! ### SipHash-2-4 (R111, the authors' reference description) -/

structure SipSt where
  v0 : Word
  v1 : Word
  v2 : Word
  v3 : Word
deriving DecidableEq, Repr

/-- One SipRound. -/
def sipRound (s : SipSt) : SipSt :=
  let a := s.v0 + s.v1
  let b := s.v1.rotateLeft 13 ^^^ a
  let a := a.rotateLeft 32
  let c := s.v2 + s.v3
  let d := s.v3.rotateLeft 16 ^^^ c
  let a := a + d
  let d := d.rotateLeft 21 ^^^ a
  let c := c + b
  let b := b.rotateLeft 17 ^^^ c
  ⟨a, b, c.rotateLeft 32, d⟩

def sipRounds : Nat → SipSt → SipSt
  | 0, s => s
  | n + 1, s => sipRounds n (sipRound s)

/-- Absorb one 64-bit message word. -/
def sipAbsorb (s : SipSt) (m : Word) : SipSt :=
  let s := sipRounds 2 { s with v3 := s.v3 ^^^ m }
  { s with v0 := s.v0 ^^^ m }

/-- SipHash-2-4 of a message of whole 64-bit words (`len` its length in bytes), keyed with k0 and k1. -/
def sipHash24 (k0 k1 : Word) (len : Nat) (ms : List Word) : Word :=
  let s : SipSt := ⟨k0 ^^^ 0x736f6d6570736575, k1 ^^^ 0x646f72616e646f6d,
    k0 ^^^ 0x6c7967656e657261, k1 ^^^ 0x7465646279746573⟩
  let s := ms.foldl sipAbsorb s
  let s := sipAbsorb s (BitVec.ofNat 64 (len % 256) <<< 56)
  let s := sipRounds 4 { s with v2 := s.v2 ^^^ 0xff }
  s.v0 ^^^ s.v1 ^^^ s.v2 ^^^ s.v3

/-- The identity of a row-block (R111, R113). -/
structure RbIdent where
  epoch : Nat
  step : Nat
  rb : Nat
  tensor : Nat
  op : Nat
deriving DecidableEq, Repr

/-- The selection test of R111, run alike by the block and by the tray. The message is 24 bytes. -/
def selected (seed : BitVec 128) (k : Nat) (i : RbIdent) (site : Nat) : Bool :=
  let msg : List Byte := leBytes 4 i.epoch ++ leBytes 4 i.step ++ leBytes 4 i.rb ++ leBytes 2 i.tensor
    ++ leBytes 1 i.op ++ leBytes 1 site
  let h := sipHash24 (seed.extractLsb' 0 64) (seed.extractLsb' 64 64) 24
    [BitVec.ofNat 64 (u64 msg 0), BitVec.ofNat 64 (u64 msg 8), 0]
  (h.toNat >>> (64 - k)) == 0

end Sys2Proof.Machine
end

