-- ==== Sys2Proof/Config.lean ====
section
/-! DEFINITION. What an implementation fixes and the spec leaves open: constants without a body, so that no proof can see a value. -/

namespace Sys2Proof.Config

/-- A value the manual leaves undefined, drawn afresh for each index (assumption log 3): the event fields of
GN_CL_SPARSE while `ev_valid` is 0 (R68), and a value for which the manual states no result. -/
opaque freeValue : Nat → BitVec 64

/-- The fresh 32-byte nonce of DP_STATUS (R331) and the random per-message value inside an ECDSA signature (FIPS 186-5):
the manual says only that the nonce is fresh (assumption log 3). -/
opaque freeNonce : Nat → BitVec 256

/-- The start-up state of the identity array as the BCH helper data in flash corrects it, and the 48-byte check value of that helper data (R322): the manual gives
neither the code nor the data (assumption log 4). -/
opaque bchCorrect : List Byte → List Byte
opaque helperCheck : BitVec 384

/-- Salt and info of the HKDF that derives key k from the root secret: 0 the identity key, 1 the flash integrity key (R322; assumption log 4). -/
opaque kdfSalt : Nat → List Byte
opaque kdfInfo : Nat → List Byte

/-- By the bytes of the identity key: a byte of its public key, 97 bytes in SEC 1 form (R322, R340), and one of the 96 of an ECDSA P-384 signature, by the index of
its random value and the hash signed (FIPS 186-5). The manual does not say how a key pair is made of those bytes (assumption log 4). -/
opaque identityKey : List Byte → Nat → Byte
opaque identitySign : List Byte → Nat → List Byte → Nat → Byte

/-- The X coordinate that ECDH P-384 gives the identity key with a point (R321), by the key's bytes and the point's coordinates (assumption log 4). -/
opaque ecdhX : List Byte → Nat → Nat → BitVec 384

/-- The hash of Obdel's firmware-signing public key in the boot ROM (R323). -/
opaque bootKey : BitVec 384

/-- The MAC of an owner record under the flash integrity key, by key and record (R324): the manual names no MAC function (assumption log 4). -/
opaque ownerMac : List Byte → List Byte → List Byte

/-- ECDSA P-384 verification (R323, R324, R331) under the public key with a hash: that hash, the hash signed, the 96 signature bytes (assumption log 4). -/
opaque ecdsaOk : BitVec 384 → List Byte → List Byte → Bool

/-- The record code of an event record whose code the manual does not give, by kind (assumption log 12): 1 island resume, 2 misalignment,
3 time source switch, 4 link not sitting-capable, 5 image load failed, 6 graph load failed, 7 task hold, 8 collision, 9 block-tag mismatch,
10 uncorrectable memory error, 11 break-point watchdog, 12 malformed sparse row, 13 window skips, 14 ensemble refused, 15 ensemble absent,
16 panel without a walking cluster, 17 node-store error, 18 unmapped source, 19 epoch skew, 20 proof frame at a manager, 21 identity
mismatch, 22 task fault, 23 image write failed, 24 enrolment failed, 25 misalignment of the block. -/
opaque recCode : Nat → BitVec 16

/-- The trim of a time unit's increment from two successive offsets (R161: the frequency error is corrected from their trend), in 2^-32 ns
per cycle; the manual gives no formula (assumption log 3). The model bounds it at 100 ppm. -/
opaque freqTrim : Int → Int → Int

/-- The content the spec does not describe of a crash-dump section or of a HBM region: a byte of it by dump sequence number and offset
(R292 names the sections but not the bytes inside them; assumption log 9). -/
opaque dumpByte : Nat → Nat → Byte

/-- Where the bytes of a weight tensor put element (k, n): its code, once the bytes that hold it have arrived, by K, N, format, the bytes held as
(offset, byte), k and n. The manual gives no layout of a tensor as it arrives through the tap (assumption log 16). -/
opaque weightCode : Nat → Nat → Nat → List (Nat × Nat) → Nat → Nat → Option Nat

/-- The HBM address that receives the output P of a row-block (R120), by run and position in its batch: the manual leaves it to proof control (assumption
log 9). -/
opaque proofOut : Nat → Nat → Nat

/-- The bytes of the compressed block a Ginath writes for a piece of an item, by the content before it: the manual leaves them to the compressor (R203;
assumption log 22). -/
opaque zstdPack : List Byte → List Byte → List Byte

/-- The control cores that a DP_ACCESS word of the intrusive level leaves halted, by the word and the cores halted before it: the manual lets that level
halt and step control cores and does not say which access does (R332; assumption log 32). -/
opaque dpHalts : BitVec 128 → BitVec 4 → BitVec 4

/-- Nodes in the subtree of a child manager, by its node identifier: R232 counts them "under the topology", whose structure (R350) lists a node's own
children only (assumption log 17). -/
opaque nodesBelow : Nat → Nat

/-- A word of the tray's configuration of a block, by die site and register offset, as R156 has the tray rewrite it at every link start; the manual
does not say what that configuration holds (assumption log 18). -/
opaque blockCfg : Nat → Nat → BitVec 32

/-- The codes of host-die records that the block coalesces (R154, R267): the integrator defines them (R371). -/
opaque blockCoal : Nat → Bool

end Sys2Proof.Config
end

