-- ==== Sys2Proof/Machine/SMap.lean ====
section
/-! DEFINITION. Sparse maps by Nat key in one canonical form: keys strictly rising, no entry equal to what an unlisted key reads as.
Registers, the HBM bytes, rank tables and counters are held this way. -/

namespace Sys2Proof.Machine

/-- A sparse map: (key, value) pairs. `d` below is what an unlisted key reads as. -/
abbrev SMap (V : Type) := List (Nat × V)

/-- Read one key. -/
def SMap.get {V : Type} (d : Nat → V) : SMap V → Nat → V
  | [], k => d k
  | (a, x) :: m, k => if a = k then x else SMap.get d m k

/-- Put a pair in key order. -/
def SMap.ins {V : Type} : SMap V → Nat → V → SMap V
  | [], k, v => [(k, v)]
  | (a, x) :: m, k, v => if k < a then (k, v) :: (a, x) :: m else (a, x) :: SMap.ins m k v

/-- Drop a key. -/
def SMap.del {V : Type} (m : SMap V) (k : Nat) : SMap V := m.filter (fun e => e.1 != k)

/-- Write one key; writing what an unlisted key reads as removes the entry. (The map is matched first, so that a write to a map that is a variable
stands still under evaluation.) -/
def SMap.set {V : Type} [DecidableEq V] (d : Nat → V) (m : SMap V) (k : Nat) (v : V) : SMap V :=
  match m with
  | [] => if v = d k then [] else [(k, v)]
  | e :: t => if v = d k then SMap.del (e :: t) k else (SMap.del (e :: t) k).ins k v

/-- Write a run of consecutive keys. -/
def SMap.setList {V : Type} [DecidableEq V] (d : Nat → V) (m : SMap V) (k : Nat) : List V → SMap V
  | [] => m
  | v :: vs => SMap.setList d (SMap.set d m k v) (k + 1) vs

/-- Read a run of consecutive keys. -/
def SMap.getList {V : Type} (d : Nat → V) (m : SMap V) (k n : Nat) : List V :=
  (List.range n).map (fun i => SMap.get d m (k + i))

/-- Keys strictly rise from `lo`. -/
def SMap.rising {V : Type} : Nat → SMap V → Bool
  | _, [] => true
  | lo, (a, _) :: m => decide (lo ≤ a) && SMap.rising (a + 1) m

/-- The canonical form. -/
def SMap.wf {V : Type} [DecidableEq V] (d : Nat → V) (m : SMap V) : Bool :=
  SMap.rising 0 m && m.all (fun e => decide (e.2 ≠ d e.1))

end Sys2Proof.Machine
end

