-- ==== Sys2Proof/Machine/Parts.lean ====
section
/-! DEFINITION. The parts of the module's state, first half: output, records and flash, host queues, clocks and power, studios and debug,
hang monitors, links, hall time, windows, sittings, reduction and broadcasts. Quantities are naturals unless the manual treats them as bits. -/

namespace Sys2Proof.Machine

/-! ### What leaves the module or the block -/

/-- A place a frame goes: a port, or a die site over its down port. -/
inductive Dest where
  | port (p : Nat)
  | site (s : Nat)
deriving DecidableEq, Repr

/-- A frame as the sender built it (R187, R188): where it goes, type, class, stamp ht[47:0] of its build, segment of a compressed item, another segment
follows, segment number, studio tag and time quality, source, sequence number (set as it starts), body. -/
structure Frame where
  dst : Dest
  typ : Nat
  cls : Nat
  stamp : Nat
  z : Bool
  more : Bool
  seg : Nat
  studio : Nat
  tq : Nat
  src : Nat
  seq : Nat
  body : List Byte
deriving DecidableEq, Repr

/-- What a completion entry says (R343): its result as the values of R344 in their order. -/
structure Cqe where
  tag : Nat
  op : Nat
  phase : Bool
  status : Nat
  unsol : Bool
  sqHead : Nat
  ht : Nat
  result : List Nat
deriving DecidableEq, Repr

/-- Who made a register access (R357). -/
inductive Who where
  | pf
  | vf (n : Nat)
  | regDesc
  | debug
  | core
deriving DecidableEq, Repr

/-- What the block has put out, oldest first (the model's own log, assumption log 6). -/
inductive Out where
  /-- The 32 bytes of a completion entry, written to a slot of CQ `q` of a function, at a host address (R335, R343). -/
  | cqe (fn q slot addr : Nat) (b : List Byte)
  /-- An MSI-X message of a vector. -/
  | msix (fn vec : Nat)
  /-- A frame that has left on its link: the tag and the beads of each flit (R186). -/
  | frame (d : Dest) (flits : List (Nat × List Byte))
  /-- A frame that has left the block's message port: its beads (R130, R187). -/
  | beats (b : List Byte)
  /-- The answer of a register read, or a Completer Abort. -/
  | rdata (v : Nat)
  | abort
  /-- Bytes written to host memory by one TLP of a function: host address and content (R201, R339). -/
  | host (fn addr : Nat) (b : List Byte)
  /-- Bytes read from host memory by a function's DMA: host address and length (R335, R336). -/
  | hostRead (fn addr n : Nat)
  /-- The bits a JTAG capture returns, least significant first in the number. -/
  | jtag (len v : Nat)
  /-- An item handed on by ingest (R195 step 8): port, source, type, hall time of its stamp (of its arrival at a tap, R193), bytes. -/
  | item (p src typ ht : Nat) (b : List Byte)
  /-- Pins of the block: name code and value (R130). -/
  | pin (name v : Nat)
  /-- What the maintenance UART carries (R369): kind 0 a bring-up phase, 1 the code of a record of severity error or above. -/
  | uart (kind v : Nat)
deriving DecidableEq, Repr

/-! ### Event recorder (chapter 12) -/

/-- A record on its way to the recorder: its fixed form, its studio tag (R319), its rank (0x1FFFF for this module), and, for a variable
record, the payload before the varnish word. -/
structure RecItem where
  r : RecIn
  studio : Nat
  rank : Nat
  var : Option (List Byte)
deriving DecidableEq, Repr

/-- A record stored in the ring (R260 to R262): header fields, tag, and bytes 16 to len - 5 as stored. -/
structure RingRec where
  len : Nat
  code : Nat
  sev : Nat
  tq : Nat
  fx : Bool
  conf : Bool
  seq : Nat
  ht : Nat
  studio : Nat
  body : List Byte
deriving DecidableEq, Repr

/-- A ring page in use (R268): index, number, severity, bytes used, closed, its records, how many of them are in flash. -/
structure Page where
  pidx : Nat
  pgno : Nat
  sev : Nat
  used : Nat
  closed : Bool
  recs : List RingRec
  flashed : Nat
deriving DecidableEq, Repr

/-- An occupied slot of the fixed channel (R265): slot, record, whether the record is in flash. -/
structure FxSlot where
  slot : Nat
  r : RecIn
  inFlash : Bool
deriving DecidableEq, Repr

/-- A coalescing entry (R266). -/
structure Coal where
  it : RecItem
  rep : Nat
  dtLast : Nat
deriving DecidableEq, Repr

/-- A page of the flash log with its spare area (R273). -/
structure FlashPg where
  kind : Nat
  sub : Nat
  pidx : Nat
  pgno : Nat
  ht : Nat
  recs : List RingRec
  slots : List FxSlot
deriving DecidableEq, Repr

/-- A flush in progress (R275): instant of detection, ring pages written, pages left unwritten, fixed chunks written; the flash log and its write position before the flush,
from which it is cut when the flush stops. -/
structure Flush where
  ht : Nat
  pages : Nat
  left : Nat
  chunks : Nat
  was : List (Nat × FlashPg)
  wasN : Nat
deriving DecidableEq, Repr

/-- The last flush of R276, for a PFAIL_N that falls while it still runs: its instant, hall time that a module cold reset after it has put back to 0, flash pages it writes
with its marker; the recorder's part once its intake has stopped; cause of the reset before it, active reference and `flushes` then. -/
structure Turn where
  ht : Nat
  base : Nat
  n : Nat
  pages : List Page
  fx : List FxSlot
  chunks : List Nat
  flash : List (Nat × FlashPg)
  flashN : Nat
  pgno : Nat
  seq : Nat
  lastRst : Nat
  act : Nat
  flushes : Nat
deriving DecidableEq, Repr

/-- The recorder: outboxes as (producer, item) oldest first, ring pages in the order opened, fixed channel, changed chunks, coalescing
table and set of coalesced codes, severities written with each virtual function's tag since their `newsev` bits were cleared (R346),
next ring `seq` and newest `pgno`, flash log by page and pages ever written, intake stop, records dropped since intake stopped, flush, last flush of R276. -/
structure EvSt where
  outbox : List (Nat × RecItem)
  pages : List Page
  fx : List FxSlot
  chunks : List Nat
  coal : List Coal
  coalCodes : List Nat
  vfNew : SMap Nat
  seq : Nat
  pgno : Nat
  flash : List (Nat × FlashPg)
  flashN : Nat
  stopped : Bool
  stopDrops : Nat
  flush : Option Flush
  turn : Option Turn
deriving DecidableEq, Repr

/-! ### Host queues (chapter 16) -/

/-- A descriptor copied at its fetch and not yet completed (R336): the SQ head after the fetch (R343), started. -/
structure Owed where
  fn : Nat
  d : RawDesc
  head : Nat
  started : Bool
deriving DecidableEq, Repr

/-- What a function's host DMA does with one grant (R201): write an entry of CQ `q`, write up to 512 bytes, read. -/
inductive DmaOp where
  | cqe (q : Nat) (e : Cqe)
  | write (addr : Nat) (b : List Byte)
  | read (addr n : Nat)
deriving DecidableEq, Repr

/-- State of one completion ring that no register shows: head at the last poll, phase, entries since the last message, holdback. -/
structure CqSt where
  head : Nat
  phase : Bool
  unsig : Nat
  hold : List Cqe
deriving DecidableEq, Repr

/-- Host-queue state: descriptors owed oldest first, completion rings keyed fn × 4 + q, polls pending, levels of vectors 4 and 5 as last
signalled (keys fn × 8 + vector), drops of unsolicited entries not yet reported, CORE retests waiting (descriptor, cluster, cores left), submission
tails read at the last poll by fn × 4 + q, what waits for host DMA by function, SIT_RETIRE descriptors whose frames have not yet all arrived, as (descriptor,
sitting), rings stopped by an error until their `en` is cleared (R338), as fn × 8 + q for an SQ and fn × 8 + 4 + q for a CQ. -/
structure HqSt where
  owed : List Owed
  cq : SMap CqSt
  polls : List Nat
  levels : List Nat
  ovfPend : List Nat
  retests : List (DescHdr × Nat × Nat)
  tails : SMap Nat
  dma : List (Nat × DmaOp)
  retires : List (DescHdr × Nat)
  stopped : List Nat
deriving DecidableEq, Repr

/-! ### Clocks and power (chapter 14, 18) -/

/-- The input stage of R365. -/
inductive Stage48 where
  | off
  | charging
  | on
deriving DecidableEq, Repr

/-- Clock and power state outside the registers: module Off, input stage, passing gates of UPREF and FOSREF, PFAIL_N seen, trip latch,
input must be removed before a restart, hall time of the loss in the safe state, whether the flush of this Flush state has stopped, whether
the module cold reset that ends Flush waits for HREF (R312). -/
structure PwSt where
  off : Bool
  inp : Stage48
  upGates : Nat
  fosGates : Nat
  trip : Nat
  lockOut : Bool
  lossHt : Option Nat
  flushStopped : Bool
  coldWait : Bool
deriving DecidableEq, Repr

/-! ### Studios, secrets and debug (chapter 15) -/

/-- An image slot of the image region (R323, R353): version, whether an image stands whole in it, its SHA-384, signature, content of a configuration image. -/
structure ImgSlot where
  ver : Nat
  valid : Bool
  digest : List Byte
  sig : List Byte
  cfg : CfgImage
deriving DecidableEq, Repr

/-- The owner record of R324: hashes of the configuration key and the debug key, minimum versions, MAC. -/
structure Owner324 where
  cfgKey : BitVec 384
  dbgKey : BitVec 384
  minFw : Nat
  minCfg : Nat
  mac : List Byte
deriving DecidableEq, Repr

/-- The key store of the always-on block (R322): root secret, identity key, flash integrity key. -/
structure KeyStore where
  root : List Byte
  ident : List Byte
  flash : List Byte
deriving DecidableEq, Repr

/-- Secrets and debug port: session keys as (studio, key bytes), key store, tag map of studio buffers as (die site, studio whose data its rings hold), studios whose buffers are being zeroed with the
descriptor that asked, the MAINT_STOP whose steps run, firmware slots, configuration slots, loaded slots, owner record in flash, whether its MAC was found good, the debug nonce not yet used (an index of
Config.freeNonce), instant before which DP_OPEN is ignored, last DP_ACCESS capture, TAP instruction, loaded configuration. -/
structure ScSt where
  keys : List (Nat × List Byte)
  store : Option KeyStore
  tags : List (Nat × Nat)
  closing : List (Nat × DescHdr)
  maint : Option DescHdr
  fwSlots : List ImgSlot
  cfgSlots : List ImgSlot
  fwLoaded : Nat
  cfgLoaded : Nat
  owner : Option Owner324
  ownerOk : Bool
  nonce : Option Nat
  ignore : Nat
  dpData : Nat
  dpStatus : Nat
  tapIr : Nat
  cfg : Option CfgImage
deriving DecidableEq, Repr

/-! ### Hangs (chapter 13) -/

/-- A monitor's watch (R282): the count at its last evaluation, the nanoseconds counted toward the window since the last advance, the hall time of its
last evaluation. -/
structure MonSt where
  cnt : Nat
  acc : Nat
  seen : Nat
deriving DecidableEq, Repr

/-- A crash dump (R291, R292): its header; firmware image identifier, fixed channel, event ring, register fields and control-core memory as the snapshot took them; hall time at which the write to
flash began; the number of sections durable when a loss of power cut it. -/
structure DumpHdr where
  cause : Nat
  complete : Bool
  ht : Nat
  dseq : Nat
  cl : Nat
  nsec : Nat
  fw : Nat
  fixed : List FxSlot
  ring : List Page
  regs : SMap Nat
  mem : SMap Byte
  since : Nat
  cut : Option Nat
deriving DecidableEq, Repr

/-- Monitors, dump slots, dump in progress, the reset that waits for it (code of `last_rst`, hall time of the request; R287 step 1), a module
cold reset that waits for a warm reset's end (R286), per-core self-test state: deferred (core, due ht), waiting at the deadline, cores whose
withdrawal for a test has been requested and whose test has not ended, those of them that were out of service before and stay so; hall time of the last beat, whether the hardware watchdog has fired since; what the monitors watch: counts by
source × 256 + argument, and at 65,536 above that the hall time of the last advance; control cores that the debug port holds halted (R329, R332). -/
structure HgSt where
  mons : SMap MonSt
  slots : List (Option DumpHdr)
  cur : Option DumpHdr
  dseq : Nat
  warmAfter : Option (Nat × Nat)
  coldAfter : Bool
  deferred : List (Nat × Nat)
  waiting : List Nat
  testing : List Nat
  stay : List Nat
  beatHt : Nat
  wdDone : Bool
  halted : BitVec 4
  cnts : SMap Nat
deriving DecidableEq, Repr

/-! ### Links (chapter 09) -/

/-- A class-0 frame sent and not acknowledged (R191): source, sequence, sendings, frame. -/
structure Unack where
  src : Nat
  seq : Nat
  sent : Nat
  f : Frame
deriving DecidableEq, Repr

/-- An item being reassembled (R189): source, class, type, compressed, stamp, hall time, lost (a gap has discarded it and its further segments are
passed over), segments and beads so far, bytes. -/
structure Asm where
  src : Nat
  cls : Nat
  typ : Nat
  z : Bool
  stamp : Nat
  ht : Nat
  lost : Bool
  segs : Nat
  beads : Nat
  b : List Byte
deriving DecidableEq, Repr

/-- The frame whose flits are arriving: stamp, hall time of its first flit, admitted by policing, beads its header names, class, bytes so far, last flit
come. -/
structure Rx where
  stamp : Nat
  ht : Nat
  ok : Bool
  beads : Nat
  cls : Nat
  b : List Byte
  last : Bool
deriving DecidableEq, Repr

/-- One port: credits held and owed per class, the peer's whole credit per class as it advertised it, frames queued in order, class-0 frames unacknowledged, acknowledgments owed, class-0
frames accepted (newest first, 128 at most), next sequence expected per (source, class), reassembly, the frame arriving, next sequence
to send per class, compressed items waiting for a decompressor. -/
structure Port where
  cred : List Nat
  owed : List Nat
  whole : List Nat
  sendQ : List Frame
  unack : List Unack
  acks : List (Nat × Nat)
  seen0 : List (Nat × Nat)
  expSeq : List (Nat × Nat × Nat)
  asm : List Asm
  rx : Option Rx
  txSeq : List Nat
  heldZ : List Asm
deriving DecidableEq, Repr

/-- A token bucket (R197): tokens in 1/16 bead, hall time of its last evaluation. -/
structure Bucket where
  tok : Nat
  last : Nat
deriving DecidableEq, Repr

/-- A shaper (R198): credit in 1/16 bead, hall time of its last update. -/
structure Shaper where
  c : Int
  last : Nat
deriving DecidableEq, Repr

/-- An arbiter (R201): grants since the last longest-wait grant, pending requesters with the hall time their request was raised. -/
structure Arb where
  since : Nat
  reqs : List (Nat × Nat)
deriving DecidableEq, Repr

/-- A gate list (R199): entries (open mask, duration in 8 ns), phase in ns. -/
structure Gate where
  ents : List (Nat × Nat)
  phase : Nat
deriving DecidableEq, Repr

/-- The identity a tray read from a block at link start (R136): bank count, units and privilege marks per bank. -/
structure BlkId where
  nbank : Nat
  units : List (Nat × Nat)
  privs : List Nat
deriving DecidableEq, Repr

/-- Link state outside the registers: ports, token buckets (source × 2, + 1 for class 0), shapers, gate lists (active at u, committed and
waiting at 2 + u), arbiters, block identities read, sites whose identity is out of range (R3), frames of unmapped sites per port since
the last warning, bytes in the tap buffer, tap drops since the last warning, ports at which a TC-2 collector trained (R234). -/
structure LkSt where
  ports : SMap Port
  buckets : SMap (Option Bucket)
  shapers : SMap Shaper
  gates : SMap Gate
  arbs : SMap Arb
  blk : SMap BlkId
  mismatch : List Nat
  unmapped : SMap Nat
  tapFill : Nat
  tapDrops : Nat
  collectors : List Nat
deriving DecidableEq, Repr

/-! ### Hall time, windows, sittings (chapter 08) -/

/-- One exchange gathered (R162): link (port p, or 64 + site), 2θ in 1/65,536,000 ns, 2d and the round trip in 1/65,536 ns. -/
structure Exch where
  link : Nat
  th2 : Int
  d2 : Int
  rt : Int
deriving DecidableEq, Repr

/-- A time unit (R158): held value and increment per cycle in 2^-32 ns, offset still to be slewed, the source's time that a backward step
waits for, consecutive misaligned and unqualified refreshes, the last offset, exchanges gathered, smallest 2d of each link start,
hall time at which holdover began, next `xid` of a time request, requests under way as (link, `xid`, t1 in 1/65,536 ns). -/
structure TimeSt where
  fix : Nat
  inc : Nat
  slew : Int
  hold : Option Nat
  offLim : Nat
  unq : Nat
  last : Int
  xs : List Exch
  dmins : SMap Int
  dmean : SMap Int
  holdSince : Option Nat
  xid : Nat
  reqs : List (Nat × Nat × Nat)
deriving DecidableEq, Repr

/-- A cluster island as the time unit watches it (R168): stretched cycles to go, longest cycle in ps, last edge before a stop. -/
structure IslSt where
  good : Nat
  stretched : Bool
  longest : Nat
  stoppedAt : Option Nat
deriving DecidableEq, Repr

/-- What a window that is not closed has gathered (R169, R170) for one epoch (R20): start, epoch, late items, uncertain items, OR of tq, replay
samples, dies seen. -/
structure Win where
  start : Nat
  epoch : Nat
  latePrior : Nat
  bndUnc : Nat
  tq : Nat
  replay : Nat
  dies : List Nat
deriving DecidableEq, Repr

/-- A window stream: lengths in µs with the hall time each takes effect, writes of `close_us` with their hall time, both oldest first; end of the
last window closed; windows being filled; latest cumulative values of dies as (series, die site, value) (R216). -/
structure WinSt where
  segs : List (Nat × Nat)
  closes : List (Nat × Nat)
  closed : Nat
  wins : List Win
  cums : List (Nat × Nat × Nat)
deriving DecidableEq, Repr

inductive SitPhase where
  | armed
  | frozen
  | held
deriving DecidableEq, Repr

/-- A sitting at this node (R172): identifier, T, state, the descriptor when requested here, causes of this node and its links, per-die
causes, links closed, links the marker has been sent on, channel state as (link code, frame), images of dies, the counters copied at T with the node's time
quality there, head and tail of each queue at T as (queue, head, tail), children's reports, children counted lost, whether the report has been sent, cancellation pending. -/
structure Sit where
  id : Nat
  t : Nat
  st : SitPhase
  hdr : Option DescHdr
  cause : Nat
  dieCause : List (Nat × Nat)
  closed : List LinkRef
  sent : List LinkRef
  chan : List (Nat × List Byte)
  images : List (Nat × SampleIn)
  snap : SMap Nat
  tq : Nat
  tqIsl : Nat
  queues : List (Nat × Nat × Nat)
  reports : List (Nat × SitReport)
  lost : List Nat
  reported : Bool
  drop : Bool
deriving DecidableEq, Repr

/-- Bytes of channel state a sitting holds (R175). -/
def Sit.chanBytes (x : Sit) : Nat := (x.chan.map (fun e => e.2.length)).sum

/-! ### Reduction, reads, broadcasts (chapter 10) -/

/-- A summary kept in the aggregate store, and whether it was amended (R222). -/
structure Stored where
  x : Summary
  amended : Bool
deriving DecidableEq, Repr

/-- A rod in use (R220), or a span of the node's own output (R226): number of the rod, header with the bounds of the span, and the contributions as (port, whether it is
the child's own summary, contribution). -/
structure Rod where
  no : Nat
  x : Summary
  cs : List (Nat × Bool × Summary)
deriving DecidableEq, Repr

/-- A read in hand (R211, R213): request, where the reply goes (none: posted here, with its descriptor), port it was sent on, whether
the froute retry is spent, hall time of sending, waiting for a sitting, waiting for a register reply of a site. -/
structure Rd where
  q : ReadReq
  back : Option Nat
  hdr : Option DescHdr
  port : Option Nat
  retried : Bool
  sent : Nat
  site : Option Nat
  sitWait : Bool
deriving DecidableEq, Repr

/-- A child's own summary of a span, complete (R221), or only one part of it, sent on unreduced (R225): port, that part, stream, epoch, start, end, decimation and
number of parts. -/
structure Closed where
  port : Nat
  only : Option Nat
  stream : Nat
  epoch : Nat
  win : Nat
  stop : Nat
  decim : Nat
  nparts : Nat
deriving DecidableEq, Repr

/-- A broadcast at this node (R229 to R233): the arm, the descriptor when posted here, child ports not yet acknowledged with the hall time of sending, the node's own status
(0 armed, 1 late, 2 full, 3 cancelled and kept until T), fired, reports (child port, fired, late, full, nodes), foster ports re-armed. -/
structure Bc where
  a : Arm
  hdr : Option DescHdr
  wait : List (Nat × Nat)
  own : Nat
  fired : Bool
  reports : List (Nat × Nat × Nat × Nat × Nat)
  rearmed : List Nat
deriving DecidableEq, Repr

/-- What telemetry history keeps (R170, R209). -/
inductive HistItem where
  | sample (r : SampleIn)
  | progress (r : ProgIn)
  | trace (stamp tq : Nat) (b : List Byte)
deriving DecidableEq, Repr

/-- One record kept in telemetry history, under its own stamp. -/
structure Hist where
  site : Nat
  r : HistItem
deriving DecidableEq, Repr

/-- A report held while both report ports are lost (R228): a summary item under its frame type, or a frame of another report. -/
inductive Held where
  | item (typ : Nat) (x : Summary)
  | report (typ : Nat) (body : List Byte)
deriving DecidableEq, Repr

/-- Bytes a held report takes in the staging region. -/
def Held.bytes : Held → Nat
  | .item _ x => x.bytes
  | .report _ b => b.length

/-- Is it a summary: those are what a full hold drops. -/
def Held.isItem : Held → Bool
  | .item _ _ => true
  | .report _ _ => false

/-- Reduction, reads and broadcasts: rank tables (active, pending with its generation), accepted topology, rods, contributions waiting (port, own,
contribution), spans of own output, aggregate store, held reports, reads in hand, next read tag, broadcasts, aborts seen (origin, aseq), own
abort sequence, telemetry history newest last, sites whose ring has overwritten records, weight epochs that the tap
has begun as (hall time, epoch) in order (R20), replay-flagged ranges (site, open, latest verdict, close; R22), order from the parent, last control frame
sent to children, aggregate reads that wait for a sitting as (descriptor, key, window, epoch, sitting; R179), own summaries of children that are
complete (R221), last span end of each stream at which the order could fall (R226), foster ports that have contributed since they came UP (R232). -/
structure RdSt where
  ranks : SMap Word32
  pend : Option (Nat × SMap Word32)
  topo : Option Topology
  rods : List Rod
  queued : List (Nat × Bool × Summary)
  spans : List Rod
  store : List Stored
  hold : List Held
  reads : List Rd
  nextTag : Nat
  bcs : List Bc
  aborts : List (Nat × Nat)
  aseq : Nat
  hist : List Hist
  overwritten : List Nat
  epochs : List (Nat × Nat)
  flagged : List (Nat × Nat × Nat × Nat)
  ordered : Nat
  childCtl : Nat × Nat
  aggs : List (DescHdr × Nat × Nat × Nat × Nat)
  closed : List Closed
  ended : List (Nat × Nat)
  fosters : List Nat
deriving DecidableEq, Repr

/-- An arrival that ingest parked during a freeze (R173). -/
inductive Parked where
  | sample (site : Nat) (r : SampleIn)
  | trace (site stamp tq : Nat) (b : List Byte)
  | events (site studio : Nat) (rs : List RecIn)
  | progress (site : Nat) (rs : List ProgIn)
  | summary (p kind : Nat) (x : Summary)
  | part (site seq part nparts : Nat) (b : List Byte)
  | weight (w : WeightIn)
  | keepalive (site : Nat) (watermark : Nat)
  | lost (site : Nat)
deriving DecidableEq, Repr

end Sys2Proof.Machine
end

