-- ==== Sys2Proof/Machine/Tally.lean ====
section
/-! DEFINITION. Number formats and tally arithmetic (R24 to R44): decoding, special states, anchors, placing, summation, raw records and the
single final rounding. Format codes are those of R108: 0 E2M1, 1 E2M3, 2 E3M2, 3 E4M3, 4 E5M2, 5 MXINT8, 6 BF16, 7 FP32. -/

namespace Sys2Proof.Machine

/-- Special state of a product or a tally (R34). -/
inductive Sp where
  | finite
  | pinf
  | ninf
  | nan
deriving DecidableEq, Repr

/-- Exponent bits of a format (R24). -/
def fmtEbits : Nat → Nat
  | 0 => 2 | 1 => 2 | 2 => 3 | 3 => 4 | 4 => 5 | 6 => 8 | 7 => 8 | _ => 0

/-- Mantissa bits y of a format (R24, R31). -/
def fmtMbits : Nat → Nat
  | 0 => 1 | 1 => 3 | 2 => 2 | 3 => 3 | 4 => 2 | 6 => 7 | 7 => 23 | _ => 0

/-- Bias B of a format (R24, R31). -/
def fmtBias : Nat → Int
  | 0 => 1 | 1 => 1 | 2 => 3 | 3 => 7 | 4 => 15 | 6 => 127 | 7 => 127 | _ => 0

/-- Bound exponent b of a format (R24). -/
def fmtBound : Nat → Int
  | 0 => 3 | 1 => 3 | 2 => 5 | 3 => 9 | 4 => 16 | 5 => 2 | _ => 0

/-- The MX formats. -/
def isMx (f : Nat) : Bool := f < 6

/-- Formats that encode infinities: E5M2, BF16, FP32. -/
def hasInf (f : Nat) : Bool := f == 4 || f == 6 || f == 7

/-- Exact decoding sig × 2^q, scale excluded (R26, R27; routine decode). -/
def decodeElem (f code : Nat) : Sp × Int × Int :=
  if f = 5 then (.finite, sext 8 code, -6) else
  let eb := fmtEbits f
  let mb := fmtMbits f
  let m := bits code 0 mb
  let e := bits code mb eb
  let neg := code.testBit (eb + mb)
  if f = 3 ∧ e = 15 ∧ m = 7 then (.nan, 0, 0)
  else if hasInf f ∧ e = 2 ^ eb - 1 then (if m = 0 then (if neg then .ninf else .pinf) else .nan, 0, 0)
  else
    let sig : Int := if e > 0 then (2 ^ mb + m : Nat) else (m : Nat)
    let q : Int := (max e 1 : Nat) - fmtBias f - (mb : Nat)
    (.finite, if neg then -sig else sig, q)

/-- Finite and non-zero. -/
def finiteNz (f code : Nat) : Bool :=
  let (st, sig, _) := decodeElem f code
  st == .finite && sig != 0

/-- Special state of one product (R27; routine product_state). -/
def productState (sa : Sp) (pa : Int) (sb : Sp) (pb : Int) : Sp :=
  if sa = .nan ∨ sb = .nan then .nan else
  let ia := sa != .finite
  let ib := sb != .finite
  if !ia && !ib then .finite
  else if (ia && !ib && pb == 0) || (ib && !ia && pa == 0) then .nan
  else
    let na := sa == .ninf || (!ia && decide (pa < 0))
    let nb := sb == .ninf || (!ib && decide (pb < 0))
    if na != nb then .ninf else .pinf

/-- Combination of special states (R34). -/
def Sp.combine : Sp → Sp → Sp
  | .finite, x => x
  | x, .finite => x
  | .pinf, .pinf => .pinf
  | .ninf, .ninf => .ninf
  | _, _ => .nan

/-- The anchor value that means "no anchor" (R28). -/
def noAnchor : Int := -32768

/-- A tally: integer, anchor, special state, products accumulated (R28, R34, R35). The anchor is a signed 16-bit number: the engines load one only through
`Gn.clearTally`, which keeps 16 bits, and a raw record holds 16 bits. -/
structure Tally where
  t : BitVec 192
  g : Int
  st : Sp
  cnt : Nat
deriving DecidableEq, Repr

/-- An empty tally with an anchor. -/
def Tally.empty (g : Int) : Tally := ⟨0, g, .finite, 0⟩

/-- A block is live: scale not 0xFF and some element finite and non-zero (R29). -/
def blockLive (f scale : Nat) (els : List Nat) : Bool := scale != 0xFF && els.any (finiteNz f)

/-- Maximum of two optional integers. -/
def maxOpt (a : Option Int) (b : Int) : Option Int := some (match a with | none => b | some x => max x b)

/-- The MX anchor G (R29) over block pairs (scale, elements). -/
def anchorMx (fa fb : Nat) : List (Nat × List Nat) → List (Nat × List Nat) → Int := fun a b =>
  let smax := (a.zip b).foldl (fun acc p =>
    if blockLive fa p.1.1 p.1.2 && blockLive fb p.2.1 p.2.2
    then maxOpt acc ((p.1.1 : Int) - 127 + ((p.2.1 : Int) - 127)) else acc) (none : Option Int)
  match smax with
  | none => noAnchor
  | some s => s + (fmtBound fa + fmtBound fb - 1) + 1

/-- e′ of a BF16 or FP32 value (R30, R31). -/
def ePrime (f code : Nat) : Int := ((max (bits code (fmtMbits f) (fmtEbits f)) 1 : Nat) : Int) - 127

/-- The BF16 anchor G (R30). -/
def anchorBf16 (a b : List Nat) : Int :=
  match (a.zip b).foldl (fun acc p =>
    if finiteNz 6 p.1 && finiteNz 6 p.2 then maxOpt acc (ePrime 6 p.1 + ePrime 6 p.2) else acc) (none : Option Int) with
  | none => noAnchor
  | some m => m + 2

/-- The addend anchor G of a set of finite FP32 leaves (R31); no leaf gives no anchor. -/
def anchorFp32 (xs : List Nat) : Int :=
  match xs.foldl (fun acc x => maxOpt acc (ePrime 7 x)) (none : Option Int) with
  | none => noAnchor
  | some m => m + 1

/-- Place one finite product on the grid (R33): floor of p × 2^(q − (G − 151)). -/
def place (p q g : Int) : Int :=
  let h := q - (g - 151)
  if 0 ≤ h then p * (2 ^ h.toNat : Nat)
  else if 191 < -h then (if p < 0 then -1 else 0)
  else Int.fdiv p ((2 ^ (-h).toNat : Nat) : Int)

/-- Add one placed integer (R34: wrapping modulo 2^192). -/
def Tally.addInt (y : Tally) (v : Int) : Tally := { y with t := y.t + BitVec.ofInt 192 v }

/-- One product of two elements with their block scales (R27, R33, R34; the loop body of dot_mx). BF16 carries no scale. -/
def Tally.product (y : Tally) (fa ca sa fb cb sb : Nat) : Tally :=
  let y := { y with cnt := y.cnt + 1 }
  if (isMx fa && sa == 0xFF) || (isMx fb && sb == 0xFF) then { y with st := y.st.combine .nan } else
  let (ta, pa, qa) := decodeElem fa ca
  let (tb, pb, qb) := decodeElem fb cb
  let s := productState ta pa tb pb
  if s ≠ .finite then { y with st := y.st.combine s }
  else if pa = 0 ∨ pb = 0 then y
  else
    let xa : Int := if isMx fa then (sa : Int) - 127 else 0
    let xb : Int := if isMx fb then (sb : Int) - 127 else 0
    y.addInt (place (pa * pb) (qa + qb + xa + xb) y.g)

/-- One FP32 addend (R31, R33). -/
def Tally.addend (y : Tally) (code : Nat) : Tally :=
  let y := { y with cnt := y.cnt + 1 }
  let (_, p, q) := decodeElem 7 code
  if p = 0 then y else y.addInt (place p q y.g)

/-- Merge of two partials (R36): none when refused. -/
def Tally.merge (a b : Tally) : Option Tally :=
  if a.g ≠ b.g ∨ 2 ^ 40 - 1 < a.cnt + b.cnt then none
  else some ⟨a.t + b.t, a.g, a.st.combine b.st, a.cnt + b.cnt⟩

/-- Code of a special state in a raw record (R35). -/
def Sp.code : Sp → Nat
  | .finite => 0 | .pinf => 1 | .ninf => 2 | .nan => 3

/-- The raw tally record (R35). -/
def Tally.raw (y : Tally) : List Byte :=
  leBytes 24 y.t.toNat ++ leBytes 2 ((BitVec.ofInt 16 y.g).toNat) ++ leBytes 1 y.st.code ++ leBytes 5 y.cnt

/-- Read a raw tally record (R35): none for a reserved `st` or a non-zero `t` without anchor; the reserved bits [215:212] are ignored (R9). -/
def Tally.ofRaw (b : List Byte) : Option Tally :=
  let g := sext 16 (u16 b 24)
  let s := u8 b 26 % 16
  let t := BitVec.ofNat 192 (uN b 0 24)
  if s > 3 ∨ (g = noAnchor ∧ t ≠ 0) then none
  else some ⟨t, g, if s = 0 then .finite else if s = 1 then .pinf else if s = 2 then .ninf else .nan, uN b 27 5⟩

/-! ### Final conversion -/

/-- Round m / 2^k to nearest, ties to even. -/
def rneShift (m k : Nat) : Nat :=
  let q := m >>> k
  let r := m % 2 ^ k
  if k = 0 then m
  else if 2 * r > 2 ^ k ∨ (2 * r = 2 ^ k ∧ q % 2 = 1) then q + 1 else q

/-- Smallest normal exponent of an output format (R38, R39). -/
def fmtEmin : Nat → Int
  | 0 => 0 | 1 => 0 | 2 => -2 | 3 => -6 | 4 => -14 | _ => -126

/-- emax of R39 step 2. -/
def fmtEmax : Nat → Int
  | 0 => 2 | 1 => 2 | 2 => 4 | 3 => 8 | 4 => 15 | _ => 0

/-- Code of the largest finite magnitude of a format. -/
def fmtMaxCode : Nat → Nat
  | 0 => 0x7 | 1 => 0x1F | 2 => 0x1F | 3 => 0x7E | 4 => 0x7B | 5 => 0x7F | 6 => 0x7F7F | _ => 0x7F7FFFFF

/-- Round |mag × 2^lo| into a format (routine round_to): significand r and exponent u. -/
def roundTo (f : Nat) (mag : Nat) (lo : Int) : Nat × Int :=
  if mag = 0 then (0, 0) else
  let e : Int := (mag.log2 : Nat) + lo
  let u : Int := max e (fmtEmin f) - (fmtMbits f : Nat)
  let r : Nat := if u ≤ lo then mag <<< (lo - u).toNat else rneShift mag (u - lo).toNat
  if r = 2 ^ (fmtMbits f + 1) then (r / 2, u + 1) else (r, u)

/-- Magnitude code of r × 2^u, unbounded exponent field. -/
def encodeMag (f : Nat) (r : Nat) (u : Int) : Nat :=
  if r < 2 ^ fmtMbits f then r
  else ((u + (fmtMbits f : Nat) + fmtBias f).toNat) * 2 ^ fmtMbits f + (r - 2 ^ fmtMbits f)

/-- Sign bit of a format. -/
def signBit (f : Nat) (neg : Bool) : Nat := if neg then 2 ^ (fmtEbits f + fmtMbits f) else 0

/-- Sign and magnitude of a tally integer. -/
def Tally.sgnMag (y : Tally) : Bool × Nat :=
  let i := y.t.toInt
  (decide (i < 0), i.natAbs)

/-- An FP32 or BF16 output of (sign, magnitude × 2^lo) (R38): code, and whether it overflowed. -/
def encodeFp (f : Nat) (neg : Bool) (mag : Nat) (lo : Int) : Nat × Bool :=
  let (r, u) := roundTo f mag lo
  if r = 0 then (0, false) else
  let c := encodeMag f r u
  if c > fmtMaxCode f then (signBit f neg + fmtMaxCode f + 1, true) else (signBit f neg + c, false)

/-- FP32 or BF16 conversion of a tally (R38, R41): code and overflow count. -/
def Tally.toFp (y : Tally) (f : Nat) : Nat × Nat :=
  match y.st with
  | .finite =>
    let (neg, mag) := y.sgnMag
    let (c, o) := encodeFp f neg mag (y.g - 151)
    (c, b2n o)
  | .pinf => (fmtMaxCode f + 1, 0)
  | .ninf => (signBit f true + fmtMaxCode f + 1, 0)
  | .nan => (fmtMaxCode f + 1 + 2 ^ (fmtMbits f - 1), 0)

/-- floor(log2 of the value) of a finite non-zero tally. -/
def Tally.floorLog2 (y : Tally) : Option Int :=
  if y.st = .finite ∧ y.t ≠ 0 then some ((y.sgnMag.2.log2 : Nat) + (y.g - 151)) else none

/-- The block scale exponent X of R39 steps 1 and 2, and whether it was clamped at 127; none: the scale byte is 0x7F. -/
def mxScale (f : Nat) (ys : List Tally) : Option (Int × Bool) :=
  match ys.foldl (fun acc y => match y.floorLog2 with | none => acc | some e => maxOpt acc e) (none : Option Int) with
  | none => none
  | some m =>
    let x := m - fmtEmax f
    some (max (-127) (min 127 x), decide (x > 127))

/-- One MX element (R39 to R41) under scale exponent X: code, `sat_clamp` and `special_sat` counts. -/
def Tally.toMxElem (y : Tally) (f : Nat) (x : Int) : Nat × Nat × Nat :=
  match y.st with
  | .finite =>
    let (neg, mag) := y.sgnMag
    if f = 5 then
      let lo := y.g - 151 + 6 - x
      let r : Nat := if 0 ≤ lo then mag <<< lo.toNat else rneShift mag (-lo).toNat
      if r > 127 then (if neg then 0x81 else 0x7F, 1, 0) else (if neg then (256 - r) % 256 else r, 0, 0)
    else
      let (r, u) := roundTo f mag (y.g - x - 151)
      if r = 0 then (0, 0, 0) else
      let c := encodeMag f r u
      if c > fmtMaxCode f then (signBit f neg + fmtMaxCode f, 1, 0) else (signBit f neg + c, 0, 0)
  | .pinf => if f = 4 then (0x7C, 0, 0) else (fmtMaxCode f, 0, 1)
  | .ninf => if f = 4 then (0xFC, 0, 0) else if f = 5 then (0x81, 0, 1) else (signBit f true + fmtMaxCode f, 0, 1)
  | .nan => if f = 4 then (0x7F, 0, 0) else if f = 3 then (0x7F, 0, 0) else (fmtMaxCode f, 0, 1)

/-- An MX output block (R39 to R41): scale byte, element codes, `sat_clamp` and `special_sat` counts. -/
def mxBlock (f : Nat) (ys : List Tally) : Nat × List Nat × Nat × Nat :=
  let sc := mxScale f ys
  let x := match sc with | none => 0 | some (x, _) => x
  let clamp := match sc with | some (_, true) => 1 | _ => 0
  let es := ys.map (fun y => y.toMxElem f x)
  ((x + 127).toNat, es.map (·.1), clamp + (es.map (·.2.1)).sum, (es.map (·.2.2)).sum)

/-- Live bit of an MX output block as the tag generator writes it (R51). -/
def blockTag (f scale : Nat) (els : List Nat) : Nat := scale + (if blockLive f scale els then 256 else 0)

/-! ### Vector-unit arithmetic (R53, R44): IEEE 754 binary32, round to nearest even, no flush to zero -/

/-- Canonical quiet NaN of binary32. -/
def fpNan : Nat := 0x7FC00000

/-- A binary32 value as a tally-like exact number: special, sign of zero kept apart. -/
def fpNeg (x : Nat) : Bool := x.testBit 31

/-- Round an exact value sig × 2^q into binary32; a zero takes the sign given. -/
def fpRound (sig q : Int) (zneg : Bool) : Nat :=
  if sig = 0 then signBit 7 zneg else
  let r := (encodeFp 7 (decide (sig < 0)) sig.natAbs q).1
  if r = 0 then signBit 7 (decide (sig < 0)) else r

/-- Exact sum of two values sig × 2^q, at the lower exponent. -/
def exactAdd (a qa b qb : Int) : Int × Int :=
  let q := min qa qb
  (a * (2 ^ (qa - q).toNat : Nat) + b * (2 ^ (qb - q).toNat : Nat), q)

/-- Fused multiply-add a × b + c. -/
def fpFma (a b c : Nat) : Nat :=
  let (sa, pa, qa) := decodeElem 7 a
  let (sb, pb, qb) := decodeElem 7 b
  let (sc, pc, qc) := decodeElem 7 c
  let pst := if sa = .finite ∧ sb = .finite then Sp.finite else
    if sa = .nan ∨ sb = .nan then .nan
    else if (sa = .finite ∧ pa = 0) ∨ (sb = .finite ∧ pb = 0) then .nan
    else if fpNeg a != fpNeg b then .ninf else .pinf
  match pst.combine sc with
  | .nan => fpNan
  | .pinf => 0x7F800000
  | .ninf => 0xFF800000
  | .finite =>
    let (s, q) := exactAdd (pa * pb) (qa + qb) pc qc
    let pneg := fpNeg a != fpNeg b
    fpRound s q (pneg && fpNeg c)

/-- Addition a × 1 + b. -/
def fpAdd (a b : Nat) : Nat := fpFma a 0x3F800000 b

/-- Multiplication. -/
def fpMul (a b : Nat) : Nat :=
  let (sa, pa, qa) := decodeElem 7 a
  let (sb, pb, qb) := decodeElem 7 b
  let neg := fpNeg a != fpNeg b
  if sa = .nan ∨ sb = .nan then fpNan
  else if sa = .finite ∧ sb = .finite then fpRound (pa * pb) (qa + qb) neg
  else if (sa = .finite ∧ pa = 0) ∨ (sb = .finite ∧ pb = 0) then fpNan
  else if neg then 0xFF800000 else 0x7F800000

/-- Ordering of two binary32 values: none when unordered. -/
def fpLt (a b : Nat) : Option Bool :=
  let (sa, pa, qa) := decodeElem 7 a
  let (sb, pb, qb) := decodeElem 7 b
  if sa = .nan ∨ sb = .nan then none
  else if sa = .ninf then some (sb ≠ .ninf)
  else if sb = .ninf then some false
  else if sb = .pinf then some (sa ≠ .pinf)
  else if sa = .pinf then some false
  else some (decide ((exactAdd pa qa (-pb) qb).1 < 0))

/-- Reciprocal: 2^200 / sig kept with a sticky bit, then rounded once. -/
def fpRecip (a : Nat) : Nat :=
  let (sa, pa, qa) := decodeElem 7 a
  let neg := fpNeg a
  match sa with
  | .nan => fpNan
  | .pinf => 0
  | .ninf => 0x80000000
  | .finite =>
    if pa = 0 then signBit 7 neg + 0x7F800000 else
    let n := pa.natAbs
    let d := 2 ^ 400 / n
    let m := 2 * d + b2n (decide (2 ^ 400 % n ≠ 0))
    fpRound (if neg then -(m : Int) else m) (-401 - qa) neg

/-- Integer square root of n by bits: the largest r with r × r ≤ n. -/
def isqrtGo : Nat → Nat → Nat → Nat
  | 0, _, r => r
  | k + 1, n, r => isqrtGo k n (if (r + 2 ^ k) * (r + 2 ^ k) ≤ n then r + 2 ^ k else r)

/-- Square root, correctly rounded. -/
def fpSqrt (a : Nat) : Nat :=
  let (sa, pa, qa) := decodeElem 7 a
  match sa with
  | .nan => fpNan
  | .pinf => 0x7F800000
  | .ninf => fpNan
  | .finite =>
    if pa = 0 then a else if pa < 0 then fpNan else
    let odd := decide (qa % 2 ≠ 0)
    let n := pa.natAbs * 2 ^ (if odd then 61 else 60)
    let q := if odd then qa - 61 else qa - 60
    let r := isqrtGo 50 n 0
    fpRound ((2 * r + b2n (decide (r * r ≠ n)) : Nat) : Int) (q / 2 - 1) false

/-- 2^(2^-i) × 2^200 for the fraction bits of exp2, from `c` = that of the bit before; the product of those whose bit of `f` (bit `k` is worth
2^(k - 50)) is 1. -/
def exp2Go : Nat → Nat → Nat → Nat → Nat
  | 0, _, _, m => m
  | k + 1, f, c, m =>
    let c := isqrtGo 201 (c * 2 ^ 200) 0
    exp2Go k f c (if f.testBit k then m * c / 2 ^ 200 else m)

/-- exp2, correctly rounded: 200 fraction bits with a sticky bit, then rounded once (assumption log 13). Below 2^-26 in magnitude it is 1. -/
def fpExp2 (a : Nat) : Nat :=
  let (sa, pa, qa) := decodeElem 7 a
  match sa with
  | .nan => fpNan
  | .pinf => 0x7F800000
  | .ninf => 0
  | .finite =>
    if bits a 23 8 < 101 then 0x3F800000
    else if 134 < bits a 23 8 then (if fpNeg a then 0 else 0x7F800000)
    else
      let x : Int := pa * 2 ^ (qa + 50).toNat
      let n := Int.fdiv x (2 ^ 50)
      let f := (x - n * 2 ^ 50).toNat
      if f = 0 then fpRound 1 n false
      else fpRound ((2 * exp2Go 50 f (2 ^ 201) (2 ^ 200) + 1 : Nat) : Int) (n - 201) false

/-- Fraction bits of log2 of z × 2^-300 in [1, 2), by repeated squaring. -/
def log2Go : Nat → Nat → Nat → Nat
  | 0, _, v => v
  | k + 1, z, v =>
    let z := z * z / 2 ^ 300
    if 2 ^ 301 ≤ z then log2Go k (z / 2) (2 * v + 1) else log2Go k z (2 * v)

/-- log2, correctly rounded: 120 fraction bits with a sticky bit, then rounded once (assumption log 13). -/
def fpLog2 (a : Nat) : Nat :=
  let (sa, pa, qa) := decodeElem 7 a
  match sa with
  | .nan => fpNan
  | .pinf => 0x7F800000
  | .ninf => fpNan
  | .finite =>
    if pa = 0 then 0xFF800000 else if pa < 0 then fpNan else
    let k := msb pa.natAbs
    let e : Int := qa + k
    if pa.natAbs = 2 ^ k then fpRound e 0 false
    else
      let v := log2Go 120 (pa.natAbs * 2 ^ (300 - k)) 0
      fpRound (2 * (e * 2 ^ 120 + v) + 1) (-121) false

end Sys2Proof.Machine
end

