-- ==== Sys2Proof/Machine/Parts2.lean ====
section
/-! DEFINITION. The parts of the module's state, second half: images, graphs and running tasks, engines, tree ensembles, proofing, health. -/

namespace Sys2Proof.Machine

/-! ### Images, graphs, tasks (chapter 04) -/

/-- A task of a graph (R78). -/
structure Task where
  image : Nat
  kind : Nat
  pri : Nat
  strict : Bool
  halt : Bool
  npred : Nat
  cmask : Nat
  succs : List Nat
  k : Nat
  param : Nat
  inAddr : Nat
  outAddr : Nat
  auxAddr : Nat
  stride : Nat
deriving DecidableEq, Repr

/-- Why a task faulted with FAULT_DATA, for proofs (R122). -/
inductive Why where
  | none
  | merge
  | tag
  | index
  | shape
  | other
deriving DecidableEq, Repr

/-- A running pipeline's run-time state: plan and cores in use per cluster of its mask, cycles since the last break point per cluster, break-point
number reached, status a fault has fixed, held clusters, launch stamp, counts for records 0x0201 and 0x0301, panels released, clusters that have signalled the coming break point, and per cluster the island cycle within the current 8 (R307). -/
structure Run where
  plans : List Nat
  used : List Nat
  cyc : List Nat
  bp : Nat
  status : Nat
  why : Why
  held : Bool
  launched : Nat
  delay : Nat
  special : Nat
  idx : Nat
  released : List (Nat × Nat)
  cancel : Bool
  oct : List Nat
deriving DecidableEq, Repr

/-- State of one task of one instance (R81 to R84). -/
inductive TSt where
  | waiting
  | ready (stamp : Nat)
  | running (r : Run)
  | done (status : Nat)
deriving DecidableEq, Repr

/-- An instance: number, per-task states, tasks that ever launched, the cluster proof control bound it to, ensemble bindings (slot, epoch), ready tasks
held at launch without a plan (R76), whether proof control has ended it (R127). -/
structure Inst where
  n : Nat
  ts : List TSt
  launchedTasks : List Nat
  cluster : Option Nat
  bind : List (Nat × Nat)
  noPlan : List Nat
  freed : List (Nat × Nat)
  ended : Bool
deriving DecidableEq, Repr

/-- A resident graph (R78, R80): queue it was loaded from, mode, limits, tasks, state, windows waiting, skips, next instance number. -/
structure Graph where
  slot : Nat
  mode : Nat
  instMax : Nat
  stream : Nat
  tasks : List Task
  allTasks : Bool
  fn : Nat
  sq : Nat
  enabled : Bool
  halted : Bool
  unload : Option DescHdr
  unloading : Bool
  winSkip : Nat
  skipWarn : Bool
  wins : List Nat
  next : Nat
  insts : List Inst
deriving DecidableEq, Repr

/-- An image made resident: its number and content. -/
structure ResImg where
  num : Nat
  img : Image
deriving DecidableEq, Repr

/-- Task-sequencer state: images, graphs, schedules last loaded per core (image, plan), tallies in use by
(cluster × 131,072 + engine × 1,024 + index; engine 64 + core is a walker's file), CORE descriptors waiting (cluster, core
mask, withdrawal). -/
structure SqSt where
  images : List ResImg
  graphs : List Graph
  sched : SMap Nat
  tallies : SMap (Option Tally)
  coreWait : List (DescHdr × Nat × Nat × Bool)
deriving DecidableEq, Repr

/-! ### The engine array (chapter 03) -/

/-- One value fed to the lanes: position along K, element code, block scale (R49, R61). -/
structure KVal where
  pos : Nat
  code : Nat
  scale : Nat
deriving DecidableEq, Repr

/-- What one row of an engine works on in a cycle (R49): nothing; a slice of K with the formats of its stage, its values of the 32 rows of A and of the 32
columns of B, and the tile's 1,024 anchors when it is the tile's first; or the drain of the row: whether its outputs may be written, format, address. -/
inductive Beat where
  | idle
  | feed (fmtA fmtB : Nat) (first : Option (List Int)) (a b : List (List KVal))
  | drain (ok : Bool) (fmt out : Nat)
deriving DecidableEq, Repr

/-- A tile given to an engine (R49): its stage, operand addresses, metadata of a compressed B, first K and length of its slice, K entered so far, whether its tallies
stay for a raw drain, output address. -/
structure Tile where
  st : Stage
  a : Nat
  b : Nat
  md : Nat
  k0 : Nat
  kn : Nat
  done : Nat
  raw : Bool
  out : Nat
deriving DecidableEq, Repr

/-- An anchor pass (R50): its stage, operand addresses, K, block indices (BF16: k) read so far, the running maximum of each output. -/
structure Pass where
  st : Stage
  a : Nat
  b : Nat
  k : Nat
  next : Nat
  acc : List (Option Int)
deriving DecidableEq, Repr

/-- A drain of `n` tallies in progress (R52, R97): raw or a format, whether its outputs may be written, next tally, output address. -/
structure DrainJob where
  raw : Bool
  ok : Bool
  fmt : Nat
  next : Nat
  n : Nat
  out : Nat
deriving DecidableEq, Repr

/-- An add-in of `n` raw records in progress (R52): next record, source address. -/
structure AddJob where
  next : Nat
  n : Nat
  src : Nat
deriving DecidableEq, Repr

/-- One engine (R48 to R52): the stage that the next passes and tiles belong to, anchor passes waiting and in progress, anchors ready for the next tile, tiles (the first is entering row 0),
cycles that its current group still takes, whether its rows moved in the last cycle, its 32 rows, rows of A and columns of B live so far in the block that streams, a block tag that
differed in the current tile, drain and add-in in progress. The walker of a core has the last two for its tally file. -/
structure EngSt where
  stage : Option Stage
  passes : List Pass
  ready : Option (List Int)
  tiles : List Tile
  wait : Nat
  moved : Bool
  rows : List Beat
  liveA : Nat
  liveB : Nat
  bad : Bool
  drain : Option DrainJob
  add : Option AddJob
deriving DecidableEq, Repr

/-- A segment of a sparse row (R66, R67): its number in the stage, that of its row's first segment, output row, address of its first entry in each engine's
core SRAM, entries, entries that the anchor pass has read, partial anchor maxima of its 32 outputs, the combined anchors once returned, entries put into
the queue, entries placed, the step of its raw drain or of the add-in and the drain of its row (0: it still places), complete. -/
structure Seg where
  num : Nat
  head : Nat
  row : Nat
  addr : Nat
  n : Nat
  scanned : Nat
  part : List (Option Int)
  anch : Option (List Int)
  queued : Nat
  placed : Nat
  busy : Nat
  done : Bool
deriving DecidableEq, Repr

/-- An unstructured stage on its engines (R65 to R67): stage, engines as the stage names them, address of the next row header and headers left, B and output
addresses, segments, per engine the queues of its 32 lane groups with (column, code, scale) and the rotation pointers of issue and of service, partial
rows drained (segment, records). -/
structure SpStage where
  st : Stage
  engs : List Nat
  next : Nat
  left : Nat
  b : Nat
  out : Nat
  segs : List Seg
  queues : SMap (List (Nat × Nat × Nat))
  issueRot : SMap Nat
  serveRot : SMap Nat
  parts : List (Nat × List Tally)
deriving DecidableEq, Repr

/-- An entry of a crossing (R59): 256 bytes at most, elements and block scales, where it goes; or a record. `held`: the last edge of the island before
a stop that the entry sat through (R168). -/
inductive XEnt where
  | data (b scales : List Byte) (dst : XDst) (held : Option Nat)
  | event (r : RecIn) (held : Option Nat)
deriving DecidableEq, Repr

/-- A job of a core's vector unit, which is in order (R53): an operation on `n` lanes with the operands that its read path has brought so far; an MX encode;
a quantization. -/
inductive VecJob where
  | lanes (op n a b c dst : Nat) (got : List (List Byte))
  | encode (fmt src dst : Nat)
  | quantize (ens feat src dst : Nat)
deriving DecidableEq, Repr

/-- A chunk that a walker walks (R95, R97): graph slot, instance, task, ensemble slot, epoch, rows, panels left in ascending order (the first is being
walked), per bank the next (tree, row) pair. -/
structure WalkChunk where
  slot : Nat
  inst : Nat
  idx : Nat
  ens : Nat
  epoch : Nat
  rows : Nat
  panels : List Nat
  next : List Nat
deriving DecidableEq, Repr

/-- The engine array: bytes of core SRAM and shared buffer (cluster × 2^24 + cluster address), block tags (cluster × 2^21 + address / 8), flipped bits of their
72-bit words (same key) and of tallies (tally key), engines (cluster × 128 + engine), unstructured stages (cluster × 128 + engine that the command names), walker code buffers
(cluster × 2^18 + core × 2^14 + index), loads of them as (source, index, codes left), chunks and vector jobs (cluster × 16 + core), crossings (cluster × 2,
+ 1 for the way to the cluster), what the I/O side still has to push into them, island cycle of a cluster with the (graph, instance, task) that have run in
it; and within a cycle the accesses (requester, resource), the footprint violations, the
tallies drained and accumulated, the uncorrectable errors (core rank, address, where), the sparsity events (core, engine, density violations, index-range
events). -/
structure ArSt where
  mem : SMap Byte
  tags : SMap (BitVec 16)
  flips : SMap Nat
  tflips : SMap Nat
  engs : SMap EngSt
  sparse : SMap (Option SpStage)
  codes : SMap Nat
  chunks : SMap (Option WalkChunk)
  cross : SMap (List XEnt)
  pend : SMap (List XEnt)
  loads : SMap (List (Nat × Nat × Nat))
  vecs : SMap (List VecJob)
  cyc : SMap (Nat × List (Nat × Nat × Nat))
  acc : List (Nat × Nat)
  bad : List (Nat × Nat)
  read : List Nat
  wrote : List Nat
  ues : List (Nat × Nat × Nat)
  evs : List (Nat × Nat × Nat × Nat)
deriving DecidableEq, Repr

/-! ### Tree ensembles (chapter 05) -/

/-- A panel of an ensemble epoch (R94). -/
structure Panel where
  num : Nat
  hbm : Bool
  cmask : Nat
  rows : Nat
  rowBase : Nat
  setBase : Nat
  setRows : Nat
  trees : List Nat
  nodes : List (Nat × Nat × Word)
  sets : List (Nat × Nat × BitVec 256)
deriving DecidableEq, Repr

/-- An ensemble epoch with what is computed at staging (R101, R104). -/
structure Epoch where
  epoch : Nat
  nfeat : Nat
  nout : Nat
  qrecs : List (BitVec 128)
  bBase : Nat
  bounds : List Word32
  panels : List Panel
  anchor : Int
deriving DecidableEq, Repr

/-- Why a slot is busy. -/
inductive EnsSt where
  | empty
  | ready
  | staging
  | commit
  | unloading
deriving DecidableEq, Repr

/-- An ensemble slot (R100 to R106): state, admitting epoch, incoming epoch, panels still to write and being written, references per
(epoch, panel or 65,535 for the set), old epochs still referenced, damaged replicas (epoch, cluster, panel), panels of the new epoch written, the
descriptor waiting, the staging whose checks wait for its copy (R104). -/
structure Ens where
  st : EnsSt
  cur : Option Epoch
  new : Option Epoch
  left : List Nat
  writing : List Nat
  refs : List (Nat × Nat × Nat)
  old : List Epoch
  damaged : List (Nat × Nat × Nat)
  written : List Nat
  hdr : Option DescHdr
  input : Option EnsIn
deriving DecidableEq, Repr

/-- A walk in a walker slot (R93): panel of the walker's chunk, current panel-relative index, depth, row of the chunk. -/
structure Walk where
  panel : Nat
  node : Nat
  depth : Nat
  row : Nat
deriving DecidableEq, Repr

/-- Tree-ensemble state: slots, boundary pool, walks keyed cluster × 512 + core × 32 + bank × 2 + (0, or 1 for the second walk of an HBM panel), node words
per cluster (cluster × 2^20 + bank × 65,536 + row), set rows (cluster × 4,096 + bank × 256 + row), HBM overflow nodes, scrub row per cluster, flipped
bits of the 72-bit node words (same key) and of set quarters (set key × 4 + quarter). -/
structure TsSt where
  slots : SMap Ens
  pool : SMap Word32
  walks : SMap (Option Walk)
  store : SMap Word
  sets : SMap (BitVec 256)
  beyond : SMap Word
  scrub : SMap Nat
  nodeFlips : SMap Nat
  setFlips : SMap Nat
deriving DecidableEq, Repr

/-! ### Proofing (chapter 06) -/

/-- A tensor entry of a plan (R109). -/
structure Tensor where
  ops : Nat
  fmtW : Nat
  fmtF : Nat
  fmtB : Nat
  sparse : Nat
  graphF : Nat
  graphB : Nat
  kdim : Nat
  ndim : Nat
  wBytes : Nat
deriving DecidableEq, Repr

/-- A proofing plan held (R109). -/
structure Plan where
  fromEpoch : Nat
  k : Nat
  dblAll : Bool
  deadlineUs : Nat
  gatherUs : Nat
  batchMax : Nat
  pool : Nat
  tensors : List Tensor
deriving DecidableEq, Repr

/-- A seed held, and the (k, deadline) it was forwarded with (R110). -/
structure Seed where
  epoch : Nat
  seed : BitVec 128
  sent : Option (Nat × Nat)
deriving DecidableEq, Repr

/-- A weight capture (R117 to R119): size, base in HBM, bytes held by offset, stored CRCs per 64 KiB chunk, bytes of each chunk covered by the repeat in
progress with their running content, damaged, transposable, freed while a running proof still keeps it. -/
structure Capture where
  epoch : Nat
  tensor : Nat
  size : Nat
  base : Nat
  bytes : SMap Nat
  crcs : List (Nat × Nat)
  rep : SMap Nat
  damaged : Bool
  transposable : Bool
  freed : Bool
deriving DecidableEq, Repr

/-- How far an export is (R116, R125). -/
inductive ExpSt where
  | arriving
  | waiting (since : Nat)
  | running
  | answered
deriving DecidableEq, Repr

/-- One finished run of a row-block: role (0 first, 1 counterproof, 2 third), cluster, output. -/
structure PRun where
  role : Nat
  cl : Nat
  out : List Byte
deriving DecidableEq, Repr

/-- An export held in the landing area (R113, R116): header bytes (none when it never arrived intact), parts, next part, stream bytes,
state, double coverage, runs that have given an output, roles of which one attempt has faulted, runs in flight (run, role), clusters last
given to each role (role, cluster), its address in the landing area, the graph slot its batch is bound to, the plan that governed it at acceptance. -/
structure Exp where
  site : Nat
  seq : Nat
  hdr : List Byte
  nparts : Nat
  next : Nat
  data : List Byte
  st : ExpSt
  dbl : Bool
  runs : List PRun
  faults : List Nat
  inFlight : List (Nat × Nat)
  cls : List (Nat × Nat)
  base : Nat
  slot : Option Nat
  plan : Option Plan
  re : Bool
deriving DecidableEq, Repr

/-- A proof run dispatched: identifier, graph slot, instance number, cluster, role (0 first, 1 counterproof, 2 third), row-blocks, whether its cluster was
quarantined since, the first fault of its tasks (status, cause), whether its instance has ended. -/
structure PfRun where
  id : Nat
  slot : Nat
  inst : Nat
  cl : Nat
  role : Nat
  rbs : List (Nat × Nat)
  suspect : Bool
  bad : Option (Nat × Why)
  ended : Bool
deriving DecidableEq, Repr

/-- Tracking of first exports per die site (R115): base (none before the first link start), seqs above it received or answered, whether the next
keep-alive gives a new base. -/
structure Track where
  base : Option Nat
  seen : List Nat
  awaitBase : Bool
deriving DecidableEq, Repr

structure PfSt where
  plans : List Plan
  seeds : List Seed
  seedWarned : List Nat
  caps : List Capture
  exps : List Exp
  tracks : SMap Track
  runs : List PfRun
  nextRun : Nat
  pointer : Nat
  quar : List (Nat × Nat × List Nat)
  barred : List Nat
  lastQuar : List (Nat × Nat)
  epoch : Nat
  refused : List (Nat × Nat)
  verdicts : Nat
deriving DecidableEq, Repr

/-! ### Health (chapter 11) -/

inductive RkPh where
  | active
  | candidate
  | held
  | emitted
  | muted
  | expelled
deriving DecidableEq, Repr

/-- Health of a rank (R248, R250): penalty, state, cause bits since P was last 0, hall time the mute ends. -/
structure Rank where
  p : Nat
  st : RkPh
  causes : Nat
  muteEnd : Nat
deriving DecidableEq, Repr

/-- A duration retained at the tray, waiting for its window's close (R240): phase, ns, rank, pair count, stamp. -/
structure Dur where
  phase : Nat
  d : Nat
  rank : Nat
  c : Nat
  ht : Nat
deriving DecidableEq, Repr

/-- Pairing state of a die and monitor (R238): count of the last record, (stamp, tq) of that pulse and of the one before it where their times are
known. -/
structure Pulse where
  count : Nat
  last : Option (Nat × Nat)
  prev : Option (Nat × Nat)
deriving DecidableEq, Repr

/-- A baseline of a phase and epoch (R243): sketch, windows merged so far, whether it is built and so frozen for good. -/
structure Base where
  phase : Nat
  epoch : Nat
  sk : Sketch
  n : Nat
  frozen : Bool
deriving DecidableEq, Repr

/-- An operator answer waiting for the next run (R254): code 1 to 6, rank, argument, descriptor. -/
structure Answer where
  code : Nat
  rank : Nat
  arg : Nat
  hdr : DescHdr
deriving DecidableEq, Repr

/-- Health state: ranks by number, straggler history (rank, phase, results newest first), last straggler evidence
(rank × 16 + phase, ht), drift history per phase, last drift record, baselines, emissions in the quota window (ht), emission
sequence, answers, minute of the last decay, pulses keyed site × 256 + monitor, durations of open windows, evidence not yet reported
(ht, site, points, cause bit), last anomaly evidence (site × 8 + bit, ht), complete parts waiting for a run, late evidence waiting, last 0x0201 sum and its epoch,
windows that have had their run (R249). -/
structure HlSt where
  ranks : SMap Rank
  slow : List (Nat × Nat × List Bool)
  slowHt : List (Nat × Nat)
  drift : List (Nat × List Bool)
  driftHt : List (Nat × Nat)
  bases : List Base
  emits : List Nat
  emitSeq : Nat
  answers : List Answer
  minute : Nat
  pulses : SMap (Option Pulse)
  durs : List Dur
  evid : List (Nat × Nat × Nat × Nat)
  anomHt : List (Nat × Nat)
  ready : List Summary
  lateEv : List Summary
  lastSum : Nat
  lastEpoch : Nat
  ran : List Nat
deriving DecidableEq, Repr

end Sys2Proof.Machine
end

