-- ==== Sys2Proof/Machine/PartsPl.lean ====
section
/-! DEFINITION. The state of the Plovlugo block (chapter 07): its registers by name, counters, sampler, sittings, trace, monitors, proof
export, message port, and its parameters. -/

namespace Sys2Proof.Machine

/-- Integration parameters of the block (R136) and its strap (R130). `privs` is the mask of privileged banks. -/
structure PlPar where
  nbank : Nat
  ncore : Nat
  trbufLog : Nat
  nmon : Nat
  px : Bool
  units : List Nat
  privs : Nat
  site : Nat
deriving DecidableEq, Repr

/-- A piece of trace in the circular buffer: the bytes written before it, and its words; a marker's two words stand first (R144, R145). -/
abbrev Chunk := Nat × List Word

/-- An outgoing item at the message port (R152, R189): type, class, build stamp, studio tag, time quality, body, segments that have left, what it belongs
to (the `seq` of an export, the identifier of a sitting); `mark` is 1 on the last part of a first export and 2 on that of a re-export. A trace-extract
shipment holds the pieces not yet sent, the gap notice that stands before them (bytes overtaken, `ht` of the first; none when 0 bytes; R147) and the
bytes of its current item that have left. -/
structure PlItem where
  typ : Nat
  cls : Nat
  ht : Nat
  studio : Nat
  tq : Nat
  body : List Byte
  segs : Nat
  key : Nat
  mark : Nat
  chunks : List Chunk
  gap : Nat × Nat
  acc : Nat
deriving DecidableEq, Repr

/-- What stands in a core's local trace buffer (R145, R146, R148): a burst (kind 0xC, its payload words and the tick of the last) or a sleep, wake or
loss marker (kinds 0xD, 0xE, `val` in [47:0]); hall time of the first word or event; the flags `time_invalid` and `stalled` of the marker. -/
structure TrItem where
  kind : Nat
  ht : Nat
  val : Nat
  inv : Bool
  stalled : Bool
  words : List Word
  tick : Nat
deriving DecidableEq, Repr

/-- Low-power handshake of a core (R148). -/
inductive Lp where
  | on
  | entering (since : Nat)
  | asleep
deriving DecidableEq, Repr

/-- One core's trace input: what its local buffer holds, oldest first, words dropped since the last loss marker, whether tr_stall is asserted,
low-power handshake. -/
structure TrCore where
  items : List TrItem
  lost : Nat
  stall : Bool
  lp : Lp
deriving DecidableEq, Repr

/-- A progress monitor (R149): configuration, pulses, hall time of the last pulse or of the write of `en`, stalled, pulses not yet
reported and whether one of them ended a stall, hall time of its last progress record. -/
structure PlMon where
  en : Bool
  report : Bool
  winMs : Nat
  count : Nat
  last : Nat
  since : Nat
  stalled : Bool
  pend : Bool
  recov : Bool
  recHt : Option Nat
deriving DecidableEq, Repr

/-- Re-export state of a held export (R151 step 6). -/
inductive Rex where
  | none
  | outstanding
  | streaming
  | done
deriving DecidableEq, Repr

/-- An export held (R151): identity, sequence number, attempt, time of its last E byte once known, deadline, re-export request. -/
structure PlExp where
  id : PxId
  seq : Nat
  attempt : Nat
  htDone : Option Nat
  deadlineUs : Nat
  rex : Rex
deriving DecidableEq, Repr

/-- A seed-store entry (R151). -/
structure PlSeed where
  epoch : Nat
  seed : BitVec 128
  k : Nat
  deadlineUs : Nat
deriving DecidableEq, Repr

/-- A queued replay request (R153). -/
structure Replay where
  id : PxId
  seq : Nat
  code : Nat
deriving DecidableEq, Repr

/-- The block. Register fields carry their names of R157 in camel case. `frzs` holds the sittings that keep FREEZE asserted, `frzSince` the hall time of its
assertion, `images` the instants of images not yet sent whole, `stampPend` the hall times of sitting markers that wait for room in the circular buffer,
`rpLow` that REPLAY_REQ must stay low for a cycle, `coal` the coalescing table (R267), `seqs` the next frame sequence per class, `wrote` the RW registers
written in this cycle and whether by the link. -/
structure Pl where
  par : PlPar
  intStat : Nat
  intEn : Nat
  tm : TimeSt
  valid : Bool
  resync : Nat
  frzEn : Bool
  frzMaxUs : Nat
  overrun : Nat
  sitReqs : List (Nat × Nat)
  images : List Nat
  frzs : List Nat
  frzSince : Nat
  frzSit : Nat
  ivl : Nat
  palArmed : Bool
  skipCnt : Nat
  palGen : Nat
  pal : SMap Word
  palPend : SMap Word
  skips : Nat × Nat
  resumed : Nat
  cnt : SMap Word
  shadow : SMap Word
  sitShadow : SMap Word
  cntIdx : Nat
  latches : List (Nat × Nat)
  trEn : Bool
  trMode : Bool
  trStall : Nat
  loss : Nat
  cores : SMap TrCore
  circ : List Chunk
  written : Nat
  lastStamp : Nat
  stampEnd : Nat
  stampPend : List Nat
  dmaLast : Nat
  mons : SMap PlMon
  pgSel : Nat
  rpMon : Nat
  rpEn : Bool
  pgStall : Nat
  seeds : List PlSeed
  exps : List PlExp
  inStream : List Nat
  nextSeq : Nat
  watermark : Nat
  rpQ : List Replay
  rpUp : Bool
  rpLow : Bool
  rexQ : List Nat
  seedMiss : Nat
  selSkip : Nat
  exports : Nat
  rpMerge : Nat
  vdUnknown : Nat
  evs : List RecIn
  coal : List RecIn
  evDropped : Nat
  pentimento : Nat
  lkState : Nat
  restarts : Nat
  rxBad : Nat
  studio : Nat
  tagValid : Bool
  mpDeny : Nat
  q : List PlItem
  grants : Nat
  seqs : List Nat
  wrote : List (Nat × Bool)
  out : List Out
deriving DecidableEq, Repr

end Sys2Proof.Machine
end

