-- ==== Sys2Proof/Machine/RegMap.lean ====
section
/-! DEFINITION. The register map of BAR0 (R355, R360 and the register rules of each chapter): every register with its offset, owner and
fields, and a name for each field. -/

namespace Sys2Proof.Machine

/-- Access codes (R10). -/
inductive Acc where
  | ro
  | rw
  | w1c
  | wo
  | rc
deriving DecidableEq, Repr

/-- Where the Reset column takes a field's value from: the table, flash or topology (F), or it survives (S) (R11). -/
inductive RstSrc where
  | value
  | loaded
  | survives
deriving DecidableEq, Repr

/-- The reset domain that owns a register (R285, R355). -/
inductive Owner where
  | const
  | cold
  | warm
  | cluster
  | link
  | flr
deriving DecidableEq, Repr

/-- One field of a register: place, access, reset, and the values a write may place in it (empty: all; others are reserved, R9). -/
structure Fld where
  lo : Nat
  len : Nat
  acc : Acc
  src : RstSrc
  rst : Nat
  ok : List (Nat × Nat)
deriving DecidableEq, Repr

/-- One register or register array: first offset, stride, count, width in bits, owner, whether each function has a copy. -/
structure RegDef where
  base : Nat
  stride : Nat
  count : Nat
  width : Nat
  own : Owner
  perFn : Bool
  flds : List Fld
deriving DecidableEq, Repr

/-- A field of the map by place: function whose copy it is (0 for the single copy), offset of its register, low bit, length. -/
structure FRef where
  fn : Nat
  off : Nat
  lo : Nat
  len : Nat
deriving DecidableEq, Repr

/-- GN_ID_PART, fields of the register table. -/
def regIdPart : RegDef :=
  { base := 0x0, stride := 0, count := 1, width := 64, own := .const, perFn := false, flds := [
    ⟨0, 16, .ro, .value, 0x474E, []⟩,
    ⟨16, 8, .ro, .value, 0xB1, []⟩,
    ⟨24, 8, .ro, .value, 0x2, []⟩,
    ⟨32, 16, .ro, .value, 0x302, []⟩] }

/-- GN_BU_STAT, fields of the register table. -/
def regBuStat : RegDef :=
  { base := 0x100, stride := 0, count := 1, width := 64, own := .cold, perFn := false, flds := [
    ⟨0, 4, .ro, .value, 0x0, []⟩,
    ⟨4, 1, .ro, .value, 0x0, []⟩,
    ⟨5, 1, .ro, .value, 0x0, []⟩,
    ⟨6, 1, .ro, .value, 0x0, []⟩,
    ⟨16, 16, .rc, .value, 0x0, []⟩,
    ⟨32, 32, .ro, .value, 0x0, []⟩] }

/-- GN_HG_MON, fields of the register table. -/
def regHgMon : RegDef :=
  { base := 0x1000, stride := 8, count := 32, width := 64, own := .warm, perFn := false, flds := [
    ⟨0, 4, .rw, .value, 0x0, [(0, 9)]⟩,
    ⟨4, 8, .rw, .value, 0x0, []⟩,
    ⟨12, 1, .rw, .value, 0x0, []⟩,
    ⟨13, 2, .rw, .value, 0x0, []⟩,
    ⟨16, 16, .rw, .value, 0x3E8, [(1, 60000)]⟩,
    ⟨32, 1, .ro, .value, 0x0, []⟩,
    ⟨33, 15, .rc, .value, 0x0, []⟩] }

/-- GN_HG_BEAT, fields of the register table. -/
def regHgBeat : RegDef :=
  { base := 0x1100, stride := 0, count := 1, width := 64, own := .warm, perFn := false, flds := [
    ⟨0, 32, .ro, .value, 0x0, []⟩,
    ⟨32, 10, .rw, .value, 0x32, [(10, 1000)]⟩,
    ⟨42, 1, .w1c, .survives, 0x0, []⟩] }

/-- GN_HG_RST, fields of the register table. -/
def regHgRst : RegDef :=
  { base := 0x1108, stride := 0, count := 1, width := 64, own := .warm, perFn := false, flds := [
    ⟨0, 4, .wo, .value, 0x0, []⟩,
    ⟨4, 6, .wo, .value, 0x0, []⟩,
    ⟨10, 1, .wo, .value, 0x0, []⟩,
    ⟨11, 1, .wo, .value, 0x0, []⟩,
    ⟨12, 1, .wo, .value, 0x0, []⟩,
    ⟨13, 1, .wo, .value, 0x0, []⟩,
    ⟨14, 1, .wo, .value, 0x0, []⟩,
    ⟨48, 16, .wo, .value, 0x0, []⟩] }

/-- GN_HG_STAT, fields of the register table. -/
def regHgStat : RegDef :=
  { base := 0x1110, stride := 0, count := 1, width := 64, own := .warm, perFn := false, flds := [
    ⟨0, 3, .ro, .value, 0x0, []⟩,
    ⟨3, 16, .ro, .survives, 0x0, []⟩,
    ⟨19, 1, .ro, .value, 0x0, []⟩,
    ⟨20, 32, .ro, .value, 0x0, []⟩] }

/-- GN_HG_DUMP, fields of the register table. -/
def regHgDump : RegDef :=
  { base := 0x1118, stride := 0, count := 1, width := 64, own := .warm, perFn := false, flds := [
    ⟨0, 2, .ro, .value, 0x0, []⟩,
    ⟨2, 1, .ro, .survives, 0x0, []⟩,
    ⟨3, 2, .w1c, .survives, 0x0, []⟩,
    ⟨5, 8, .ro, .survives, 0x0, []⟩,
    ⟨13, 16, .rc, .survives, 0x0, []⟩] }

/-- GN_ID_ALARM, fields of the register table. -/
def regIdAlarm : RegDef :=
  { base := 0x2000, stride := 0, count := 1, width := 64, own := .cold, perFn := false, flds := [
    ⟨0, 1, .ro, .value, 0x0, []⟩,
    ⟨1, 1, .ro, .value, 0x0, []⟩,
    ⟨2, 1, .ro, .value, 0x0, []⟩,
    ⟨3, 1, .ro, .value, 0x0, []⟩,
    ⟨4, 1, .ro, .value, 0x1, []⟩,
    ⟨5, 1, .ro, .value, 0x0, []⟩,
    ⟨6, 1, .ro, .value, 0x0, []⟩,
    ⟨7, 1, .ro, .value, 0x0, []⟩] }

/-- GN_ID_UNMAP, fields of the register table. -/
def regIdUnmap : RegDef :=
  { base := 0x2008, stride := 0, count := 1, width := 64, own := .cold, perFn := false, flds := [
    ⟨0, 16, .rc, .value, 0x0, []⟩,
    ⟨16, 1, .w1c, .value, 0x0, []⟩,
    ⟨17, 1, .ro, .value, 0x0, []⟩,
    ⟨18, 4, .ro, .value, 0x0, []⟩,
    ⟨22, 21, .ro, .value, 0x0, []⟩] }

/-- GN_ID_SCRATCH, fields of the register table. -/
def regIdScratch : RegDef :=
  { base := 0x2010, stride := 0, count := 1, width := 64, own := .cold, perFn := false, flds := [
    ⟨0, 64, .rw, .value, 0x0, []⟩] }

/-- GN_CK_STAT, fields of the register table. -/
def regCkStat : RegDef :=
  { base := 0x10000, stride := 0, count := 1, width := 64, own := .cold, perFn := false, flds := [
    ⟨0, 2, .ro, .value, 0x3, []⟩,
    ⟨2, 1, .ro, .value, 0x0, []⟩,
    ⟨3, 1, .ro, .value, 0x0, []⟩,
    ⟨4, 1, .ro, .value, 0x0, []⟩,
    ⟨5, 1, .ro, .value, 0x0, []⟩,
    ⟨6, 16, .rc, .survives, 0x0, []⟩,
    ⟨22, 16, .rc, .survives, 0x0, []⟩,
    ⟨38, 16, .rc, .survives, 0x0, []⟩] }

/-- GN_CK_CFG, fields of the register table. -/
def regCkCfg : RegDef :=
  { base := 0x10008, stride := 0, count := 1, width := 64, own := .cold, perFn := false, flds := [
    ⟨0, 2, .ro, .loaded, 0x0, []⟩,
    ⟨2, 10, .ro, .loaded, 0x3E8, []⟩,
    ⟨12, 10, .rw, .value, 0x12C, [(50, 1000)]⟩] }

/-- GN_CK_MON, fields of the register table. -/
def regCkMon : RegDef :=
  { base := 0x10010, stride := 0, count := 1, width := 32, own := .cold, perFn := false, flds := [
    ⟨0, 2, .rw, .value, 0x0, [(0, 2)]⟩,
    ⟨2, 20, .rw, .value, 0xF4240, [(1, 1000000)]⟩] }

/-- GN_PW_CAP, fields of the register table. -/
def regPwCap : RegDef :=
  { base := 0x10020, stride := 0, count := 1, width := 64, own := .warm, perFn := false, flds := [
    ⟨0, 9, .rw, .loaded, 0x0, [(150, 450)]⟩,
    ⟨9, 6, .rw, .value, 0xF, [(5, 50)]⟩,
    ⟨16, 12, .ro, .value, 0x0, []⟩,
    ⟨28, 16, .ro, .value, 0x0, []⟩,
    ⟨44, 16, .ro, .value, 0x0, []⟩] }

/-- GN_PW_STATE, fields of the register table. -/
def regPwState : RegDef :=
  { base := 0x10028, stride := 0, count := 1, width := 64, own := .cold, perFn := false, flds := [
    ⟨0, 3, .ro, .value, 0x0, []⟩,
    ⟨3, 1, .rw, .value, 0x0, []⟩,
    ⟨4, 16, .rw, .value, 0x3E8, [(10, 65535)]⟩,
    ⟨20, 16, .rc, .survives, 0x0, []⟩,
    ⟨36, 8, .rc, .survives, 0x0, []⟩,
    ⟨44, 16, .rc, .value, 0x0, []⟩] }

/-- GN_PW_GTOUCH, fields of the register table. -/
def regPwGtouch : RegDef :=
  { base := 0x10030, stride := 0, count := 1, width := 64, own := .cold, perFn := false, flds := [
    ⟨0, 16, .rc, .survives, 0x0, []⟩,
    ⟨16, 32, .ro, .survives, 0x0, []⟩,
    ⟨48, 4, .ro, .survives, 0x0, []⟩,
    ⟨52, 4, .ro, .survives, 0x0, []⟩,
    ⟨56, 1, .w1c, .survives, 0x0, []⟩] }

/-- GN_PW_ISL, fields of the register table. -/
def regPwIsl : RegDef :=
  { base := 0x10100, stride := 8, count := 16, width := 64, own := .cold, perFn := false, flds := [
    ⟨0, 4, .ro, .value, 0xD, []⟩,
    ⟨4, 4, .rw, .value, 0xD, [(0, 13)]⟩,
    ⟨8, 3, .ro, .value, 0x0, []⟩,
    ⟨11, 1, .ro, .value, 0x0, []⟩,
    ⟨12, 16, .rc, .value, 0x0, []⟩] }

/-- GN_SC_STAT, fields of the register table. -/
def regScStat : RegDef :=
  { base := 0x20000, stride := 0, count := 1, width := 64, own := .cold, perFn := false, flds := [
    ⟨0, 2, .ro, .value, 0x0, []⟩,
    ⟨2, 2, .ro, .value, 0x0, []⟩,
    ⟨4, 1, .ro, .value, 0x0, []⟩,
    ⟨5, 1, .ro, .value, 0x0, []⟩,
    ⟨6, 1, .ro, .value, 0x0, []⟩,
    ⟨7, 16, .ro, .value, 0x0, []⟩,
    ⟨23, 16, .rc, .value, 0x0, []⟩] }

/-- GN_SC_ID, fields of the register table. -/
def regScId : RegDef :=
  { base := 0x20008, stride := 0, count := 1, width := 64, own := .cold, perFn := false, flds := [
    ⟨0, 64, .ro, .value, 0x0, []⟩] }

/-- GN_SC_IMG, fields of the register table. -/
def regScImg : RegDef :=
  { base := 0x20010, stride := 0, count := 1, width := 64, own := .cold, perFn := false, flds := [
    ⟨0, 32, .ro, .loaded, 0x0, []⟩,
    ⟨32, 32, .ro, .loaded, 0x0, []⟩] }

/-- GN_SC_STU, fields of the register table. -/
def regScStu : RegDef :=
  { base := 0x20108, stride := 8, count := 15, width := 64, own := .cold, perFn := false, flds := [
    ⟨0, 2, .ro, .value, 0x0, []⟩,
    ⟨2, 17, .ro, .loaded, 0x0, []⟩,
    ⟨19, 32, .ro, .value, 0x0, []⟩] }

/-- GN_SC_DENY, fields of the register table. -/
def regScDeny : RegDef :=
  { base := 0x20200, stride := 0, count := 1, width := 64, own := .cold, perFn := false, flds := [
    ⟨0, 16, .rc, .value, 0x0, []⟩,
    ⟨16, 4, .ro, .value, 0x0, []⟩,
    ⟨20, 32, .ro, .value, 0x0, []⟩,
    ⟨52, 1, .w1c, .value, 0x0, []⟩] }

/-- GN_HQ_DB, fields of the register table. -/
def regHqDb : RegDef :=
  { base := 0x30000, stride := 0, count := 1, width := 64, own := .flr, perFn := true, flds := [
    ⟨5, 59, .rw, .value, 0x0, []⟩] }

/-- GN_HQ_CTL, fields of the register table. -/
def regHqCtl : RegDef :=
  { base := 0x30008, stride := 0, count := 1, width := 64, own := .flr, perFn := true, flds := [
    ⟨0, 7, .rw, .value, 0x2, [(1, 64)]⟩,
    ⟨7, 1, .rw, .value, 0x0, []⟩] }

/-- GN_HQ_SQ, fields of the register table. -/
def regHqSq : RegDef :=
  { base := 0x30100, stride := 16, count := 4, width := 64, own := .flr, perFn := true, flds := [
    ⟨0, 5, .rw, .value, 0x6, [(6, 16)]⟩,
    ⟨8, 1, .rw, .value, 0x0, []⟩,
    ⟨9, 1, .w1c, .value, 0x0, []⟩,
    ⟨12, 52, .rw, .value, 0x0, []⟩] }

/-- GN_HQ_SQS, fields of the register table. -/
def regHqSqs : RegDef :=
  { base := 0x30108, stride := 16, count := 4, width := 64, own := .flr, perFn := true, flds := [
    ⟨0, 32, .ro, .value, 0x0, []⟩,
    ⟨32, 32, .rc, .value, 0x0, []⟩] }

/-- GN_HQ_CQ, fields of the register table. -/
def regHqCq : RegDef :=
  { base := 0x30200, stride := 16, count := 4, width := 64, own := .flr, perFn := true, flds := [
    ⟨0, 5, .rw, .value, 0x6, [(6, 16)]⟩,
    ⟨8, 1, .rw, .value, 0x0, []⟩,
    ⟨9, 1, .w1c, .value, 0x0, []⟩,
    ⟨12, 52, .rw, .value, 0x0, []⟩] }

/-- GN_HQ_CQS, fields of the register table. -/
def regHqCqs : RegDef :=
  { base := 0x30208, stride := 16, count := 4, width := 64, own := .flr, perFn := true, flds := [
    ⟨0, 32, .ro, .value, 0x0, []⟩,
    ⟨32, 9, .ro, .value, 0x0, []⟩,
    ⟨48, 16, .rc, .value, 0x0, []⟩] }

/-- GN_HQ_NUDGE, fields of the register table. -/
def regHqNudge : RegDef :=
  { base := 0x30300, stride := 0, count := 1, width := 32, own := .flr, perFn := true, flds := [
    ⟨0, 32, .wo, .value, 0x0, []⟩] }

/-- GN_HQ_IMOD, fields of the register table. -/
def regHqImod : RegDef :=
  { base := 0x30310, stride := 8, count := 4, width := 64, own := .flr, perFn := true, flds := [
    ⟨0, 8, .rw, .value, 0x1, [(1, 255)]⟩,
    ⟨8, 16, .rw, .value, 0x0, []⟩] }

/-- GN_LK_STAT, fields of the register table. -/
def regLkStat : RegDef :=
  { base := 0x40000, stride := 16, count := 38, width := 64, own := .link, perFn := false, flds := [
    ⟨0, 3, .ro, .value, 0x0, []⟩,
    ⟨3, 3, .ro, .value, 0x0, []⟩,
    ⟨6, 4, .ro, .value, 0x0, []⟩,
    ⟨10, 16, .rc, .value, 0x0, []⟩,
    ⟨26, 8, .rc, .value, 0x0, []⟩,
    ⟨34, 16, .rc, .value, 0x0, []⟩] }

/-- GN_LK_ERR, fields of the register table. -/
def regLkErr : RegDef :=
  { base := 0x40008, stride := 16, count := 38, width := 64, own := .link, perFn := false, flds := [
    ⟨0, 24, .rc, .value, 0x0, []⟩,
    ⟨24, 16, .rc, .value, 0x0, []⟩,
    ⟨40, 16, .rc, .value, 0x0, []⟩,
    ⟨56, 8, .rc, .value, 0x0, []⟩] }

/-- GN_LK_POL, fields of the register table. -/
def regLkPol : RegDef :=
  { base := 0x40400, stride := 8, count := 112, width := 64, own := .warm, perFn := false, flds := [
    ⟨0, 16, .rw, .loaded, 0x0, []⟩,
    ⟨16, 16, .rw, .loaded, 0x0, [(64, 65535)]⟩] }

/-- GN_LK_SRC, fields of the register table. -/
def regLkSrc : RegDef :=
  { base := 0x40800, stride := 8, count := 112, width := 64, own := .warm, perFn := false, flds := [
    ⟨0, 24, .rc, .value, 0x0, []⟩,
    ⟨24, 16, .rc, .value, 0x0, []⟩,
    ⟨40, 16, .rc, .value, 0x0, []⟩] }

/-- GN_LK_SHP, fields of the register table. -/
def regLkShp : RegDef :=
  { base := 0x40C00, stride := 8, count := 8, width := 64, own := .warm, perFn := false, flds := [
    ⟨0, 16, .rw, .value, 0x0, []⟩,
    ⟨16, 16, .rw, .value, 0x40, [(64, 65535)]⟩,
    ⟨32, 1, .rw, .value, 0x0, []⟩,
    ⟨33, 1, .rw, .value, 0x0, []⟩] }

/-- GN_LK_GCTL, fields of the register table. -/
def regLkGctl : RegDef :=
  { base := 0x40D00, stride := 8, count := 2, width := 64, own := .warm, perFn := false, flds := [
    ⟨0, 30, .rw, .value, 0x0, []⟩,
    ⟨30, 9, .rw, .value, 0x0, [(0, 256)]⟩,
    ⟨39, 1, .rw, .value, 0x0, []⟩,
    ⟨40, 1, .wo, .value, 0x0, []⟩,
    ⟨41, 1, .ro, .value, 0x0, []⟩,
    ⟨42, 1, .w1c, .value, 0x0, []⟩,
    ⟨43, 16, .rc, .value, 0x0, []⟩] }

/-- GN_LK_GATE, fields of the register table. -/
def regLkGate : RegDef :=
  { base := 0x41000, stride := 4, count := 512, width := 32, own := .warm, perFn := false, flds := [
    ⟨0, 4, .rw, .value, 0x1, []⟩,
    ⟨4, 28, .rw, .value, 0x0, []⟩] }

/-- GN_ARB, fields of the register table. -/
def regArb : RegDef :=
  { base := 0x42000, stride := 8, count := 132, width := 64, own := .warm, perFn := false, flds := [
    ⟨0, 7, .rw, .value, 0x8, [(2, 64)]⟩,
    ⟨7, 1, .rw, .value, 0x0, []⟩,
    ⟨8, 1, .ro, .value, 0x0, []⟩,
    ⟨9, 5, .ro, .value, 0x0, []⟩,
    ⟨14, 24, .rc, .value, 0x0, []⟩,
    ⟨38, 16, .rc, .value, 0x0, []⟩] }

/-- GN_LK_Z, fields of the register table. -/
def regLkZ : RegDef :=
  { base := 0x42800, stride := 0, count := 1, width := 64, own := .warm, perFn := false, flds := [
    ⟨0, 1, .rw, .value, 0x0, []⟩,
    ⟨16, 16, .rc, .value, 0x0, []⟩,
    ⟨32, 16, .rc, .value, 0x0, []⟩] }

/-- GN_LK_TAP, fields of the register table. -/
def regLkTap : RegDef :=
  { base := 0x42808, stride := 0, count := 1, width := 64, own := .warm, perFn := false, flds := [
    ⟨0, 32, .rc, .value, 0x0, []⟩,
    ⟨32, 16, .rc, .value, 0x0, []⟩,
    ⟨48, 16, .rc, .value, 0x0, []⟩] }

/-- GN_RD_CFG, fields of the register table. -/
def regRdCfg : RegDef :=
  { base := 0x44000, stride := 0, count := 1, width := 64, own := .warm, perFn := false, flds := [
    ⟨0, 16, .ro, .loaded, 0x0, []⟩,
    ⟨16, 2, .ro, .loaded, 0x0, []⟩,
    ⟨18, 1, .ro, .loaded, 0x0, []⟩,
    ⟨19, 1, .ro, .loaded, 0x0, []⟩,
    ⟨20, 14, .rw, .value, 0x7D0, [(10, 10000)]⟩,
    ⟨34, 14, .rw, .value, 0xC8, [(50, 10000)]⟩,
    ⟨48, 16, .rw, .value, 0x0, []⟩] }

/-- GN_RD_STAT, fields of the register table. -/
def regRdStat : RegDef :=
  { base := 0x44008, stride := 0, count := 1, width := 64, own := .warm, perFn := false, flds := [
    ⟨0, 2, .ro, .value, 0x0, []⟩,
    ⟨2, 1, .ro, .value, 0x0, []⟩,
    ⟨3, 3, .ro, .value, 0x0, []⟩,
    ⟨6, 6, .ro, .value, 0x0, []⟩,
    ⟨12, 9, .ro, .value, 0x0, []⟩,
    ⟨21, 32, .ro, .value, 0x0, []⟩] }

/-- GN_RD_CNT, fields of the register table. -/
def regRdCnt : RegDef :=
  { base := 0x44010, stride := 0, count := 1, width := 64, own := .warm, perFn := false, flds := [
    ⟨0, 16, .rc, .value, 0x0, []⟩,
    ⟨16, 16, .rc, .value, 0x0, []⟩,
    ⟨32, 12, .rc, .value, 0x0, []⟩,
    ⟨44, 8, .rc, .value, 0x0, []⟩,
    ⟨52, 12, .rc, .value, 0x0, []⟩] }

/-- GN_BC_STAT, fields of the register table. -/
def regBcStat : RegDef :=
  { base := 0x44018, stride := 0, count := 1, width := 64, own := .warm, perFn := false, flds := [
    ⟨0, 16, .ro, .value, 0x0, []⟩,
    ⟨16, 4, .ro, .value, 0x0, []⟩,
    ⟨20, 16, .rc, .value, 0x0, []⟩,
    ⟨36, 16, .rc, .value, 0x0, []⟩,
    ⟨52, 8, .rc, .value, 0x0, []⟩] }

/-- GN_RD_MAP, fields of the register table. -/
def regRdMap : RegDef :=
  { base := 0x44020, stride := 0, count := 1, width := 64, own := .warm, perFn := false, flds := [
    ⟨0, 16, .ro, .loaded, 0x0, []⟩,
    ⟨16, 16, .ro, .value, 0x0, []⟩,
    ⟨32, 17, .ro, .loaded, 0x0, []⟩] }

/-- GN_HL_CFG, fields of the register table. -/
def regHlCfg : RegDef :=
  { base := 0x45000, stride := 0, count := 1, width := 64, own := .warm, perFn := false, flds := [
    ⟨0, 10, .rw, .value, 0x100, []⟩,
    ⟨10, 7, .rw, .value, 0x8, [(1, 64)]⟩,
    ⟨17, 11, .rw, .value, 0xF, [(1, 1440)]⟩,
    ⟨28, 10, .rw, .value, 0x3CA, [(500, 1000)]⟩,
    ⟨38, 10, .rw, .value, 0x20, [(1, 1023)]⟩,
    ⟨48, 16, .rw, .value, 0xFD0F, []⟩] }

/-- GN_HL_SRCH, fields of the register table. -/
def regHlSrch : RegDef :=
  { base := 0x45008, stride := 0, count := 1, width := 64, own := .warm, perFn := false, flds := [
    ⟨0, 16, .rw, .value, 0x11A, [(257, 65535)]⟩,
    ⟨16, 16, .rw, .value, 0xA, []⟩,
    ⟨32, 4, .rw, .value, 0x3, [(1, 15)]⟩,
    ⟨36, 4, .rw, .value, 0x8, [(1, 15)]⟩,
    ⟨40, 8, .rw, .value, 0x8, [(1, 255)]⟩,
    ⟨48, 13, .rw, .value, 0x1000, [(1, 8191)]⟩,
    ⟨61, 3, .rw, .value, 0x0, []⟩] }

/-- GN_HL_JOB, fields of the register table. -/
def regHlJob : RegDef :=
  { base := 0x45010, stride := 0, count := 1, width := 64, own := .warm, perFn := false, flds := [
    ⟨0, 18, .ro, .value, 0x0, []⟩,
    ⟨18, 18, .ro, .value, 0x0, []⟩,
    ⟨36, 10, .ro, .value, 0x0, []⟩,
    ⟨46, 11, .ro, .value, 0x0, []⟩,
    ⟨57, 1, .ro, .value, 0x0, []⟩,
    ⟨58, 3, .ro, .value, 0x0, []⟩,
    ⟨61, 3, .rw, .value, 0x1, [(1, 7)]⟩] }

/-- GN_HL_CNT, fields of the register table. -/
def regHlCnt : RegDef :=
  { base := 0x45018, stride := 0, count := 1, width := 64, own := .warm, perFn := false, flds := [
    ⟨0, 16, .rc, .value, 0x0, []⟩,
    ⟨16, 16, .rc, .value, 0x0, []⟩,
    ⟨32, 16, .rc, .value, 0x0, []⟩,
    ⟨48, 16, .rc, .value, 0x0, []⟩] }

/-- GN_HL_SEL, fields of the register table. -/
def regHlSel : RegDef :=
  { base := 0x45020, stride := 0, count := 1, width := 32, own := .warm, perFn := false, flds := [
    ⟨0, 17, .rw, .value, 0x0, []⟩] }

/-- GN_HL_RANK, fields of the register table. -/
def regHlRank : RegDef :=
  { base := 0x45028, stride := 0, count := 1, width := 64, own := .warm, perFn := false, flds := [
    ⟨0, 10, .ro, .value, 0x3FF, []⟩,
    ⟨10, 3, .ro, .value, 0x0, []⟩,
    ⟨13, 32, .ro, .value, 0x0, []⟩,
    ⟨45, 8, .ro, .value, 0x0, []⟩] }

/-- GN_HL_TRAY, fields of the register table. -/
def regHlTray : RegDef :=
  { base := 0x45030, stride := 0, count := 1, width := 64, own := .warm, perFn := false, flds := [
    ⟨0, 24, .rc, .value, 0x0, []⟩,
    ⟨24, 24, .rc, .value, 0x0, []⟩,
    ⟨48, 16, .rc, .value, 0x0, []⟩] }

/-- GN_HL_PHASE, fields of the register table. -/
def regHlPhase : RegDef :=
  { base := 0x45100, stride := 4, count := 16, width := 32, own := .warm, perFn := false, flds := [
    ⟨0, 8, .rw, .value, 0x0, []⟩,
    ⟨8, 8, .rw, .value, 0x0, []⟩,
    ⟨16, 1, .rw, .value, 0x0, []⟩] }

/-- GN_TM_NOW, fields of the register table. -/
def regTmNow : RegDef :=
  { base := 0x50000, stride := 0, count := 1, width := 64, own := .cold, perFn := false, flds := [
    ⟨0, 64, .ro, .value, 0x0, []⟩] }

/-- GN_TM_STAT, fields of the register table. -/
def regTmStat : RegDef :=
  { base := 0x50008, stride := 0, count := 1, width := 64, own := .cold, perFn := false, flds := [
    ⟨0, 2, .ro, .value, 0x0, []⟩,
    ⟨2, 1, .ro, .value, 0x0, []⟩,
    ⟨3, 5, .ro, .value, 0x1C, []⟩,
    ⟨8, 8, .rc, .value, 0x0, []⟩,
    ⟨16, 16, .ro, .value, 0x0, []⟩,
    ⟨32, 16, .rc, .value, 0x0, []⟩] }

/-- GN_TM_CFG, fields of the register table. -/
def regTmCfg : RegDef :=
  { base := 0x50010, stride := 0, count := 1, width := 32, own := .warm, perFn := false, flds := [
    ⟨0, 16, .rw, .value, 0x64, [(10, 10000)]⟩] }

/-- GN_SIT_STAT, fields of the register table. -/
def regSitStat : RegDef :=
  { base := 0x50018, stride := 0, count := 1, width := 64, own := .warm, perFn := false, flds := [
    ⟨0, 4, .ro, .value, 0x0, []⟩,
    ⟨4, 8, .rc, .value, 0x0, []⟩,
    ⟨12, 8, .rc, .value, 0x0, []⟩,
    ⟨20, 8, .ro, .value, 0x0, []⟩,
    ⟨32, 32, .ro, .value, 0x0, []⟩] }

/-- GN_WIN_CFG, fields of the register table. -/
def regWinCfg : RegDef :=
  { base := 0x50200, stride := 8, count := 8, width := 64, own := .warm, perFn := false, flds := [
    ⟨0, 20, .rw, .value, 0x0, [(0, 0), (10, 1000000)]⟩,
    ⟨20, 14, .rw, .value, 0x32, [(10, 10000)]⟩] }

/-- GN_WIN_CNT, fields of the register table. -/
def regWinCnt : RegDef :=
  { base := 0x50240, stride := 8, count := 8, width := 64, own := .warm, perFn := false, flds := [
    ⟨0, 32, .rc, .value, 0x0, []⟩,
    ⟨32, 32, .rc, .value, 0x0, []⟩] }

/-- GN_ISL, fields of the register table. -/
def regIsl : RegDef :=
  { base := 0x50300, stride := 8, count := 16, width := 64, own := .warm, perFn := false, flds := [
    ⟨0, 16, .rc, .value, 0x0, []⟩,
    ⟨16, 16, .rc, .value, 0x0, []⟩,
    ⟨32, 32, .ro, .value, 0x0, []⟩] }

/-- GN_TM_SITE, fields of the register table. -/
def regTmSite : RegDef :=
  { base := 0x50400, stride := 8, count := 112, width := 64, own := .warm, perFn := false, flds := [
    ⟨0, 16, .ro, .value, 0x0, []⟩,
    ⟨16, 16, .ro, .value, 0x0, []⟩,
    ⟨32, 16, .ro, .loaded, 0x0, []⟩,
    ⟨48, 1, .ro, .value, 0x0, []⟩,
    ⟨49, 2, .ro, .value, 0x0, []⟩] }

/-- GN_TM_PORT, fields of the register table. -/
def regTmPort : RegDef :=
  { base := 0x50800, stride := 8, count := 34, width := 64, own := .warm, perFn := false, flds := [
    ⟨0, 16, .ro, .value, 0x0, []⟩,
    ⟨16, 16, .ro, .value, 0x0, []⟩,
    ⟨32, 16, .ro, .loaded, 0x0, []⟩,
    ⟨48, 1, .ro, .value, 0x0, []⟩,
    ⟨49, 2, .ro, .value, 0x0, []⟩] }

/-- GN_EV_HEAD, fields of the register table. -/
def regEvHead : RegDef :=
  { base := 0x60000, stride := 0, count := 1, width := 64, own := .cold, perFn := false, flds := [
    ⟨0, 64, .ro, .survives, 0x0, []⟩] }

/-- GN_EV_STAT, fields of the register table. -/
def regEvStat : RegDef :=
  { base := 0x60008, stride := 0, count := 1, width := 64, own := .cold, perFn := false, flds := [
    ⟨0, 12, .ro, .survives, 0x0, []⟩,
    ⟨12, 12, .ro, .survives, 0x0, []⟩,
    ⟨24, 1, .w1c, .survives, 0x0, []⟩,
    ⟨25, 1, .ro, .value, 0x0, []⟩,
    ⟨26, 7, .ro, .value, 0x0, []⟩] }

/-- GN_EV_CFG, fields of the register table. -/
def regEvCfg : RegDef :=
  { base := 0x60010, stride := 0, count := 1, width := 64, own := .cold, perFn := false, flds := [
    ⟨0, 3, .rw, .value, 0x4, []⟩,
    ⟨3, 1, .rw, .value, 0x1, []⟩,
    ⟨4, 10, .rw, .value, 0x64, [(1, 1000)]⟩] }

/-- GN_EV_CUR, fields of the register table. -/
def regEvCur : RegDef :=
  { base := 0x60018, stride := 0, count := 1, width := 64, own := .flr, perFn := true, flds := [
    ⟨0, 11, .rw, .value, 0x0, []⟩,
    ⟨16, 4, .rw, .value, 0x0, []⟩] }

/-- GN_EV_NEW, fields of the register table. -/
def regEvNew : RegDef :=
  { base := 0x60020, stride := 0, count := 1, width := 64, own := .cold, perFn := false, flds := [
    ⟨0, 8, .w1c, .value, 0x0, []⟩] }

/-- GN_EV_FXACK, fields of the register table. -/
def regEvFxack : RegDef :=
  { base := 0x60028, stride := 0, count := 1, width := 64, own := .cold, perFn := false, flds := [
    ⟨0, 11, .wo, .value, 0x0, []⟩] }

/-- GN_EV_CNT, fields of the register table. -/
def regEvCnt : RegDef :=
  { base := 0x60100, stride := 8, count := 8, width := 64, own := .cold, perFn := false, flds := [
    ⟨0, 32, .rc, .survives, 0x0, []⟩,
    ⟨32, 32, .rc, .survives, 0x0, []⟩] }

/-- GN_EV_COAL, fields of the register table. -/
def regEvCoal : RegDef :=
  { base := 0x60140, stride := 0, count := 1, width := 64, own := .cold, perFn := false, flds := [
    ⟨0, 40, .rc, .survives, 0x0, []⟩,
    ⟨40, 24, .rc, .survives, 0x0, []⟩] }

/-- GN_EV_FLASH, fields of the register table. -/
def regEvFlash : RegDef :=
  { base := 0x60148, stride := 0, count := 1, width := 64, own := .cold, perFn := false, flds := [
    ⟨0, 24, .rc, .survives, 0x0, []⟩,
    ⟨24, 16, .ro, .survives, 0x0, []⟩,
    ⟨40, 16, .ro, .survives, 0x0, []⟩] }

/-- GN_PF_VCNT, fields of the register table. -/
def regPfVcnt : RegDef :=
  { base := 0x70000, stride := 0, count := 1, width := 64, own := .warm, perFn := false, flds := [
    ⟨0, 40, .rc, .value, 0x0, []⟩,
    ⟨40, 16, .rc, .value, 0x0, []⟩,
    ⟨56, 8, .rc, .value, 0x0, []⟩] }

/-- GN_PF_FCNT, fields of the register table. -/
def regPfFcnt : RegDef :=
  { base := 0x70008, stride := 0, count := 1, width := 64, own := .warm, perFn := false, flds := [
    ⟨0, 16, .rc, .value, 0x0, []⟩,
    ⟨16, 16, .rc, .value, 0x0, []⟩,
    ⟨32, 16, .rc, .value, 0x0, []⟩,
    ⟨48, 16, .rc, .value, 0x0, []⟩] }

/-- GN_PF_POOL, fields of the register table. -/
def regPfPool : RegDef :=
  { base := 0x70010, stride := 0, count := 1, width := 64, own := .warm, perFn := false, flds := [
    ⟨0, 16, .ro, .value, 0x0, []⟩,
    ⟨16, 16, .ro, .value, 0x0, []⟩,
    ⟨32, 16, .ro, .value, 0x0, []⟩,
    ⟨48, 8, .ro, .value, 0x0, []⟩] }

/-- GN_PF_CAP, fields of the register table. -/
def regPfCap : RegDef :=
  { base := 0x70018, stride := 0, count := 1, width := 64, own := .warm, perFn := false, flds := [
    ⟨0, 10, .ro, .value, 0x0, []⟩,
    ⟨10, 2, .ro, .value, 0x0, []⟩,
    ⟨12, 32, .ro, .value, 0x0, []⟩,
    ⟨44, 16, .rc, .value, 0x0, []⟩] }

/-- GN_TS_EPOCH, fields of the register table. -/
def regTsEpoch : RegDef :=
  { base := 0x80000, stride := 16, count := 64, width := 64, own := .warm, perFn := false, flds := [
    ⟨0, 32, .ro, .value, 0x0, []⟩,
    ⟨32, 32, .ro, .value, 0x0, []⟩] }

/-- GN_TS_STATE, fields of the register table. -/
def regTsState : RegDef :=
  { base := 0x80008, stride := 16, count := 64, width := 64, own := .warm, perFn := false, flds := [
    ⟨0, 2, .ro, .value, 0x0, []⟩,
    ⟨2, 9, .ro, .value, 0x0, []⟩,
    ⟨11, 9, .ro, .value, 0x0, []⟩,
    ⟨20, 11, .ro, .value, 0x0, []⟩,
    ⟨31, 8, .ro, .value, 0x0, []⟩,
    ⟨39, 16, .rc, .value, 0x0, []⟩,
    ⟨55, 1, .ro, .value, 0x0, []⟩] }

/-- GN_CL_ARITH, fields of the register table. -/
def regClArith : RegDef :=
  { base := 0x100400, stride := 65536, count := 16, width := 64, own := .cluster, perFn := false, flds := [
    ⟨0, 20, .rc, .value, 0x0, []⟩,
    ⟨20, 20, .rc, .value, 0x0, []⟩,
    ⟨40, 20, .rc, .value, 0x0, []⟩] }

/-- GN_CL_SPARSE, fields of the register table. -/
def regClSparse : RegDef :=
  { base := 0x100408, stride := 65536, count := 16, width := 64, own := .cluster, perFn := false, flds := [
    ⟨0, 24, .rc, .value, 0x0, []⟩,
    ⟨24, 24, .rc, .value, 0x0, []⟩,
    ⟨48, 4, .ro, .value, 0x0, []⟩,
    ⟨52, 2, .ro, .value, 0x0, []⟩,
    ⟨54, 1, .ro, .value, 0x0, []⟩,
    ⟨55, 1, .w1c, .value, 0x0, []⟩] }

/-- GN_CL_MEM, fields of the register table. -/
def regClMem : RegDef :=
  { base := 0x100410, stride := 65536, count := 16, width := 64, own := .cluster, perFn := false, flds := [
    ⟨0, 16, .rc, .value, 0x0, []⟩,
    ⟨16, 16, .rc, .value, 0x0, []⟩,
    ⟨32, 23, .ro, .value, 0x0, []⟩,
    ⟨55, 3, .ro, .value, 0x0, []⟩] }

/-- GN_CL_PLAN, fields of the register table. -/
def regClPlan : RegDef :=
  { base := 0x100420, stride := 65536, count := 16, width := 64, own := .cluster, perFn := false, flds := [
    ⟨0, 16, .ro, .value, 0x0, []⟩,
    ⟨16, 16, .ro, .value, 0x0, []⟩,
    ⟨32, 16, .rc, .value, 0x0, []⟩,
    ⟨48, 8, .rc, .value, 0x0, []⟩] }

/-- GN_CL_COLL, fields of the register table. -/
def regClColl : RegDef :=
  { base := 0x100428, stride := 65536, count := 16, width := 64, own := .cluster, perFn := false, flds := [
    ⟨0, 16, .rc, .value, 0x0, []⟩,
    ⟨16, 8, .ro, .value, 0x0, []⟩,
    ⟨24, 8, .ro, .value, 0x0, []⟩,
    ⟨32, 9, .ro, .value, 0x0, []⟩,
    ⟨41, 4, .ro, .value, 0x0, []⟩,
    ⟨45, 16, .ro, .value, 0x0, []⟩,
    ⟨61, 1, .w1c, .value, 0x0, []⟩] }

/-- GN_CL_NODE, fields of the register table. -/
def regClNode : RegDef :=
  { base := 0x100438, stride := 65536, count := 16, width := 64, own := .cluster, perFn := false, flds := [
    ⟨0, 16, .rc, .value, 0x0, []⟩,
    ⟨16, 16, .rc, .value, 0x0, []⟩,
    ⟨32, 20, .ro, .value, 0x0, []⟩,
    ⟨52, 1, .ro, .value, 0x0, []⟩,
    ⟨53, 1, .w1c, .value, 0x0, []⟩] }

/-- GN_CL_WALK, fields of the register table. -/
def regClWalk : RegDef :=
  { base := 0x100440, stride := 65536, count := 16, width := 64, own := .cluster, perFn := false, flds := [
    ⟨0, 40, .rc, .value, 0x0, []⟩,
    ⟨40, 16, .rc, .value, 0x0, []⟩] }

/-- GN_CL_ST, fields of the register table. -/
def regClSt : RegDef :=
  { base := 0x100450, stride := 65536, count := 16, width := 64, own := .cold, perFn := false, flds := [
    ⟨0, 16, .ro, .value, 0x0, []⟩,
    ⟨16, 4, .ro, .value, 0x0, []⟩,
    ⟨20, 1, .ro, .value, 0x0, []⟩,
    ⟨21, 16, .rc, .value, 0x0, []⟩,
    ⟨37, 16, .rc, .value, 0x0, []⟩,
    ⟨53, 8, .rc, .value, 0x0, []⟩] }

def regTable0 : List RegDef := [regIdPart, regBuStat, regHgMon, regHgBeat, regHgRst, regHgStat, regHgDump, regIdAlarm, regIdUnmap, regIdScratch, regCkStat, regCkCfg, regCkMon, regPwCap, regPwState, regPwGtouch, regPwIsl, regScStat, regScId, regScImg, regScStu, regScDeny]

def regTable1 : List RegDef := [regHqDb, regHqCtl, regHqSq, regHqSqs, regHqCq, regHqCqs, regHqNudge, regHqImod, regLkStat, regLkErr, regLkPol, regLkSrc, regLkShp, regLkGctl, regLkGate, regArb, regLkZ, regLkTap, regRdCfg, regRdStat, regRdCnt]

def regTable2 : List RegDef := [regBcStat, regRdMap, regHlCfg, regHlSrch, regHlJob, regHlCnt, regHlSel, regHlRank, regHlTray, regHlPhase, regTmNow, regTmStat, regTmCfg, regSitStat, regWinCfg, regWinCnt, regIsl, regTmSite, regTmPort, regEvHead, regEvStat]

def regTable3 : List RegDef := [regEvCfg, regEvCur, regEvNew, regEvFxack, regEvCnt, regEvCoal, regEvFlash, regPfVcnt, regPfFcnt, regPfPool, regPfCap, regTsEpoch, regTsState, regClArith, regClSparse, regClMem, regClPlan, regClColl, regClNode, regClWalk, regClSt]

/-- Every register of BAR0 but the MSI-X table and the two event windows (R360 index). -/
def regTable : List RegDef := regTable0 ++ regTable1 ++ regTable2 ++ regTable3

/-! ### Field names -/

def F.idPart_part : FRef := ⟨0, 0x0, 0, 16⟩
def F.idPart_step : FRef := ⟨0, 0x0, 16, 8⟩
def F.idPart_build : FRef := ⟨0, 0x0, 24, 8⟩
def F.idPart_plRel : FRef := ⟨0, 0x0, 32, 16⟩
def F.buStat_phase : FRef := ⟨0, 0x100, 0, 4⟩
def F.buStat_mgood : FRef := ⟨0, 0x100, 4, 1⟩
def F.buStat_topoOk : FRef := ⟨0, 0x100, 5, 1⟩
def F.buStat_stDone : FRef := ⟨0, 0x100, 6, 1⟩
def F.buStat_topoRej : FRef := ⟨0, 0x100, 16, 16⟩
def F.buStat_buMs : FRef := ⟨0, 0x100, 32, 32⟩
def F.hgMon_src (i : Nat) : FRef := ⟨0, 0x1000 + 8 * i, 0, 4⟩
def F.hgMon_arg (i : Nat) : FRef := ⟨0, 0x1000 + 8 * i, 4, 8⟩
def F.hgMon_cond (i : Nat) : FRef := ⟨0, 0x1000 + 8 * i, 12, 1⟩
def F.hgMon_act (i : Nat) : FRef := ⟨0, 0x1000 + 8 * i, 13, 2⟩
def F.hgMon_winMs (i : Nat) : FRef := ⟨0, 0x1000 + 8 * i, 16, 16⟩
def F.hgMon_stalled (i : Nat) : FRef := ⟨0, 0x1000 + 8 * i, 32, 1⟩
def F.hgMon_stalls (i : Nat) : FRef := ⟨0, 0x1000 + 8 * i, 33, 15⟩
def F.hgBeat_beat : FRef := ⟨0, 0x1100, 0, 32⟩
def F.hgBeat_hwWdMs : FRef := ⟨0, 0x1100, 32, 10⟩
def F.hgBeat_hwWdFired : FRef := ⟨0, 0x1100, 42, 1⟩
def F.hgRst_clIdx : FRef := ⟨0, 0x1108, 0, 4⟩
def F.hgRst_port : FRef := ⟨0, 0x1108, 4, 6⟩
def F.hgRst_clRst : FRef := ⟨0, 0x1108, 10, 1⟩
def F.hgRst_lkRst : FRef := ⟨0, 0x1108, 11, 1⟩
def F.hgRst_dump : FRef := ⟨0, 0x1108, 12, 1⟩
def F.hgRst_warm : FRef := ⟨0, 0x1108, 13, 1⟩
def F.hgRst_cold : FRef := ⟨0, 0x1108, 14, 1⟩
def F.hgRst_key : FRef := ⟨0, 0x1108, 48, 16⟩
def F.hgStat_lastRst : FRef := ⟨0, 0x1110, 0, 3⟩
def F.hgStat_warmCnt : FRef := ⟨0, 0x1110, 3, 16⟩
def F.hgStat_rstBusy : FRef := ⟨0, 0x1110, 19, 1⟩
def F.hgStat_monStalled : FRef := ⟨0, 0x1110, 20, 32⟩
def F.hgDump_state : FRef := ⟨0, 0x1118, 0, 2⟩
def F.hgDump_newest : FRef := ⟨0, 0x1118, 2, 1⟩
def F.hgDump_unread : FRef := ⟨0, 0x1118, 3, 2⟩
def F.hgDump_cause : FRef := ⟨0, 0x1118, 5, 8⟩
def F.hgDump_dumpLost : FRef := ⟨0, 0x1118, 13, 16⟩
def F.idAlarm_mon : FRef := ⟨0, 0x2000, 0, 1⟩
def F.idAlarm_hwWd : FRef := ⟨0, 0x2000, 1, 1⟩
def F.idAlarm_fxFull : FRef := ⟨0, 0x2000, 2, 1⟩
def F.idAlarm_health : FRef := ⟨0, 0x2000, 3, 1⟩
def F.idAlarm_timeInv : FRef := ⟨0, 0x2000, 4, 1⟩
def F.idAlarm_quar : FRef := ⟨0, 0x2000, 5, 1⟩
def F.idAlarm_coreFail : FRef := ⟨0, 0x2000, 6, 1⟩
def F.idAlarm_gtouch : FRef := ⟨0, 0x2000, 7, 1⟩
def F.idUnmap_count : FRef := ⟨0, 0x2008, 0, 16⟩
def F.idUnmap_valid : FRef := ⟨0, 0x2008, 16, 1⟩
def F.idUnmap_who : FRef := ⟨0, 0x2008, 17, 1⟩
def F.idUnmap_fn : FRef := ⟨0, 0x2008, 18, 4⟩
def F.idUnmap_addr : FRef := ⟨0, 0x2008, 22, 21⟩
def F.idScratch_scratch : FRef := ⟨0, 0x2010, 0, 64⟩
def F.ckStat_act : FRef := ⟨0, 0x10000, 0, 2⟩
def F.ckStat_hrefQ : FRef := ⟨0, 0x10000, 2, 1⟩
def F.ckStat_upQ : FRef := ⟨0, 0x10000, 3, 1⟩
def F.ckStat_fosQ : FRef := ⟨0, 0x10000, 4, 1⟩
def F.ckStat_safe : FRef := ⟨0, 0x10000, 5, 1⟩
def F.ckStat_losses : FRef := ⟨0, 0x10000, 6, 16⟩
def F.ckStat_switches : FRef := ⟨0, 0x10000, 22, 16⟩
def F.ckStat_winFail : FRef := ⟨0, 0x10000, 38, 16⟩
def F.ckCfg_srcSel : FRef := ⟨0, 0x10008, 0, 2⟩
def F.ckCfg_hsDelayMs : FRef := ⟨0, 0x10008, 2, 10⟩
def F.ckCfg_winPpm : FRef := ⟨0, 0x10008, 12, 10⟩
def F.ckMon_mode : FRef := ⟨0, 0x10010, 0, 2⟩
def F.ckMon_periodUs : FRef := ⟨0, 0x10010, 2, 20⟩
def F.pwCap_capW : FRef := ⟨0, 0x10020, 0, 9⟩
def F.pwCap_hystW : FRef := ⟨0, 0x10020, 9, 6⟩
def F.pwCap_pIn : FRef := ⟨0, 0x10020, 16, 12⟩
def F.pwCap_vin : FRef := ⟨0, 0x10020, 28, 16⟩
def F.pwCap_iin : FRef := ⟨0, 0x10020, 44, 16⟩
def F.pwState_pstate : FRef := ⟨0, 0x10028, 0, 3⟩
def F.pwState_autoIdle : FRef := ⟨0, 0x10028, 3, 1⟩
def F.pwState_idleUs : FRef := ⟨0, 0x10028, 4, 16⟩
def F.pwState_pfail : FRef := ⟨0, 0x10028, 20, 16⟩
def F.pwState_ovp : FRef := ⟨0, 0x10028, 36, 8⟩
def F.pwState_dipDrop : FRef := ⟨0, 0x10028, 44, 16⟩
def F.pwGtouch_count : FRef := ⟨0, 0x10030, 0, 16⟩
def F.pwGtouch_addr : FRef := ⟨0, 0x10030, 16, 32⟩
def F.pwGtouch_who : FRef := ⟨0, 0x10030, 48, 4⟩
def F.pwGtouch_fn : FRef := ⟨0, 0x10030, 52, 4⟩
def F.pwGtouch_valid : FRef := ⟨0, 0x10030, 56, 1⟩
def F.pwIsl_step (i : Nat) : FRef := ⟨0, 0x10100 + 8 * i, 0, 4⟩
def F.pwIsl_ceil (i : Nat) : FRef := ⟨0, 0x10100 + 8 * i, 4, 4⟩
def F.pwIsl_thr (i : Nat) : FRef := ⟨0, 0x10100 + 8 * i, 8, 3⟩
def F.pwIsl_gated (i : Nat) : FRef := ⟨0, 0x10100 + 8 * i, 11, 1⟩
def F.pwIsl_dn (i : Nat) : FRef := ⟨0, 0x10100 + 8 * i, 12, 16⟩
def F.scStat_acc : FRef := ⟨0, 0x20000, 0, 2⟩
def F.scStat_dbg : FRef := ⟨0, 0x20000, 2, 2⟩
def F.scStat_idOk : FRef := ⟨0, 0x20000, 4, 1⟩
def F.scStat_ksErased : FRef := ⟨0, 0x20000, 5, 1⟩
def F.scStat_busy : FRef := ⟨0, 0x20000, 6, 1⟩
def F.scStat_gesso : FRef := ⟨0, 0x20000, 7, 16⟩
def F.scStat_dpFail : FRef := ⟨0, 0x20000, 23, 16⟩
def F.scId_fp : FRef := ⟨0, 0x20008, 0, 64⟩
def F.scImg_fwVer : FRef := ⟨0, 0x20010, 0, 32⟩
def F.scImg_cfgVer : FRef := ⟨0, 0x20010, 32, 32⟩
def F.scStu_st (i : Nat) : FRef := ⟨0, 0x20100 + 8 * i, 0, 2⟩
def F.scStu_ranks (i : Nat) : FRef := ⟨0, 0x20100 + 8 * i, 2, 17⟩
def F.scStu_opens (i : Nat) : FRef := ⟨0, 0x20100 + 8 * i, 19, 32⟩
def F.scDeny_count : FRef := ⟨0, 0x20200, 0, 16⟩
def F.scDeny_fn : FRef := ⟨0, 0x20200, 16, 4⟩
def F.scDeny_addr : FRef := ⟨0, 0x20200, 20, 32⟩
def F.scDeny_valid : FRef := ⟨0, 0x20200, 52, 1⟩
def F.hqDb_dbAddr (fn : Nat) : FRef := ⟨fn, 0x30000, 5, 59⟩
def F.hqCtl_pollUs (fn : Nat) : FRef := ⟨fn, 0x30008, 0, 7⟩
def F.hqCtl_en (fn : Nat) : FRef := ⟨fn, 0x30008, 7, 1⟩
def F.hqSq_lg (fn i : Nat) : FRef := ⟨fn, 0x30100 + 16 * i, 0, 5⟩
def F.hqSq_en (fn i : Nat) : FRef := ⟨fn, 0x30100 + 16 * i, 8, 1⟩
def F.hqSq_err (fn i : Nat) : FRef := ⟨fn, 0x30100 + 16 * i, 9, 1⟩
def F.hqSq_base (fn i : Nat) : FRef := ⟨fn, 0x30100 + 16 * i, 12, 52⟩
def F.hqSqs_head (fn i : Nat) : FRef := ⟨fn, 0x30108 + 16 * i, 0, 32⟩
def F.hqSqs_fetched (fn i : Nat) : FRef := ⟨fn, 0x30108 + 16 * i, 32, 32⟩
def F.hqCq_lg (fn i : Nat) : FRef := ⟨fn, 0x30200 + 16 * i, 0, 5⟩
def F.hqCq_en (fn i : Nat) : FRef := ⟨fn, 0x30200 + 16 * i, 8, 1⟩
def F.hqCq_err (fn i : Nat) : FRef := ⟨fn, 0x30200 + 16 * i, 9, 1⟩
def F.hqCq_base (fn i : Nat) : FRef := ⟨fn, 0x30200 + 16 * i, 12, 52⟩
def F.hqCqs_tail (fn i : Nat) : FRef := ⟨fn, 0x30208 + 16 * i, 0, 32⟩
def F.hqCqs_held (fn i : Nat) : FRef := ⟨fn, 0x30208 + 16 * i, 32, 9⟩
def F.hqCqs_cqOvf (fn i : Nat) : FRef := ⟨fn, 0x30208 + 16 * i, 48, 16⟩
def F.hqNudge_nudge (fn : Nat) : FRef := ⟨fn, 0x30300, 0, 32⟩
def F.hqImod_icN (fn i : Nat) : FRef := ⟨fn, 0x30310 + 8 * i, 0, 8⟩
def F.hqImod_icUs (fn i : Nat) : FRef := ⟨fn, 0x30310 + 8 * i, 8, 16⟩
def F.lkStat_state (i : Nat) : FRef := ⟨0, 0x40000 + 16 * i, 0, 3⟩
def F.lkStat_width (i : Nat) : FRef := ⟨0, 0x40000 + 16 * i, 3, 3⟩
def F.lkStat_laneBad (i : Nat) : FRef := ⟨0, 0x40000 + 16 * i, 6, 4⟩
def F.lkStat_restarts (i : Nat) : FRef := ⟨0, 0x40000 + 16 * i, 10, 16⟩
def F.lkStat_widthDn (i : Nat) : FRef := ⟨0, 0x40000 + 16 * i, 26, 8⟩
def F.lkStat_r0Resend (i : Nat) : FRef := ⟨0, 0x40000 + 16 * i, 34, 16⟩
def F.lkErr_fecCe (i : Nat) : FRef := ⟨0, 0x40008 + 16 * i, 0, 24⟩
def F.lkErr_fecUe (i : Nat) : FRef := ⟨0, 0x40008 + 16 * i, 24, 16⟩
def F.lkErr_rxBad (i : Nat) : FRef := ⟨0, 0x40008 + 16 * i, 40, 16⟩
def F.lkErr_typeBad (i : Nat) : FRef := ⟨0, 0x40008 + 16 * i, 56, 8⟩
def F.lkPol_rate (i : Nat) : FRef := ⟨0, 0x40400 + 8 * i, 0, 16⟩
def F.lkPol_burst (i : Nat) : FRef := ⟨0, 0x40400 + 8 * i, 16, 16⟩
def F.lkSrc_polDrop (i : Nat) : FRef := ⟨0, 0x40800 + 8 * i, 0, 24⟩
def F.lkSrc_seqGap (i : Nat) : FRef := ⟨0, 0x40800 + 8 * i, 24, 16⟩
def F.lkSrc_zBad (i : Nat) : FRef := ⟨0, 0x40800 + 8 * i, 40, 16⟩
def F.lkShp_rate (i : Nat) : FRef := ⟨0, 0x40C00 + 8 * i, 0, 16⟩
def F.lkShp_burst (i : Nat) : FRef := ⟨0, 0x40C00 + 8 * i, 16, 16⟩
def F.lkShp_en (i : Nat) : FRef := ⟨0, 0x40C00 + 8 * i, 32, 1⟩
def F.lkShp_mode (i : Nat) : FRef := ⟨0, 0x40C00 + 8 * i, 33, 1⟩
def F.lkGctl_phaseNs (i : Nat) : FRef := ⟨0, 0x40D00 + 8 * i, 0, 30⟩
def F.lkGctl_nent (i : Nat) : FRef := ⟨0, 0x40D00 + 8 * i, 30, 9⟩
def F.lkGctl_en (i : Nat) : FRef := ⟨0, 0x40D00 + 8 * i, 39, 1⟩
def F.lkGctl_commit (i : Nat) : FRef := ⟨0, 0x40D00 + 8 * i, 40, 1⟩
def F.lkGctl_pend (i : Nat) : FRef := ⟨0, 0x40D00 + 8 * i, 41, 1⟩
def F.lkGctl_gateErr (i : Nat) : FRef := ⟨0, 0x40D00 + 8 * i, 42, 1⟩
def F.lkGctl_gateDrop (i : Nat) : FRef := ⟨0, 0x40D00 + 8 * i, 43, 16⟩
def F.lkGate_open (i : Nat) : FRef := ⟨0, 0x41000 + 4 * i, 0, 4⟩
def F.lkGate_dur (i : Nat) : FRef := ⟨0, 0x41000 + 4 * i, 4, 28⟩
def F.arb_n (i : Nat) : FRef := ⟨0, 0x42000 + 8 * i, 0, 7⟩
def F.arb_frz (i : Nat) : FRef := ⟨0, 0x42000 + 8 * i, 7, 1⟩
def F.arb_drained (i : Nat) : FRef := ⟨0, 0x42000 + 8 * i, 8, 1⟩
def F.arb_ptr (i : Nat) : FRef := ⟨0, 0x42000 + 8 * i, 9, 5⟩
def F.arb_starv (i : Nat) : FRef := ⟨0, 0x42000 + 8 * i, 14, 24⟩
def F.arb_maxWait (i : Nat) : FRef := ⟨0, 0x42000 + 8 * i, 38, 16⟩
def F.lkZ_zEn : FRef := ⟨0, 0x42800, 0, 1⟩
def F.lkZ_zRej : FRef := ⟨0, 0x42800, 16, 16⟩
def F.lkZ_zSkip : FRef := ⟨0, 0x42800, 32, 16⟩
def F.lkTap_tapFrames : FRef := ⟨0, 0x42808, 0, 32⟩
def F.lkTap_tapOvf : FRef := ⟨0, 0x42808, 32, 16⟩
def F.lkTap_tapUnpl : FRef := ⟨0, 0x42808, 48, 16⟩
def F.rdCfg_node : FRef := ⟨0, 0x44000, 0, 16⟩
def F.rdCfg_level : FRef := ⟨0, 0x44000, 16, 2⟩
def F.rdCfg_top : FRef := ⟨0, 0x44000, 18, 1⟩
def F.rdCfg_tc2 : FRef := ⟨0, 0x44000, 19, 1⟩
def F.rdCfg_waitUs : FRef := ⟨0, 0x44000, 20, 14⟩
def F.rdCfg_armMinUs : FRef := ⟨0, 0x44000, 34, 14⟩
def F.rdCfg_job : FRef := ⟨0, 0x44000, 48, 16⟩
def F.rdStat_path : FRef := ⟨0, 0x44008, 0, 2⟩
def F.rdStat_sat : FRef := ⟨0, 0x44008, 2, 1⟩
def F.rdStat_decim : FRef := ⟨0, 0x44008, 3, 3⟩
def F.rdStat_rods : FRef := ⟨0, 0x44008, 6, 6⟩
def F.rdStat_areaMib : FRef := ⟨0, 0x44008, 12, 9⟩
def F.rdStat_ptBeads : FRef := ⟨0, 0x44008, 21, 32⟩
def F.rdCnt_lateFwd : FRef := ⟨0, 0x44010, 0, 16⟩
def F.rdCnt_ptSent : FRef := ⟨0, 0x44010, 16, 16⟩
def F.rdCnt_epSkew : FRef := ⟨0, 0x44010, 32, 12⟩
def F.rdCnt_pathMoves : FRef := ⟨0, 0x44010, 44, 8⟩
def F.rdCnt_holdDrop : FRef := ⟨0, 0x44010, 52, 12⟩
def F.bcStat_lastBid : FRef := ⟨0, 0x44018, 0, 16⟩
def F.bcStat_armed : FRef := ⟨0, 0x44018, 16, 4⟩
def F.bcStat_rearm : FRef := ⟨0, 0x44018, 20, 16⟩
def F.bcStat_late : FRef := ⟨0, 0x44018, 36, 16⟩
def F.bcStat_abort : FRef := ⟨0, 0x44018, 52, 8⟩
def F.rdMap_gen : FRef := ⟨0, 0x44020, 0, 16⟩
def F.rdMap_pendGen : FRef := ⟨0, 0x44020, 16, 16⟩
def F.rdMap_ranks : FRef := ⟨0, 0x44020, 32, 17⟩
def F.hlCfg_recThr : FRef := ⟨0, 0x45000, 0, 10⟩
def F.hlCfg_quota : FRef := ⟨0, 0x45000, 10, 7⟩
def F.hlCfg_quotaMin : FRef := ⟨0, 0x45000, 17, 11⟩
def F.hlCfg_floorPm : FRef := ⟨0, 0x45000, 28, 10⟩
def F.hlCfg_sysCand : FRef := ⟨0, 0x45000, 38, 10⟩
def F.hlCfg_decayF : FRef := ⟨0, 0x45000, 48, 16⟩
def F.hlSrch_slowRatio : FRef := ⟨0, 0x45008, 0, 16⟩
def F.hlSrch_slowMinUs : FRef := ⟨0, 0x45008, 16, 16⟩
def F.hlSrch_persist : FRef := ⟨0, 0x45008, 32, 4⟩
def F.hlSrch_span : FRef := ⟨0, 0x45008, 36, 4⟩
def F.hlSrch_driftB : FRef := ⟨0, 0x45008, 40, 8⟩
def F.hlSrch_learnWin : FRef := ⟨0, 0x45008, 48, 13⟩
def F.hlSrch_hstream : FRef := ⟨0, 0x45008, 61, 3⟩
def F.hlJob_nJob : FRef := ⟨0, 0x45010, 0, 18⟩
def F.hlJob_active : FRef := ⟨0, 0x45010, 18, 18⟩
def F.hlJob_pend : FRef := ⟨0, 0x45010, 36, 10⟩
def F.hlJob_held : FRef := ⟨0, 0x45010, 46, 11⟩
def F.hlJob_alarm : FRef := ⟨0, 0x45010, 57, 1⟩
def F.hlJob_trig : FRef := ⟨0, 0x45010, 58, 3⟩
def F.hlJob_evGapS : FRef := ⟨0, 0x45010, 61, 3⟩
def F.hlCnt_emitted : FRef := ⟨0, 0x45018, 0, 16⟩
def F.hlCnt_quotaDef : FRef := ⟨0, 0x45018, 16, 16⟩
def F.hlCnt_evTrunc : FRef := ⟨0, 0x45018, 32, 16⟩
def F.hlCnt_qDrop : FRef := ⟨0, 0x45018, 48, 16⟩
def F.hlSel_rank : FRef := ⟨0, 0x45020, 0, 17⟩
def F.hlRank_score : FRef := ⟨0, 0x45028, 0, 10⟩
def F.hlRank_state : FRef := ⟨0, 0x45028, 10, 3⟩
def F.hlRank_p : FRef := ⟨0, 0x45028, 13, 32⟩
def F.hlRank_causes : FRef := ⟨0, 0x45028, 45, 8⟩
def F.hlTray_pairSkip : FRef := ⟨0, 0x45030, 0, 24⟩
def F.hlTray_excl : FRef := ⟨0, 0x45030, 24, 24⟩
def F.hlTray_evOver : FRef := ⟨0, 0x45030, 48, 16⟩
def F.hlPhase_monStart (i : Nat) : FRef := ⟨0, 0x45100 + 4 * i, 0, 8⟩
def F.hlPhase_monEnd (i : Nat) : FRef := ⟨0, 0x45100 + 4 * i, 8, 8⟩
def F.hlPhase_en (i : Nat) : FRef := ⟨0, 0x45100 + 4 * i, 16, 1⟩
def F.tmNow_ht : FRef := ⟨0, 0x50000, 0, 64⟩
def F.tmStat_src : FRef := ⟨0, 0x50008, 0, 2⟩
def F.tmStat_valid : FRef := ⟨0, 0x50008, 2, 1⟩
def F.tmStat_tq : FRef := ⟨0, 0x50008, 3, 5⟩
def F.tmStat_resync : FRef := ⟨0, 0x50008, 8, 8⟩
def F.tmStat_holdMs : FRef := ⟨0, 0x50008, 16, 16⟩
def F.tmStat_misalign : FRef := ⟨0, 0x50008, 32, 16⟩
def F.tmCfg_sitFrzUs : FRef := ⟨0, 0x50010, 0, 16⟩
def F.sitStat_outst : FRef := ⟨0, 0x50018, 0, 4⟩
def F.sitStat_refused : FRef := ⟨0, 0x50018, 4, 8⟩
def F.sitStat_incompl : FRef := ⟨0, 0x50018, 12, 8⟩
def F.sitStat_lastId : FRef := ⟨0, 0x50018, 20, 8⟩
def F.sitStat_chanKib : FRef := ⟨0, 0x50018, 32, 32⟩
def F.winCfg_lenUs (i : Nat) : FRef := ⟨0, 0x50200 + 8 * i, 0, 20⟩
def F.winCfg_closeUs (i : Nat) : FRef := ⟨0, 0x50200 + 8 * i, 20, 14⟩
def F.winCnt_late (i : Nat) : FRef := ⟨0, 0x50240 + 8 * i, 0, 32⟩
def F.winCnt_bndUnc (i : Nat) : FRef := ⟨0, 0x50240 + 8 * i, 32, 32⟩
def F.isl_stretch (i : Nat) : FRef := ⟨0, 0x50300 + 8 * i, 0, 16⟩
def F.isl_stops (i : Nat) : FRef := ⟨0, 0x50300 + 8 * i, 16, 16⟩
def F.isl_lastGapNs (i : Nat) : FRef := ⟨0, 0x50300 + 8 * i, 32, 32⟩
def F.tmSite_dmin (i : Nat) : FRef := ⟨0, 0x50400 + 8 * i, 0, 16⟩
def F.tmSite_ofs (i : Nat) : FRef := ⟨0, 0x50400 + 8 * i, 16, 16⟩
def F.tmSite_asym (i : Nat) : FRef := ⟨0, 0x50400 + 8 * i, 32, 16⟩
def F.tmSite_sitOk (i : Nat) : FRef := ⟨0, 0x50400 + 8 * i, 48, 1⟩
def F.tmSite_state (i : Nat) : FRef := ⟨0, 0x50400 + 8 * i, 49, 2⟩
def F.tmPort_dmin (i : Nat) : FRef := ⟨0, 0x50800 + 8 * i, 0, 16⟩
def F.tmPort_ofs (i : Nat) : FRef := ⟨0, 0x50800 + 8 * i, 16, 16⟩
def F.tmPort_asym (i : Nat) : FRef := ⟨0, 0x50800 + 8 * i, 32, 16⟩
def F.tmPort_sitOk (i : Nat) : FRef := ⟨0, 0x50800 + 8 * i, 48, 1⟩
def F.tmPort_state (i : Nat) : FRef := ⟨0, 0x50800 + 8 * i, 49, 2⟩
def F.evHead_pgno : FRef := ⟨0, 0x60000, 0, 64⟩
def F.evStat_dirty : FRef := ⟨0, 0x60008, 0, 12⟩
def F.evStat_fxUsed : FRef := ⟨0, 0x60008, 12, 12⟩
def F.evStat_fxFull : FRef := ⟨0, 0x60008, 24, 1⟩
def F.evStat_flushing : FRef := ⟨0, 0x60008, 25, 1⟩
def F.evStat_coalUsed : FRef := ⟨0, 0x60008, 26, 7⟩
def F.evCfg_irqSev : FRef := ⟨0, 0x60010, 0, 3⟩
def F.evCfg_coalEn : FRef := ⟨0, 0x60010, 3, 1⟩
def F.evCfg_ageMs : FRef := ⟨0, 0x60010, 4, 10⟩
def F.evCur_pg (fn : Nat) : FRef := ⟨fn, 0x60018, 0, 11⟩
def F.evCur_fxBlk (fn : Nat) : FRef := ⟨fn, 0x60018, 16, 4⟩
def F.evNew_newsev : FRef := ⟨0, 0x60020, 0, 8⟩
def F.evFxack_slot : FRef := ⟨0, 0x60028, 0, 11⟩
def F.evCnt_drop (i : Nat) : FRef := ⟨0, 0x60100 + 8 * i, 0, 32⟩
def F.evCnt_pent (i : Nat) : FRef := ⟨0, 0x60100 + 8 * i, 32, 32⟩
def F.evCoal_coal : FRef := ⟨0, 0x60140, 0, 40⟩
def F.evCoal_early : FRef := ⟨0, 0x60140, 40, 24⟩
def F.evFlash_unflashed : FRef := ⟨0, 0x60148, 0, 24⟩
def F.evFlash_flSkip : FRef := ⟨0, 0x60148, 24, 16⟩
def F.evFlash_flushes : FRef := ⟨0, 0x60148, 40, 16⟩
def F.pfVcnt_match : FRef := ⟨0, 0x70000, 0, 40⟩
def F.pfVcnt_matchCp : FRef := ⟨0, 0x70000, 40, 16⟩
def F.pfVcnt_unresolved : FRef := ⟨0, 0x70000, 56, 8⟩
def F.pfFcnt_engFault : FRef := ⟨0, 0x70008, 0, 16⟩
def F.pfFcnt_transport : FRef := ⟨0, 0x70008, 16, 16⟩
def F.pfFcnt_late : FRef := ⟨0, 0x70008, 32, 16⟩
def F.pfFcnt_unchk : FRef := ⟨0, 0x70008, 48, 16⟩
def F.pfPool_pool : FRef := ⟨0, 0x70010, 0, 16⟩
def F.pfPool_quar : FRef := ⟨0, 0x70010, 16, 16⟩
def F.pfPool_dbl : FRef := ⟨0, 0x70010, 32, 16⟩
def F.pfPool_inflight : FRef := ⟨0, 0x70010, 48, 8⟩
def F.pfCap_used : FRef := ⟨0, 0x70018, 0, 10⟩
def F.pfCap_nepoch : FRef := ⟨0, 0x70018, 10, 2⟩
def F.pfCap_curEpoch : FRef := ⟨0, 0x70018, 12, 32⟩
def F.pfCap_evict : FRef := ⟨0, 0x70018, 44, 16⟩
def F.tsEpoch_epoch (i : Nat) : FRef := ⟨0, 0x80000 + 16 * i, 0, 32⟩
def F.tsEpoch_newEpoch (i : Nat) : FRef := ⟨0, 0x80000 + 16 * i, 32, 32⟩
def F.tsState_state (i : Nat) : FRef := ⟨0, 0x80008 + 16 * i, 0, 2⟩
def F.tsState_npanel (i : Nat) : FRef := ⟨0, 0x80008 + 16 * i, 2, 9⟩
def F.tsState_panLeft (i : Nat) : FRef := ⟨0, 0x80008 + 16 * i, 11, 9⟩
def F.tsState_bound (i : Nat) : FRef := ⟨0, 0x80008 + 16 * i, 20, 11⟩
def F.tsState_waiting (i : Nat) : FRef := ⟨0, 0x80008 + 16 * i, 31, 8⟩
def F.tsState_swaps (i : Nat) : FRef := ⟨0, 0x80008 + 16 * i, 39, 16⟩
def F.tsState_damaged (i : Nat) : FRef := ⟨0, 0x80008 + 16 * i, 55, 1⟩
def F.clArith_ovfInf (i : Nat) : FRef := ⟨0, 0x100400 + 65536 * i, 0, 20⟩
def F.clArith_satClamp (i : Nat) : FRef := ⟨0, 0x100400 + 65536 * i, 20, 20⟩
def F.clArith_specialSat (i : Nat) : FRef := ⟨0, 0x100400 + 65536 * i, 40, 20⟩
def F.clSparse_densViol (i : Nat) : FRef := ⟨0, 0x100408 + 65536 * i, 0, 24⟩
def F.clSparse_idxRange (i : Nat) : FRef := ⟨0, 0x100408 + 65536 * i, 24, 24⟩
def F.clSparse_evCore (i : Nat) : FRef := ⟨0, 0x100408 + 65536 * i, 48, 4⟩
def F.clSparse_evEng (i : Nat) : FRef := ⟨0, 0x100408 + 65536 * i, 52, 2⟩
def F.clSparse_evKind (i : Nat) : FRef := ⟨0, 0x100408 + 65536 * i, 54, 1⟩
def F.clSparse_evValid (i : Nat) : FRef := ⟨0, 0x100408 + 65536 * i, 55, 1⟩
def F.clMem_ceCount (i : Nat) : FRef := ⟨0, 0x100410 + 65536 * i, 0, 16⟩
def F.clMem_ueCount (i : Nat) : FRef := ⟨0, 0x100410 + 65536 * i, 16, 16⟩
def F.clMem_ueAddr (i : Nat) : FRef := ⟨0, 0x100410 + 65536 * i, 32, 23⟩
def F.clMem_ueWhere (i : Nat) : FRef := ⟨0, 0x100410 + 65536 * i, 55, 3⟩
def F.clPlan_wdMask (i : Nat) : FRef := ⟨0, 0x100420 + 65536 * i, 0, 16⟩
def F.clPlan_pendMask (i : Nat) : FRef := ⟨0, 0x100420 + 65536 * i, 16, 16⟩
def F.clPlan_planSw (i : Nat) : FRef := ⟨0, 0x100420 + 65536 * i, 32, 16⟩
def F.clPlan_nopHold (i : Nat) : FRef := ⟨0, 0x100420 + 65536 * i, 48, 8⟩
def F.clColl_collCount (i : Nat) : FRef := ⟨0, 0x100428 + 65536 * i, 0, 16⟩
def F.clColl_winPort (i : Nat) : FRef := ⟨0, 0x100428 + 65536 * i, 16, 8⟩
def F.clColl_losePort (i : Nat) : FRef := ⟨0, 0x100428 + 65536 * i, 24, 8⟩
def F.clColl_resource (i : Nat) : FRef := ⟨0, 0x100428 + 65536 * i, 32, 9⟩
def F.clColl_graph (i : Nat) : FRef := ⟨0, 0x100428 + 65536 * i, 41, 4⟩
def F.clColl_task (i : Nat) : FRef := ⟨0, 0x100428 + 65536 * i, 45, 16⟩
def F.clColl_valid (i : Nat) : FRef := ⟨0, 0x100428 + 65536 * i, 61, 1⟩
def F.clNode_ceCount (i : Nat) : FRef := ⟨0, 0x100438 + 65536 * i, 0, 16⟩
def F.clNode_ueCount (i : Nat) : FRef := ⟨0, 0x100438 + 65536 * i, 16, 16⟩
def F.clNode_ueLoc (i : Nat) : FRef := ⟨0, 0x100438 + 65536 * i, 32, 20⟩
def F.clNode_ueScrub (i : Nat) : FRef := ⟨0, 0x100438 + 65536 * i, 52, 1⟩
def F.clNode_ueValid (i : Nat) : FRef := ⟨0, 0x100438 + 65536 * i, 53, 1⟩
def F.clWalk_visits (i : Nat) : FRef := ⟨0, 0x100440 + 65536 * i, 0, 40⟩
def F.clWalk_dfltTaken (i : Nat) : FRef := ⟨0, 0x100440 + 65536 * i, 40, 16⟩
def F.clSt_failMask (i : Nat) : FRef := ⟨0, 0x100450 + 65536 * i, 0, 16⟩
def F.clSt_cur (i : Nat) : FRef := ⟨0, 0x100450 + 65536 * i, 16, 4⟩
def F.clSt_curV (i : Nat) : FRef := ⟨0, 0x100450 + 65536 * i, 20, 1⟩
def F.clSt_tests (i : Nat) : FRef := ⟨0, 0x100450 + 65536 * i, 21, 16⟩
def F.clSt_forced (i : Nat) : FRef := ⟨0, 0x100450 + 65536 * i, 37, 16⟩
def F.clSt_fails (i : Nat) : FRef := ⟨0, 0x100450 + 65536 * i, 53, 8⟩

end Sys2Proof.Machine
end

