-- ==== Sys2Proof/Machine/State.lean ====
section
/-! DEFINITION. The machine: one Ginath module and one Plovlugo block, the commands waiting, the memory the debug port reaches, the
outcomes a step can have besides a next state, and the state right after reset. -/

namespace Sys2Proof.Machine

/-- Why a run stops with a fault. The model has no meaning that faults: the manual states an outcome for every command (R5).
Safe: a stop proves nothing about the device. -/
inductive Fault where
  /-- Raised by no meaning; kept so that claims can name the empty list of faults. Safe. -/
  | none
deriving DecidableEq, Repr

/-- Why a command is refused by the model. -/
inductive Refusal where
  /-- An arm of Dispatch.lean whose meaning has not been written. Safe: the run stops. -/
  | notModelled (mnemonic : String)
deriving DecidableEq, Repr

/-- The Ginath module. `regs` holds the register fields of BAR0 by (function, offset, low bit) (RegMap.lean); `mem` holds the bytes of
control-core memory and HBM that have been written (R57, R332, assumption log 9), keyed space × 2^48 + address. -/
structure Gn where
  regs : SMap Nat
  msix : SMap Nat
  lastRst : Nat
  ev : EvSt
  hq : HqSt
  pw : PwSt
  sc : ScSt
  hg : HgSt
  lk : LkSt
  tm : TimeSt
  isls : SMap IslSt
  wins : SMap WinSt
  sits : List Sit
  parked : List Parked
  rd : RdSt
  sq : SqSt
  ar : ArSt
  ts : TsSt
  pf : PfSt
  hl : HlSt
  free : Nat
  out : List Out
  mem : SMap Byte
deriving DecidableEq, Repr

/-- The machine. `pending` is the queue of commands, front first. -/
structure State where
  pending : List Instr
  gn : Gn
  pl : Pl
deriving DecidableEq, Repr

/-! ### Reset values -/

/-- What an unlisted register field reads as: its reset value in the register tables; where the table gives F or S (R11, R358) 0, but for
`hs_delay_ms`, which is 1,000 while no configuration image is readable (R298). -/
def fldDefault (tbl : List RegDef) (off lo : Nat) : Nat :=
  match tbl.find? (fun r => decide (r.base ≤ off) &&
      (if r.stride = 0 then off == r.base
       else (off - r.base) % r.stride == 0 && decide ((off - r.base) / r.stride < r.count))) with
  | none => 0
  | some r => match r.flds.find? (fun f => f.lo == lo) with
    | none => 0
    | some f => f.rst

/-- Key of a field in `Gn.regs`. -/
def FRef.key (f : FRef) : Nat := (f.fn * 2 ^ 21 + f.off) * 64 + f.lo

/-- Reset value by key. -/
def regDefault (key : Nat) : Nat := fldDefault regTable (key / 64 % 2 ^ 21) (key % 64)

/-- Reset value of an MSI-X table word: the vector control word is masked (PCIe 6.0; assumption log 10). -/
def msixDefault (k : Nat) : Nat := if k % 16 = 12 then 1 else 0

/-- What an unlisted byte of the debug port's memory reads as (assumption log 9). -/
def memDefault (_ : Nat) : Byte := 0

def Port.empty : Port :=
  { cred := [0, 0, 0, 0], owed := [0, 0, 0, 0], whole := [0, 0, 0, 0], sendQ := [], unack := [], acks := [], seen0 := [], expSeq := [], asm := [],
    rx := none, txSeq := [0, 0, 0, 0], heldZ := [] }

def CqSt.empty : CqSt := { head := 0, phase := true, unsig := 0, hold := [] }

def WinSt.init : WinSt := { segs := [], closes := [], closed := 0, wins := [], cums := [] }

/-- One nanosecond in the fraction of the time unit (R158): 2^32. -/
def nsFix : Nat := 2 ^ 32

def TimeSt.init (inc : Nat) : TimeSt :=
  { fix := 0, inc := inc, slew := 0, hold := none, offLim := 0, unq := 0, last := 0, xs := [], dmins := [], dmean := [], holdSince := none, xid := 0,
    reqs := [] }

def EvSt.init : EvSt :=
  { outbox := [], pages := [], fx := [], chunks := [], coal := [], coalCodes := [], vfNew := [], seq := 0, pgno := 0, flash := [], flashN := 0,
    stopped := false, stopDrops := 0, flush := none, turn := none }

def HqSt.init : HqSt := { owed := [], cq := [], polls := [], levels := [], ovfPend := [], retests := [], tails := [], dma := [], retires := [], stopped := [] }

def PwSt.init : PwSt :=
  { off := false, inp := .on, upGates := 0, fosGates := 0, trip := 0, lockOut := false, lossHt := none, flushStopped := false, coldWait := false }

def ScSt.init : ScSt :=
  { keys := [], store := none, tags := [], closing := [], maint := none, fwSlots := [], cfgSlots := [], fwLoaded := 0, cfgLoaded := 0, owner := none, ownerOk := false,
    nonce := none, ignore := 0, dpData := 0, dpStatus := 0, tapIr := 0x01, cfg := none }

def HgSt.init : HgSt :=
  { mons := [], slots := [none, none], cur := none, dseq := 0, warmAfter := none, coldAfter := false, deferred := [], waiting := [], testing := [], stay := [], beatHt := 0, wdDone := false,
    halted := 0, cnts := [] }

def LkSt.init : LkSt :=
  { ports := [], buckets := [], shapers := [], gates := [], arbs := [], blk := [], mismatch := [], unmapped := [], tapFill := 0,
    tapDrops := 0, collectors := [] }

def RdSt.init : RdSt :=
  { ranks := [], pend := none, topo := none, rods := [], queued := [], spans := [], store := [], hold := [], reads := [], nextTag := 0,
    bcs := [], aborts := [], aseq := 0, hist := [], overwritten := [], epochs := [], flagged := [], ordered := 0,
    childCtl := (0, 0), aggs := [], closed := [], ended := [], fosters := [] }

def SqSt.init : SqSt := { images := [], graphs := [], sched := [], tallies := [], coreWait := [] }

def ArSt.init : ArSt :=
  { mem := [], tags := [], flips := [], tflips := [], engs := [], sparse := [], codes := [], loads := [], vecs := [], chunks := [], cross := [], pend := [], cyc := [],
    acc := [], bad := [], read := [], wrote := [], ues := [], evs := [] }

def TsSt.init : TsSt :=
  { slots := [], pool := [], walks := [], store := [], sets := [], beyond := [], scrub := [], nodeFlips := [], setFlips := [] }

def PfSt.init : PfSt :=
  { plans := [], seeds := [], seedWarned := [], caps := [], exps := [], tracks := [], runs := [], nextRun := 0, pointer := 15,
    quar := [], barred := [], lastQuar := [], epoch := 0, refused := [], verdicts := 0 }

def HlSt.init : HlSt :=
  { ranks := [], slow := [], slowHt := [], drift := [], driftHt := [], bases := [], emits := [], emitSeq := 0, answers := [],
    minute := 0, pulses := [], durs := [], evid := [], anomHt := [], ready := [], lateEv := [], lastSum := 0, lastEpoch := 0, ran := [] }

/-- The module after a module cold reset that found empty flash: power applied, bring-up at phase POWER (R348). -/
def Gn.init : Gn :=
  { regs := [], msix := [], lastRst := 0, ev := EvSt.init, hq := HqSt.init, pw := PwSt.init, sc := ScSt.init, hg := HgSt.init,
    lk := LkSt.init, tm := TimeSt.init nsFix, isls := [], wins := [], sits := [], parked := [], rd := RdSt.init, sq := SqSt.init,
    ar := ArSt.init, ts := TsSt.init, pf := PfSt.init, hl := HlSt.init, free := 0, out := [], mem := [] }

/-- The full-size instance (scope chapter, R136; assumption log 2): bank b counts unit b, no bank is privileged, die site 0. -/
def PlPar.full : PlPar :=
  { nbank := 64, ncore := 64, trbufLog := 10, nmon := 256, px := true, units := List.range 64, privs := 0, site := 0 }

/-- The block after block reset (R134), with the hall-time increment of a 1.0 GHz `pl_clk` (assumption log 2). -/
def Pl.init (p : PlPar) : Pl :=
  { par := p, intStat := 0, intEn := 0, tm := TimeSt.init nsFix, valid := false, resync := 0, frzEn := false, frzMaxUs := 0x3E8,
    overrun := 0, sitReqs := [], images := [], frzs := [], frzSince := 0, frzSit := 0, ivl := 0, palArmed := false, skipCnt := 0,
    palGen := 0, pal := [], palPend := [], skips := (0, 0), resumed := 0, cnt := [], shadow := [], sitShadow := [], cntIdx := 0,
    latches := [], trEn := false, trMode := false, trStall := 0, loss := 0, cores := [], circ := [], written := 0, lastStamp := 0, stampEnd := 0,
    stampPend := [],
    dmaLast := 0, mons := [], pgSel := 0, rpMon := 0, rpEn := false, pgStall := 0, seeds := [],
    exps := [], inStream := [], nextSeq := 0, watermark := 0xFFFFFFFF, rpQ := [], rpUp := false, rpLow := false, rexQ := [], seedMiss := 0,
    selSkip := 0, exports := 0, rpMerge := 0, vdUnknown := 0, evs := [], coal := [], evDropped := 0, pentimento := 0, lkState := 0, restarts := 0,
    rxBad := 0, studio := 0, tagValid := false, mpDeny := 0, q := [], grants := 0, seqs := [0, 0, 0, 0], wrote := [], out := [] }

/-- The machine right after reset: the module after module cold reset (R285), the block after block reset (R134), nothing waiting. -/
def State.reset : State := { pending := [], gn := Gn.init, pl := Pl.init PlPar.full }

end Sys2Proof.Machine
end

