-- ==== Sys2Proof/Machine/Ops.lean ====
section
/-! DEFINITION. The named operations the meanings share: lifting an effect on one side of the machine, register fields, hall time, records,
interrupts, completions and the start of a descriptor. -/

namespace Sys2Proof.Machine

/-- Apply an effect to the Ginath module only. -/
def State.onGn (s : State) (f : Gn → Gn) : State := { s with gn := f s.gn }

/-- Apply an effect to the Plovlugo block only. -/
def State.onPl (s : State) (f : Pl → Pl) : State := { s with pl := f s.pl }

/-- The outcome of a command whose whole effect is on the Ginath module. -/
def gnStep (s : State) (f : Gn → Gn) : Host.Outcome State Fault Refusal := .next (s.onGn f)

/-- The outcome of a command whose whole effect is on the Plovlugo block. -/
def plStep (s : State) (f : Pl → Pl) : Host.Outcome State Fault Refusal := .next (s.onPl f)

/-- Do `f` when `c` holds. -/
def when {α : Type} (c : Bool) (f : α → α) (x : α) : α := if c then f x else x

/-- Apply `f` to every index of a list in turn. -/
def forEach {α ι : Type} (l : List ι) (f : ι → α → α) (x : α) : α := l.foldl (fun y i => f i y) x

/-! ### Register fields (R9 to R11) -/

/-- Read a register field. -/
def Gn.rg (g : Gn) (f : FRef) : Nat := SMap.get regDefault g.regs f.key

/-- Write a register field, keeping its width. -/
def Gn.wr (g : Gn) (f : FRef) (v : Nat) : Gn := { g with regs := SMap.set regDefault g.regs f.key (v % 2 ^ f.len) }

/-- Read a one-bit field. -/
def Gn.flag (g : Gn) (f : FRef) : Bool := g.rg f != 0

/-- Write a one-bit field. -/
def Gn.put (g : Gn) (f : FRef) (b : Bool) : Gn := g.wr f (b2n b)

/-- Raise a counter that saturates at its largest value and holds. -/
def Gn.addSat (g : Gn) (f : FRef) (n : Nat) : Gn := g.wr f (min (2 ^ f.len - 1) (g.rg f + n))

/-- Raise a saturating counter by 1. -/
def Gn.inc (g : Gn) (f : FRef) : Gn := g.addSat f 1

/-- Raise a counter that wraps modulo its width. -/
def Gn.addWrap (g : Gn) (f : FRef) (n : Nat) : Gn := g.wr f (g.rg f + n)

/-! ### Hall time (R158) -/

/-- The integer part of a held time, modulo 2^64. -/
def TimeSt.ht (t : TimeSt) : Nat := t.fix / nsFix % 2 ^ 64

/-- The module's hall time. -/
def Gn.now (g : Gn) : Nat := g.tm.ht

/-- The module's time is valid. -/
def Gn.timeValid (g : Gn) : Bool := g.flag F.tmStat_valid

/-! ### Module conditions -/

/-- The safe state holds (R301). -/
def Gn.safe (g : Gn) : Bool := g.flag F.ckStat_safe

/-- The module has power and a reference: not Off, not in the safe state. -/
def Gn.powered (g : Gn) : Bool := !g.pw.off && !g.safe

/-- The module runs: powered, and not in Flush, where only the always-on block, the recorder and flash run (R309). -/
def Gn.alive (g : Gn) : Bool := g.powered && g.rg F.pwState_pstate != 3

/-- Bring-up has reached READY (R348). -/
def Gn.ready (g : Gn) : Bool := g.rg F.buStat_phase == 7

/-- The configured role is tray (R17); with neither topology nor configuration image the model takes tray (assumption log 2). -/
def Gn.isTray (g : Gn) : Bool :=
  match g.rd.topo, g.sc.cfg with
  | some t, _ => t.tray
  | none, some c => c.tray
  | none, none => true

/-- The node is the hall root (R160). -/
def Gn.isTop (g : Gn) : Bool := g.flag F.rdCfg_top

/-- Node identifier (R236). -/
def Gn.node (g : Gn) : Nat := g.rg F.rdCfg_node

/-- A port is UP (R184). -/
def Gn.portUp (g : Gn) (p : Nat) : Bool := g.rg (F.lkStat_state p) == 5

/-- A die route is UP. -/
def Gn.siteUp (g : Gn) (s : Nat) : Bool := g.rg (F.tmSite_state s) == 2

/-- One port's state. -/
def Gn.port (g : Gn) (p : Nat) : Port := SMap.get (fun _ => Port.empty) g.lk.ports p

/-- Change one port's state. -/
def Gn.setPort (g : Gn) (p : Nat) (x : Port) : Gn :=
  { g with lk := { g.lk with ports := SMap.set (fun _ => Port.empty) g.lk.ports p x } }

/-- What an unlisted rank's entry reads as: route 0xFF, mapped nowhere (R210). -/
def rankDefault (_ : Nat) : Word32 := 0xFF

/-- The active rank-table entry of a rank. -/
def Gn.rankEnt (g : Gn) (r : Nat) : Nat := (SMap.get rankDefault g.rd.ranks r).toNat

/-- route, froute and assigned studio of a rank (R210). -/
def Gn.route (g : Gn) (r : Nat) : Nat := bits (g.rankEnt r) 0 8
def Gn.froute (g : Gn) (r : Nat) : Nat := bits (g.rankEnt r) 8 8
def Gn.rankStudio (g : Gn) (r : Nat) : Nat := bits (g.rankEnt r) 16 4

/-- Studio state: 0 CLOSED, 1 ENABLED, 2 OPEN; studio 0 is always served (R315). A studio whose close is running is served no more (R326). -/
def Gn.studioSt (g : Gn) (n : Nat) : Nat :=
  if n = 0 then 2 else if g.sc.closing.any (fun e => e.1 == n) then 0 else g.rg (F.scStu_st n)

/-- The studio a rank belongs to now: its assigned studio while that is OPEN, else 0 (R315). -/
def Gn.studioOf (g : Gn) (r : Nat) : Nat := if g.studioSt (g.rankStudio r) == 2 then g.rankStudio r else 0

/-- The rank mapped to a die site at the tray, 0x1FFFF when none (R210, R262). -/
def Gn.siteRank (g : Gn) (site : Nat) : Nat :=
  match g.rd.ranks.find? (fun e => bits e.2.toNat 0 8 == site) with
  | some e => e.1
  | none => 0x1FFFF

/-- Die sites mapped in the rank table. -/
def Gn.siteMapped (g : Gn) (site : Nat) : Bool := g.siteRank site != 0x1FFFF

/-- Port entry of the accepted topology. -/
def Gn.portEnt (g : Gn) (p : Nat) : Option PortEnt := match g.rd.topo with | none => none | some t => t.ports[p]?

/-- Use of a child port at which a TC-2 collector trained (R234): the topology has no code for it. -/
def useTc2 : Nat := 9

/-- Use of a port in the topology (R350); 0 when no topology is accepted. -/
def Gn.portUse (g : Gn) (p : Nat) : Nat :=
  match g.portEnt p with | none => 0 | some e => if g.lk.collectors.contains p && e.use == 2 then useTc2 else e.use

/-- Ports with a use, ascending. -/
def Gn.portsOf (g : Gn) (use : Nat) : List Nat := (List.range 34).filter (fun p => g.portUse p == use)

/-- The ports to child modules: primary, then foster. -/
def Gn.childPorts (g : Gn) : List Nat := g.portsOf 2 ++ g.portsOf 3

/-- Die sites the topology maps. -/
def Gn.sites (g : Gn) : List Nat := (List.range 112).filter g.siteMapped

/-! ### Arbitration (R201, R202) -/

def arbDefault (_ : Nat) : Arb := { since := 0, reqs := [] }

/-- How many requesters an arbiter has. -/
def arbCount (a : Nat) : Nat := if a < 128 then 22 else if a = 128 then 16 else if a = 131 then 22 else 3

/-- The pending requester that has waited longest, the lower index on a tie. -/
def longestWait (rs : List (Nat × Nat)) : Option (Nat × Nat) :=
  rs.foldl (fun acc r => match acc with
    | none => some r
    | some o => if r.2 < o.2 ∨ (r.2 = o.2 ∧ r.1 < o.1) then some r else some o) none

/-- The first pending requester at or after the pointer in ascending cyclic order. -/
def firstFrom (n ptr : Nat) (rs : List (Nat × Nat)) : Option (Nat × Nat) :=
  ((List.range n).map (fun k => (ptr + k) % n)).findSome? (fun i => rs.find? (fun r => r.1 == i))

/-- A request is raised at an arbiter, unless it is pending. -/
def Gn.raiseReq (g : Gn) (a i : Nat) : Gn :=
  let s := SMap.get arbDefault g.lk.arbs a
  if s.reqs.any (fun r => r.1 == i) then g
  else { g with lk := { g.lk with arbs := SMap.set arbDefault g.lk.arbs a { s with reqs := s.reqs ++ [(i, g.now)] } } }

/-- One arbitration over the requesters pending now: the state after it and the index granted. Waiting time is counted in cycles
of 1 ns, the I/O region's 1.0 GHz (assumption log 8). While a dump's snapshot is taken only the HBM staging requester is granted (R291). -/
def Gn.arbitrate (g : Gn) (a : Nat) (reqs : List Nat) : Gn × Option Nat :=
  let s := SMap.get arbDefault g.lk.arbs a
  let kept := s.reqs.filter (fun r => reqs.contains r.1)
  let fresh := (reqs.eraseDups.filter (fun i => decide (i < arbCount a) && !kept.any (fun r => r.1 == i))).map (fun i => (i, g.now))
  let pend := kept ++ fresh
  let may := fun r : Nat × Nat => g.rg F.hgDump_state != 1 || (decide (a < 128) && r.1 == 19)
  let setA := fun (g : Gn) (x : Arb) => { g with lk := { g.lk with arbs := SMap.set arbDefault g.lk.arbs a x } }
  if g.flag (F.arb_frz a) then (setA g { s with reqs := pend }, none)
  else
    let long := decide (g.rg (F.arb_n a) ≤ s.since + 1)
    match if long then longestWait (pend.filter may) else firstFrom (arbCount a) (g.rg (F.arb_ptr a)) (pend.filter may) with
    | none => (setA g { s with reqs := pend }, none)
    | some (i, t) =>
      let g := setA g { since := if long then 0 else s.since + 1, reqs := pend.filter (fun r => r.1 != i) }
      let g := g.wr (F.arb_maxWait a) (max (g.rg (F.arb_maxWait a)) (min 0xFFFF (g.now - t)))
      let g := if long then g.inc (F.arb_starv a) else g.wr (F.arb_ptr a) ((i + 1) % arbCount a)
      (g, some i)

/-! ### HBM (R57, R201) -/

/-- Overflow panels (R57, R94), boundary pool (R88), resident image `n` (R70), the proof landing area of 1 GiB (R57, R116). -/
def hbmPanels : Nat := 0x1400000000
def hbmPool : Nat := 0x1744000000
def hbmImage (n : Nat) : Nat := 0x1604000000 + n * 2 ^ 24
def hbmLanding : Nat := 0x1704000000

/-- The pseudo-channels that `n` bytes at an address touch: addresses interleave every 1 KiB over the 128 (R201). -/
def hbmChannels (a n : Nat) : List Nat :=
  if n = 0 then [] else (List.range (min 128 ((a + n - 1) / 1024 - a / 1024 + 1))).map (fun i => (a / 1024 + i) % 128)

/-- A channel of an access makes no grant: frozen (R202), or kept by the snapshot of a dump for the staging requester, 19 (R291). -/
def Gn.hbmHeld (g : Gn) (unit a n : Nat) : Bool :=
  (hbmChannels a n).any (fun c => g.flag (F.arb_frz c) || (g.rg F.hgDump_state == 1 && unit != 19))

/-- Grants are made at a channel until a unit has one, to those pending before it among others; `n` bounds them. -/
def Gn.hbmUntil (g : Gn) (c unit : Nat) : Nat → Gn
  | 0 => g
  | n + 1 => match g.arbitrate c (((SMap.get arbDefault g.lk.arbs c).reqs).map (·.1) ++ [unit]) with
    | (g, none) => g
    | (g, some i) => if i = unit then g else g.hbmUntil c unit n

/-- A unit's access to HBM has its grants, one at each channel it touches (R201). -/
def Gn.hbmGranted (g : Gn) (unit a n : Nat) : Gn := forEach (hbmChannels a n) (fun c g => g.hbmUntil c unit 25) g

/-- An access to HBM by requester `unit`: with its grants it is made; where a channel is held its requests are raised, and nothing is done until the command
comes again (R201, R202; assumption log 8). -/
def Gn.viaHbm (g : Gn) (unit a n : Nat) (f : Gn → Gn) : Gn :=
  if g.hbmHeld unit a n then forEach (hbmChannels a n) (fun c g => g.raiseReq c unit) g else f (g.hbmGranted unit a n)

/-! ### Output, records, interrupts -/

/-- Count an event that a monitor source watches, and note when (R282). -/
def Gn.count (g : Gn) (src arg : Nat) : Gn :=
  let c := SMap.get (fun _ => 0) g.hg.cnts (src * 256 + arg)
  let m := SMap.set (fun _ => 0) g.hg.cnts (src * 256 + arg) (c + 1)
  { g with hg := { g.hg with cnts := SMap.set (fun _ => 0) m (65536 + src * 256 + arg) g.now } }

/-- An arbiter makes no grant: frozen (R202), or held by the snapshot of a dump (R291). -/
def Gn.arbHeld (g : Gn) (a : Nat) : Bool := g.flag (F.arb_frz a) || g.rg F.hgDump_state == 1

/-- An access that R317 denies to a virtual function: counted, the first one recorded. -/
def Gn.deny (g : Gn) (fn off : Nat) : Gn :=
  let g := g.inc F.scDeny_count
  if g.flag F.scDeny_valid then g else ((g.put F.scDeny_valid true).wr F.scDeny_fn fn).wr F.scDeny_addr off

/-- Put something out. -/
def Gn.emitOut (g : Gn) (o : Out) : Gn := { g with out := g.out ++ [o] }

/-- Key of an MSI-X table word or of the PBA (word 0x800) of a function. -/
def msixKey (fn w : Nat) : Nat := fn * 4096 + w

/-- A vector's mask bit. -/
def Gn.msixMasked (g : Gn) (fn vec : Nat) : Bool := SMap.get msixDefault g.msix (msixKey fn (vec * 16 + 12)) % 2 != 0

/-- Send a vector's message: nothing in the safe state or Off (R301); pending while masked (R346, PCIe 6.0). -/
def Gn.sendVec (g : Gn) (fn vec : Nat) : Gn :=
  if !g.alive then g
  else if g.msixMasked fn vec then
    { g with msix := SMap.set msixDefault g.msix (msixKey fn 0x800) (SMap.get msixDefault g.msix (msixKey fn 0x800) ||| 2 ^ vec) }
  else g.emitOut (.msix fn vec)

/-- Vectors 4 and 5 follow a level (R346): one message when it becomes true, another when `again` while it stays true. -/
def Gn.level (g : Gn) (fn vec : Nat) (lvl again : Bool) : Gn :=
  let key := fn * 8 + vec
  let was := g.hq.levels.contains key
  let set := if was then g.hq.levels else g.hq.levels ++ [key]
  let clr := g.hq.levels.filter (fun k => k != key)
  let g1 := { g with hq := { g.hq with levels := if lvl then set else clr } }
  if lvl && (!was || again) then g1.sendVec fn vec else g1

/-- Mask of stalled monitors (HG_STAT.mon_stalled). -/
def Gn.monStalled (g : Gn) : Nat := maskOf ((List.range 32).filter (fun n => g.flag (F.hgMon_stalled n)))

/-- GN_ID_ALARM bits [3:0], whose OR is the level of vector 5 (R346, R360). -/
def Gn.alarm4 (g : Gn) : Nat :=
  b2n ((List.range 32).any (fun n => g.flag (F.hgMon_stalled n) && decide (1 ≤ g.rg (F.hgMon_act n))))
  + 2 * b2n (g.flag F.hgBeat_hwWdFired) + 4 * b2n (g.flag F.evStat_fxFull) + 8 * b2n (g.flag F.hlJob_alarm)

/-- Vector 5 of the physical function. -/
def Gn.vec5 (g : Gn) (again : Bool) : Gn := g.level 0 5 (g.alarm4 != 0) again

/-- Put a record into a producer's outbox (R264): 16 entries, 2 of them kept for severities 6 and 7; else it is dropped and counted, and the loss
of a fatal or safety record sets `fx_full` with its interrupt (R279). It waits for the event-ring arbiter (R201). -/
def Gn.submit (g : Gn) (prod : Nat) (it : RecItem) : Gn :=
  let mine := g.ev.outbox.filter (fun e => e.1 == prod)
  let low := mine.filter (fun e => decide (e.2.r.sev < 6))
  if mine.length < 16 ∧ (6 ≤ it.r.sev ∨ low.length < 14) then ({ g with ev := { g.ev with outbox := g.ev.outbox ++ [(prod, it)] } } : Gn).raiseReq 131 prod
  else if 6 ≤ it.r.sev then ((g.inc (F.evCnt_drop it.r.sev)).put F.evStat_fxFull true).vec5 false
  else g.inc (F.evCnt_drop it.r.sev)

/-- Time quality of this node's own stamps (R166, R181). -/
def Gn.tq (g : Gn) : Nat := g.rg F.tmStat_tq

/-- A fixed-size record stamped now (R258). -/
def Gn.mkRec (g : Gn) (code sev source p0 p1 p2 p3 : Nat) : RecIn :=
  { ht := g.now, code := code, sev := sev, tq := g.tq, rep := 0, source := BitVec.ofNat 32 source, p0 := BitVec.ofNat 32 p0,
    p1 := BitVec.ofNat 32 p1, p2 := BitVec.ofNat 32 p2, p3 := BitVec.ofNat 32 p3 }

/-- Write a record of this module with studio tag 0 (R319). -/
def Gn.record (g : Gn) (prod code sev source p0 p1 p2 p3 : Nat) : Gn :=
  g.submit prod { r := g.mkRec code sev source p0 p1 p2 p3, studio := 0, rank := 0x1FFFF, var := none }

/-- Write a record whose source names a rank: it takes the rank's studio (R319). -/
def Gn.recordRank (g : Gn) (prod code sev source rank p0 p1 p2 p3 : Nat) : Gn :=
  g.submit prod { r := g.mkRec code sev source p0 p1 p2 p3, studio := g.studioOf rank, rank := 0x1FFFF, var := none }

/-- Producer indices of the event-ring arbiter (R201). -/
def prodIngest : Nat := 16
def prodProof : Nat := 17
def prodLinks : Nat := 18
def prodTime : Nat := 19
def prodSeq : Nat := 20
def prodCore : Nat := 21

/-- Low and high words of a 64-bit value. -/
def lo32 (v : Nat) : Nat := v % 2 ^ 32
def hi32 (v : Nat) : Nat := v / 2 ^ 32 % 2 ^ 32

/-- A severity asserts the interrupt when its bit is set (R270). -/
def Gn.sevIrq (g : Gn) (s : Nat) : Bool := decide (g.rg F.evCfg_irqSev ≤ s) || decide (6 ≤ s)

/-- Vector 4 of a function: the condition of R270, for a virtual function over the records tagged with its number (R346). -/
def Gn.vec4 (g : Gn) (fn : Nat) (again : Bool) : Gn :=
  let n := if fn = 0 then g.rg F.evNew_newsev else SMap.get (fun _ => 0) g.ev.vfNew fn &&& g.rg F.evNew_newsev
  g.level fn 4 ((List.range 8).any (fun s => n.testBit s && g.sevIrq s)) again

/-! ### Completions (R337, R343, R346) -/

/-- State of one completion ring. -/
def Gn.cq (g : Gn) (fn q : Nat) : CqSt := SMap.get (fun _ => CqSt.empty) g.hq.cq (fn * 4 + q)

def Gn.setCq (g : Gn) (fn q : Nat) (x : CqSt) : Gn :=
  { g with hq := { g.hq with cq := SMap.set (fun _ => CqSt.empty) g.hq.cq (fn * 4 + q) x } }

/-- Entries on their way to a CQ that wait for the host-DMA arbiter (R201, R202). -/
def Gn.cqWait (g : Gn) (fn q : Nat) : Nat := (g.hq.dma.filter (fun e => e.1 == fn && (match e.2 with | .cqe k _ => k == q | _ => false))).length

/-- Entries free in a CQ, counted from the head read at the last poll (R337). -/
def Gn.cqFree (g : Gn) (fn q : Nat) : Nat :=
  2 ^ g.rg (F.hqCq_lg fn q) - (g.rg (F.hqCqs_tail fn q) + 2 ^ 32 - (g.cq fn q).head) % 2 ^ 32 - g.cqWait fn q

/-- Completions owed to descriptors fetched from an SQ. -/
def Gn.owedOf (g : Gn) (fn q : Nat) : List Owed := g.hq.owed.filter (fun o => o.fn == fn && o.d.sq == q)

/-- Where the values of a result lie in bytes 16 to 31, as (offset from 16, bytes) (R344). -/
def resultLayout (op status : Nat) : List (Nat × Nat) :=
  if status = 4 then [(0, 2), (4, 4)]
  else match op with
    | 0x04 => [(0, 1)]
    | 0x06 => [(0, 1)]
    | 0x08 => [(0, 4), (4, 1)]
    | 0x0C => [(0, 8), (8, 1), (9, 1)]
    | 0x0D => [(0, 1), (1, 1), (2, 1), (4, 4), (8, 4)]
    | 0x0F => [(0, 4), (4, 4), (8, 4), (12, 4)]
    | 0x18 => [(0, 4)]
    | 0x19 => [(0, 4)]
    | 0x1A => [(0, 4)]
    | 0x1B => [(0, 8)]
    | 0x30 => [(0, 1), (1, 1), (2, 2), (4, 4), (8, 4), (12, 2)]
    | 0x31 => [(0, 1), (1, 1), (2, 2), (4, 4), (8, 4), (12, 4)]
    | 0x32 => [(0, 4), (4, 2), (6, 1), (8, 4), (12, 4)]
    | 0x33 => [(0, 2), (2, 2), (4, 1)]
    | 0x34 => [(0, 2), (2, 2), (4, 2), (6, 1)]
    | 0x35 => [(0, 2), (2, 2), (4, 1)]
    | _ => []

/-- A completion entry's 32 bytes (R343). -/
def Cqe.bytes (e : Cqe) : List Byte :=
  leBytes 4 e.tag ++ leBytes 1 (e.op % 128 + 128 * b2n e.phase) ++ leBytes 1 (e.status % 16 + 16 * b2n e.unsol) ++ leBytes 2 e.sqHead ++ leBytes 8 e.ht
    ++ leBytes 16 (((resultLayout e.op e.status).zip e.result).map (fun x => x.2 % 256 ^ x.1.2 * 256 ^ x.1.1)).sum

/-- One entry reaches a CQ (R335, R343): its slot and host address, phase, SQ head (at the fetch of its descriptor; as it stands for an unsolicited entry), tail, and the vector's message when `ic_n` entries stand unsignalled (R346). -/
def Gn.putCqe (g : Gn) (fn q : Nat) (e : Cqe) : Gn :=
  let c := g.cq fn q
  let tail := g.rg (F.hqCqs_tail fn q)
  let slot := tail % 2 ^ g.rg (F.hqCq_lg fn q)
  let head := if e.unsol then g.rg (F.hqSqs_head fn q) % 2 ^ 16 else e.sqHead
  let g := g.emitOut (.cqe fn q slot (4096 * g.rg (F.hqCq_base fn q) + 32 * slot) { e with phase := c.phase, sqHead := head }.bytes)
  let g := g.wr (F.hqCqs_tail fn q) (tail + 1)
  let ph := if (tail + 1) % 2 ^ g.rg (F.hqCq_lg fn q) = 0 then !c.phase else c.phase
  let n := c.unsig + 1
  if g.rg (F.hqImod_icN fn q) ≤ n then (g.setCq fn q { c with phase := ph, unsig := 0 }).sendVec fn q
  else g.setCq fn q { c with phase := ph, unsig := n }

/-- What a function's host DMA does with a grant. -/
def Gn.dmaDo (g : Gn) (fn : Nat) : DmaOp → Gn
  | .cqe q e => g.putCqe fn q e
  | .write a b => g.emitOut (.host fn a b)
  | .read a n => g.emitOut (.hostRead fn a n)

/-- The host-DMA arbiter makes one grant (R201): the oldest access waiting of the function granted is made. Requesters are the functions with accesses
waiting and those in `reqs`. -/
def Gn.dmaGrant (g : Gn) (reqs : List Nat) : Gn :=
  match g.arbitrate 128 (reqs ++ g.hq.dma.map (·.1)) with
  | (g, none) => g
  | (g, some fn) => match g.hq.dma.find? (fun e => e.1 == fn) with
    | none => g
    | some e => ({ g with hq := { g.hq with dma := g.hq.dma.erase e } } : Gn).dmaDo e.1 e.2

/-- Host DMA for a function: it waits behind what waits, and goes with the next grants; while the arbiter is frozen it waits (R201, R202). -/
def Gn.dmaPush (g : Gn) (fn : Nat) (os : List DmaOp) : Gn :=
  let g := ({ g with hq := { g.hq with dma := g.hq.dma ++ os.map (fun o => (fn, o)) } } : Gn).raiseReq 128 fn
  forEach g.hq.dma (fun _ g => g.dmaGrant []) g

/-- Write one entry to a CQ. -/
def Gn.writeCqe (g : Gn) (fn q : Nat) (e : Cqe) : Gn := g.dmaPush fn [.cqe q e]

/-- Write bytes to host memory, a TLP of up to 512 bytes a grant (R201). -/
def Gn.hostPut (g : Gn) (fn addr : Nat) (b : List Byte) : Gn :=
  g.dmaPush fn ((List.range (ceilDiv b.length 512)).map (fun i => .write (addr + 512 * i) ((b.drop (512 * i)).take 512)))

/-- A ring serves: enabled, and not stopped by an error since (R338). -/
def Gn.sqOn (g : Gn) (fn q : Nat) : Bool := g.flag (F.hqSq_en fn q) && !g.hq.stopped.contains (fn * 8 + q)
def Gn.cqOn (g : Gn) (fn q : Nat) : Bool := g.flag (F.hqCq_en fn q) && !g.hq.stopped.contains (fn * 8 + 4 + q)

/-- An unsolicited entry (R337): the free entries that remain, else the holdback of 256, else dropped and counted. A ring out of use has no free
entry. -/
def Gn.unsolicited (g : Gn) (fn q op ht : Nat) (result : List Nat) : Gn :=
  let e : Cqe := { tag := 0, op := op, phase := true, status := 0, unsol := true, sqHead := 0, ht := ht, result := result }
  let c := g.cq fn q
  if c.hold = [] ∧ g.cqOn fn q ∧ (g.owedOf fn q).length < g.cqFree fn q then g.writeCqe fn q e
  else if c.hold.length < 256 then g.setCq fn q { c with hold := c.hold ++ [e] }
  else
    let g := g.inc (F.hqCqs_cqOvf fn q)
    { g with hq := { g.hq with ovfPend := if g.hq.ovfPend.contains (fn * 4 + q) then g.hq.ovfPend else g.hq.ovfPend ++ [fn * 4 + q] } }

/-- Remove the first element that satisfies a test. -/
def removeFirst {α : Type} (p : α → Bool) : List α → List α
  | [] => []
  | x :: xs => if p x then xs else x :: removeFirst p xs

/-- Replace the first entry that satisfies a test. -/
def updateFirst {α : Type} (p : α → Bool) (f : α → α) : List α → List α
  | [] => []
  | x :: xs => if p x then f x :: xs else x :: updateFirst p f xs

/-- Status codes of R341. -/
def stOk : Nat := 0
def stRefused : Nat := 1
def stDenied : Nat := 2
def stInvalid : Nat := 3
def stFailed : Nat := 4
def stCancelled : Nat := 5

/-- The descriptor a command names: function, queue, `op`, and the header as fetched. -/
def Owed.isIt (op : Nat) (h : DescHdr) (o : Owed) : Bool :=
  o.fn == h.fn && o.d.sq == h.sq && o.d.op == op && o.d.tag == h.tag && o.d.fence == h.fence && o.d.resv == h.resv && o.d.addr == h.addr

/-- The turn of a descriptor to start (R339, R342): the first of its SQ not started, and with `fence` the first not completed. -/
def Gn.nextTurn (g : Gn) (fn q : Nat) : Option Owed :=
  match (g.owedOf fn q).find? (fun o => !o.started) with
  | none => none
  | some o => if o.d.fence && (g.owedOf fn q).head? != some o then none else some o

/-- The entry of a descriptor is written where its CQ is served (R337, R338, R343). -/
def Gn.answerDesc (g : Gn) (o : Owed) (status ht : Nat) (result : List Nat) : Gn :=
  if g.cqOn o.fn o.d.sq then
    g.writeCqe o.fn o.d.sq
      { tag := o.d.tag.toNat, op := o.d.op, phase := true, status := status, unsol := false, sqHead := o.head % 2 ^ 16, ht := ht, result := result }
  else g

/-- Descriptors of a reserved `op` whose turn has come complete INVALID (R340, R341); `n` bounds them. -/
def Gn.reservedTurns (g : Gn) (fn q : Nat) : Nat → Gn
  | 0 => g
  | n + 1 => match g.nextTurn fn q with
    | none => g
    | some o =>
      if 0x1F ≤ o.d.op then
        (({ g with hq := { g.hq with owed := removeFirst (fun x => x == o) g.hq.owed } } : Gn).answerDesc o 3 g.now []).reservedTurns fn q n
      else g

/-- Reserved descriptors of an SQ whose turn has come. -/
def Gn.passReserved (g : Gn) (fn q : Nat) : Gn := g.reservedTurns fn q g.hq.owed.length

/-- Complete a descriptor: its entry is written when it is still owed one; it is owed none after, and what waited for it may follow. -/
def Gn.completeAt (g : Gn) (op : Nat) (h : DescHdr) (status ht : Nat) (result : List Nat) : Gn :=
  let is := fun o : Owed => o.isIt op h && o.started
  match g.hq.owed.find? is with
  | none => g
  | some o => (({ g with hq := { g.hq with owed := removeFirst is g.hq.owed } } : Gn).answerDesc o status ht result).passReserved h.fn h.sq

/-- Complete a descriptor now. -/
def Gn.complete (g : Gn) (op : Nat) (h : DescHdr) (status : Nat) (result : List Nat) : Gn := g.completeAt op h status g.now result

/-- A FAILED completion (R344): the record's code and the first failing index. -/
def Gn.failed (g : Gn) (op : Nat) (h : DescHdr) (code idx : Nat) : Gn := g.complete op h stFailed [code, idx]

/-- Fetch the descriptor at an SQ's head (R335, R336): its slot is read and copied, and it is owed a completion. -/
def Gn.fetchOne (g : Gn) (fn : Nat) (d : RawDesc) : Gn :=
  let head := g.rg (F.hqSqs_head fn d.sq)
  let g := g.dmaPush fn [.read (4096 * g.rg (F.hqSq_base fn d.sq) + 64 * (head % 2 ^ g.rg (F.hqSq_lg fn d.sq))) 64]
  let o : Owed := { fn := fn, d := d, head := (head + 1) % 2 ^ 32, started := false }
  let g := { g with hq := { g.hq with owed := g.hq.owed ++ [o] } }
  (((g.addWrap (F.hqSqs_head fn d.sq) 1).addWrap (F.hqSqs_fetched fn d.sq) 1).count 4 fn).passReserved fn d.sq

/-- A descriptor of an SQ may be fetched: both rings serve, and the free entries of the CQ exceed what is owed (R337); host DMA is not held (R202). -/
def Gn.canFetch (g : Gn) (fn q : Nat) : Bool :=
  g.flag (F.hqCtl_en fn) && g.sqOn fn q && g.cqOn fn q && decide ((g.owedOf fn q).length < g.cqFree fn q) && !g.arbHeld 128

/-- A descriptor command stands for the fetch of its descriptor, where that may be fetched, unless DOORBELL_POLL has fetched it (assumption log 7); the fields
of its body are then the command's operands. -/
def Gn.fetch (g : Gn) (op : Nat) (h : DescHdr) : Gn :=
  if g.hq.owed.any (fun o => o.isIt op h && !o.started) || !g.canFetch h.fn h.sq then g
  else g.fetchOne h.fn ⟨h.sq, op, h.tag, h.fence, h.resv, h.addr, []⟩

/-- The descriptor's turn has come. -/
def Gn.itsTurn (g : Gn) (op : Nat) (h : DescHdr) : Bool :=
  match g.nextTurn h.fn h.sq with
  | none => false
  | some o => o.isIt op h

/-- The descriptor starts, and a reserved one after it may follow. -/
def Gn.startDesc (g : Gn) (op : Nat) (h : DescHdr) : Gn :=
  let up := updateFirst (fun o : Owed => o.isIt op h && !o.started) (fun o => { o with started := true }) g.hq.owed
  ({ g with hq := { g.hq with owed := up } } : Gn).passReserved h.fn h.sq

/-- Where an operation may be posted (R340): by virtual functions too; in bring-up phases 5 and 6; in Sealed or Studio; in Maintenance. -/
structure OpRule where
  vf : Bool
  b : Bool
  s : Bool
  m : Bool
deriving DecidableEq, Repr

/-- The access state (R325). -/
def Gn.acc (g : Gn) : Nat := g.rg F.scStat_acc

/-- The States column admits the descriptor now (R340, R348): bring-up, Sealed or Studio, Maintenance (kept over a die warm reset). -/
def Gn.stateOk (g : Gn) (r : OpRule) : Bool :=
  let ph := g.rg F.buStat_phase
  let up := ph == 5 || ph == 6
  let mt := g.acc == 2 || g.sc.maint.isSome
  (r.b && up) || (r.s && ph == 7 && !mt) || (r.m && (ph == 7 || up) && mt)

/-- The descriptor's posting function is served: the physical function, or a virtual function whose studio is ENABLED or OPEN (R315). -/
def Gn.fnServed (g : Gn) (fn : Nat) : Bool := fn == 0 || g.studioSt fn != 0

/-- A power-state exit (R309): islands run again and each resume record is written (R168), all 16 at once through the clusters' own outboxes
(assumption log 8). -/
def Gn.wake (g : Gn) : Gn :=
  if g.rg F.pwState_pstate = 1 ∨ g.rg F.pwState_pstate = 2 then
    let g := g.wr F.pwState_pstate 0
    forEach (List.range 16) (fun i g =>
      if g.flag (F.pwIsl_gated i) then
        let isl := SMap.get (fun _ => (⟨64, false, 0, none⟩ : IslSt)) g.isls i
        let last := isl.stoppedAt.getD g.now
        let g := (g.put (F.pwIsl_gated i) false).wr (F.isl_lastGapNs i) (min (2 ^ 32 - 1) (g.now - last))
        let g := { g with isls := SMap.set (fun _ => (⟨64, false, 0, none⟩ : IslSt)) g.isls i { isl with stoppedAt := none } }
        g.record prodTime (Config.recCode 1).toNat 1 i (lo32 last) (hi32 last) (lo32 g.now) (hi32 g.now)
      else g) g
  else g

/-- Start a descriptor (R316, R339 to R342): fetched, waiting for its turn, denied, refused by its States column, or with a reserved
bit set; otherwise its operation runs. Each structure that `addr` names is read then: it is an operand of the command. -/
def Gn.desc (g : Gn) (op : Nat) (r : OpRule) (h : DescHdr) (body : Gn → Gn) : Gn :=
  if !g.alive || !g.fnServed h.fn || decide (4 ≤ h.sq) then g else
  let g := g.fetch op h
  if !g.itsTurn op h then g else
  let g := (g.startDesc op h).wake
  if h.fn != 0 && !r.vf then g.complete op h stDenied []
  else if !g.stateOk r then g.complete op h stRefused []
  else if h.resv then g.complete op h stInvalid []
  else body g

/-- The posting rules of R340's States column used most. -/
def ruleS : OpRule := ⟨false, false, true, false⟩
def ruleBSM : OpRule := ⟨false, true, true, true⟩
def ruleM : OpRule := ⟨false, false, false, true⟩

/-! ### Frames -/

/-- Class of an event record's frame: 1 at warning and above, else 3 (R188). -/
def recordClass (sev : Nat) : Nat := if 3 ≤ sev then 1 else 3

/-- Class of a frame type at a Ginath (R188, R206); that of event records depends on their severity. -/
def ginathClass (typ : Nat) : Nat :=
  if typ = 0x39 ∨ typ = 0x3A ∨ typ = 0x14 then 1
  else if typ = 0x30 ∨ typ = 0x31 ∨ typ = 0x32 then 2
  else 0

/-- What an unused shaper holds: no credit at hall time 0 (R198 states no start value; assumption log 8). -/
def shaperDefault (_ : Nat) : Shaper := { c := 0, last := 0 }

/-- A shaper in Restart mode whose empty queue receives a frame: no saved credit (R198). -/
def Gn.shaperWake (g : Gn) (q : Nat) : Gn :=
  if g.flag (F.lkShp_mode q) then
    let x := SMap.get shaperDefault g.lk.shapers q
    { g with lk := { g.lk with shapers := SMap.set shaperDefault g.lk.shapers q { c := min x.c 0, last := g.now } } }
  else g

/-- Beads of a frame: header, body and trailer in units of 64 bytes (R187). -/
def Frame.beads (f : Frame) : Nat := ceilDiv (20 + f.body.length) 64

/-- Zero bytes between body and trailer. -/
def Frame.pad (f : Frame) : Nat := 64 * f.beads - 20 - f.body.length

/-- The 16-byte header (R187). -/
def Frame.header (f : Frame) : List Byte :=
  leBytes 8 (f.stamp % 2 ^ 48 + f.typ % 256 * 2 ^ 48 + f.pad * 2 ^ 56 + b2n f.z * 2 ^ 62 + b2n f.more * 2 ^ 63)
    ++ leBytes 8 (f.beads - 1 + f.cls % 4 * 2 ^ 6 + f.studio % 16 * 2 ^ 8 + f.tq % 32 * 2 ^ 12 + f.src % 256 * 2 ^ 24 + f.seq % 2 ^ 16 * 2 ^ 32
      + f.seg % 256 * 2 ^ 48)

/-- A frame's bytes: header, body, `pad` zeros, the CRC-32C of all of them (R187). -/
def Frame.bytes (f : Frame) : List Byte :=
  let b := f.header ++ f.body ++ List.replicate f.pad 0
  b ++ leBytes 4 (crc32c b)

/-- A flit tag (R186). -/
def flitTag (stamp nb : Nat) (sof eof : Bool) (cls : Nat) : Nat :=
  let w := stamp % 2 ^ 48 + nb % 16 * 2 ^ 48 + b2n sof * 2 ^ 52 + b2n eof * 2 ^ 53 + cls % 4 * 2 ^ 54
  w + crc8 (leBytes 7 w) * 2 ^ 56

/-- The flits of a frame: as many beads in each as fit, 16 at most (R186). -/
def Frame.flits (f : Frame) : List (Nat × List Byte) :=
  let b := f.bytes
  let n := ceilDiv f.beads 16
  (List.range n).map (fun i =>
    let k := min 16 (f.beads - 16 * i)
    (flitTag f.stamp (k - 1) (i == 0) (i + 1 == n) f.cls, (b.drop (1024 * i)).take (64 * k)))

/-- The types that a port to a TC-2 collector carries (R234). -/
def tc2Type (typ : Nat) : Bool := decide (typ ≤ 3) || typ == 0x3F

/-- A shaper's credit now. In Restart mode credit rises only while the queue holds a frame, which it does when a frame asks. -/
def Gn.shaperNow (g : Gn) (q : Nat) : Int :=
  let x := SMap.get shaperDefault g.lk.shapers q
  min ((g.rg (F.lkShp_burst q) * 16 : Nat) : Int) (x.c + (g.rg (F.lkShp_rate q) * (g.now - x.last) / 1000 : Nat))

/-- A queue passes its shaper: unshaped, or credit not negative. -/
def Gn.shaperOk (g : Gn) (q : Nat) : Bool := !g.flag (F.lkShp_en q) || decide (0 ≤ g.shaperNow q)

def gateDefault (_ : Nat) : Gate := { ents := [], phase := 0 }

/-- Nanoseconds class x stays open from the start of a list, up to its first closed entry. -/
def openRun (x : Nat) : List (Nat × Nat) → Nat
  | [] => 0
  | (m, d) :: es => if x == 0 || m.testBit x then d * 8 + openRun x es else 0

/-- Nanoseconds class x stays open from an offset into a list; 0 when it is closed there. -/
def openFrom (x : Nat) : List (Nat × Nat) → Nat → Nat
  | [], _ => 0
  | (m, d) :: es, off =>
    if d * 8 ≤ off then openFrom x es (off - d * 8)
    else if x == 0 || m.testBit x then d * 8 - off + openRun x es else 0

/-- Cycle time of a list in ns. -/
def gateCycle (es : List (Nat × Nat)) : Nat := es.foldl (fun s e => s + e.2 * 8) 0

/-- Class x is open in every entry. -/
def alwaysOpen (x : Nat) (es : List (Nat × Nat)) : Bool := es.all (fun e => x == 0 || e.1.testBit x)

/-- The longest open span of class x, across the cycle boundary too. -/
def longestOpen (x : Nat) (es : List (Nat × Nat)) : Nat :=
  (List.range es.length).foldl (fun m i => max m (openRun x ((es ++ es).drop i))) 0

/-- The gate list in force at up (0) or foster (1); none while gates are off or the node's time is invalid. -/
def Gn.gateOn (g : Gn) (u : Nat) : Option Gate :=
  let x := SMap.get gateDefault g.lk.gates u
  if g.flag (F.lkGctl_en u) && g.timeValid && !x.ents.isEmpty then some x else none

/-- Wire bytes of a frame: beads and the tags of its flits. -/
def wireBytes (beads : Nat) : Nat := beads * 64 + ceilDiv beads 16 * 8

/-- A wire time of `bytes` at `lanes` lanes of 12.5 GB/s fits a span. -/
def fitsSpan (bytes lanes span : Nat) : Bool := decide (bytes * 2 ≤ span * 25 * lanes)

/-- A frame of a class may start now under the gates. -/
def Gn.gateOk (g : Gn) (u cls beads : Nat) : Bool :=
  match g.gateOn u with
  | none => true
  | some x =>
    let cyc := gateCycle x.ents
    alwaysOpen cls x.ents ||
      fitsSpan (wireBytes beads) (g.rg (F.lkStat_width (32 + u))) (openFrom cls (x.ents ++ x.ents) ((g.now + cyc - x.phase % cyc) % cyc))

/-- First frame of a class in a queue. -/
def headOf (cls : Nat) (q : List Frame) : Option Frame := q.find? (fun f => f.cls == cls)

/-- The port holds the credits a frame needs (R190). -/
def Port.hasCredit (x : Port) (f : Frame) : Bool := decide (f.beads ≤ x.cred.getD f.cls 0)

/-- The class queues 1 to 3 of up (0) or foster (1) that request: the head passes shaper, gates and link credits (R200); by requester index. -/
def Gn.upAsks (g : Gn) (u : Nat) : List Nat :=
  let x := g.port (32 + u)
  [0, 1, 2].filter (fun i => match headOf (i + 1) x.sendQ with
    | none => false
    | some f => x.hasCredit f && g.shaperOk (4 * u + i + 1) && g.gateOk u (i + 1) f.beads)

/-- Requests of up or foster are raised when a head can first start (R201): looked at whenever a frame is queued, credits come back, or the gates switch
(assumption log 8). -/
def Gn.noteAsks (g : Gn) (u : Nat) : Gn := forEach (g.upAsks u) (fun i g => g.raiseReq (129 + u) i) g

/-- Queue a frame on a port (R190): sent by FRAME_SEND. A port that is not UP takes no frame, and a TC-2 collector's only its types. -/
def Gn.queueFrame (g : Gn) (p : Nat) (f : Frame) : Gn :=
  if g.portUp p && (g.portUse p != useTc2 || tc2Type f.typ) then
    let x := g.port p
    let g := if (p = 32 ∨ p = 33) ∧ f.cls ≠ 0 ∧ !x.sendQ.any (fun e => e.cls == f.cls) then g.shaperWake (4 * (p - 32) + f.cls) else g
    let g := g.setPort p { x with sendQ := x.sendQ ++ [f] }
    if p = 32 ∨ p = 33 then g.noteAsks (p - 32) else g
  else g

/-- A port takes frames: UP, or in TIME for the link-start exchange (R184). -/
def Gn.portRx (g : Gn) (p : Nat) : Bool := g.portUp p || g.rg (F.lkStat_state p) == 4

/-- A frame built now: stamp and time quality of the module's time, source 0xFF, content of studio 0 (R166, R187). -/
def Gn.newFrame (g : Gn) (d : Dest) (typ : Nat) (body : List Byte) : Frame :=
  { dst := d, typ := typ, cls := ginathClass typ, stamp := g.now % 2 ^ 48, z := false, more := false, seg := 0, studio := 0, tq := g.tq, src := 0xFF,
    seq := 0, body := body }

/-- Queue a frame of one body on a port. -/
def Gn.sendPort (g : Gn) (p typ : Nat) (body : List Byte) : Gn := g.queueFrame p (g.newFrame (.port p) typ body)

/-- Bytes cut into bodies of at most 4,076 bytes; an empty item has one empty body (R189). -/
def bodies (b : List Byte) : List (List Byte) := (List.range (max 1 (ceilDiv b.length 4076))).map (fun i => (b.drop (4076 * i)).take 4076)

/-- Queue an item of a class on a port, segmented under R189; `z`: it is compressed. -/
def Gn.sendSegments (g : Gn) (p typ cls : Nat) (z : Bool) (b : List Byte) : Gn :=
  let bs := bodies b
  let f := { g.newFrame (.port p) typ [] with cls := cls }
  forEach bs.zipIdx (fun e g => g.queueFrame p { f with z := z, more := decide (e.2 + 1 < bs.length), seg := e.2, body := e.1 }) g

/-- Bodies of a register write and of a register read (R188). -/
def writeBody (off : Nat) (ws : List Nat) : List Byte := leBytes 2 off ++ leBytes 2 ws.length ++ ws.flatMap (leBytes 4)
def readBody (off n tag : Nat) : List Byte := leBytes 2 off ++ leBytes 2 n ++ leBytes 2 tag

/-- Down port of a die site in the topology (R350). -/
def Gn.sitePort (g : Gn) (s : Nat) : Nat := match g.rd.topo with | none => 0 | some t => match t.sites[s]? with | none => 0 | some e => e.port

/-- Queue a frame to a die site over its down port. -/
def Gn.sendSite (g : Gn) (s typ : Nat) (body : List Byte) : Gn :=
  if g.siteUp s then g.queueFrame (g.sitePort s) (g.newFrame (.site s) typ body) else g

/-- The tag of each die site whose studio is another one than in `g0` is rewritten (R155): a studio opened or closed, or the rank map switched. -/
def Gn.retag (g0 g : Gn) : Gn :=
  let tag := fun (x : Gn) (s : Nat) => x.studioOf (x.siteRank s)
  let new := (g.sites.map (fun s => (s, tag g s))).filter (fun e => e.2 != 0 && !g.sc.tags.contains e)
  let g := { g with sc := { g.sc with tags := g.sc.tags ++ new } }
  forEach (g.sites.filter (fun s => tag g0 s != tag g s)) (fun s (g : Gn) => g.sendSite s 0x05 (writeBody 0x3800 [tag g s])) g

/-- The port of the node's report path (R228): up, or foster. None while both are lost. -/
def Gn.reportPort (g : Gn) : Option Nat :=
  if g.rg F.rdStat_path = 0 then (if g.portUp 32 then some 32 else none)
  else if g.rg F.rdStat_path = 1 then (if g.portUp 33 then some 33 else none) else none

/-- Drop the oldest held summaries while the hold takes more than 64 MiB, and count them (R228); `n` bounds them. -/
def trimHeld : Nat → List Held → List Held × Nat
  | 0, l => (l, 0)
  | n + 1, l =>
    if (l.map Held.bytes).sum ≤ 2 ^ 26 || !l.any Held.isItem then (l, 0)
    else let r := trimHeld n (removeFirst Held.isItem l)
         (r.1, r.2 + 1)

/-- Hold a report while both ports are lost (R228). The hall root has no report path. -/
def Gn.holdReport (g : Gn) (h : Held) : Gn :=
  if g.isTop then g
  else
    let r := trimHeld (g.rd.hold.length + 1) (g.rd.hold ++ [h])
    ({ g with rd := { g.rd with hold := r.1 } }).addSat F.rdCnt_holdDrop r.2

/-- Send a frame on the report path; with both ports lost it is held (R228). -/
def Gn.sendReport (g : Gn) (typ : Nat) (body : List Byte) : Gn :=
  match g.reportPort with
  | some p => g.sendPort p typ body
  | none => g.holdReport (.report typ body)

end Sys2Proof.Machine
end

