-- ==== Sys2Proof/Machine/Recorder.lean ====
section
/-! DEFINITION. The event recorder (chapter 12): intake, fixed channel, coalescing, ring, flash log, flushes, and their commands. -/

namespace Sys2Proof.Machine

/-- Change the recorder's part. -/
def Gn.onEv (g : Gn) (f : EvSt → EvSt) : Gn := { g with ev := f g.ev }

/-- A record of severity `sev` tagged `tag` was stored: `newsev` and the interrupt of R270. -/
def Gn.stored (g : Gn) (sev tag : Nat) : Gn :=
  let g := (g.wr F.evNew_newsev (g.rg F.evNew_newsev ||| 2 ^ sev)).vec4 0 false
  if tag = 0 then g else
  let v := SMap.get (fun _ => 0) g.ev.vfNew tag ||| 2 ^ sev
  (g.onEv (fun e => { e with vfNew := SMap.set (fun _ => 0) e.vfNew tag v })).vec4 tag false

/-- A W1C write to `newsev` (R270, R346): the bits clear, and vectors whose level stays true send again. -/
def Gn.clearNew (g : Gn) (mask : Nat) : Gn :=
  let keep := fun v : Nat => v &&& (mask ^^^ 0xFF)
  let had := g.rg F.evNew_newsev &&& mask != 0
  let g := g.wr F.evNew_newsev (keep (g.rg F.evNew_newsev))
  let g := g.onEv (fun e => { e with vfNew := (e.vfNew.map (fun x => (x.1, keep x.2))).filter (fun x => x.2 != 0) })
  forEach (List.range 16) (fun fn g => g.vec4 fn had) g

/-- Store a fatal or safety record in the lowest free slot of the fixed channel (R264, R265). -/
def Gn.storeFixed (g : Gn) (r : RecIn) : Gn :=
  match (List.range 2048).find? (fun i => !g.ev.fx.any (fun x => x.slot == i)) with
  | none => ((g.inc (F.evCnt_drop r.sev)).put F.evStat_fxFull true).vec5 false
  | some i =>
    let c := i / 128
    let cs := if g.ev.chunks.contains c then g.ev.chunks else g.ev.chunks ++ [c]
    let x : FxSlot := ⟨i, { r with rep := 0 }, false⟩
    (g.onEv (fun e => { e with fx := e.fx ++ [x], chunks := cs })).stored r.sev 0

/-! ### The ring -/

/-- Key stream byte i of a confidential record (R321). -/
def keyByte (key : List Byte) (ht seq code i : Nat) : Byte :=
  (aes256 key (leBytes 8 ht ++ leBytes 2 seq ++ leBytes 2 code ++ leBytes 4 (i / 16))).getD (i % 16) 0

/-- Bytes 16 to len − 5 as stored: encrypted when a key is given. -/
def sealBody (key : Option (List Byte)) (ht seq code : Nat) (b : List Byte) : List Byte :=
  match key with
  | none => b
  | some k => b.zipIdx.map (fun e => e.1 ^^^ keyByte k ht seq code e.2)

/-- Session key under which a record tagged n is written: that of an OPEN studio (R321). -/
def Gn.tagKey (g : Gn) (n : Nat) : Option (List Byte) :=
  if n != 0 && g.studioSt n == 2 then (g.sc.keys.find? (fun e => e.1 == n)).map (·.2) else none

/-- The page-open record (R268). -/
def pageOpen (pidx pgno sev seq ht tq : Nat) : RingRec :=
  { len := 32, code := 0x0C00, sev := sev, tq := tq, fx := false, conf := false, seq := seq, ht := ht, studio := 0,
    body := leBytes 8 pgno ++ leBytes 2 pidx ++ leBytes 2 0 }

/-- Open a page at an index (R268): it becomes the newest page. -/
def Gn.openPage (g : Gn) (pidx sev : Nat) : Gn :=
  let r := pageOpen pidx (g.ev.pgno + 1) sev g.ev.seq g.now g.tq
  let n := g.ev.pgno + 1
  let pg : Page := ⟨pidx, n, sev, 32, false, [r], 0⟩
  g.onEv (fun e => { e with pages := e.pages ++ [pg], pgno := n, seq := (e.seq + 1) % 2 ^ 16 })

/-- The page of lowest `pgno` among those of severity at most sev (R269). -/
def reclaimable (ps : List Page) (sev : Nat) : Option Page :=
  ps.foldl (fun acc p => if p.sev ≤ sev then (match acc with
    | none => some p
    | some q => if p.pgno < q.pgno then some p else some q) else acc) none

/-- A new page for a record (R269): never opened, else reclaimed with its counts, else none. -/
def Gn.newPage (g : Gn) (sev : Nat) : Option Gn :=
  if g.ev.pages.length < 2048 then some (g.openPage g.ev.pages.length sev)
  else match reclaimable g.ev.pages sev with
    | none => none
    | some p =>
      let g := g.addSat (F.evCnt_pent p.sev) (p.recs.length - 1)
      let g := if p.flashed < p.recs.length then g.inc F.evFlash_unflashed else g
      some ((g.onEv (fun e => { e with pages := e.pages.filter (fun q => q.pgno != p.pgno) })).openPage p.pidx sev)

/-- Put a record into the ring (R260 to R262, R268, R269, R319, R321): `body` is bytes 16 to len − 5 in clear. -/
def Gn.ringPut (g : Gn) (code sev tq ht studio : Nat) (fx : Bool) (body : List Byte) : Gn :=
  let len := body.length + 20
  let fits := fun p : Page => p.sev == sev && !p.closed && decide (p.used + len ≤ 4096)
  let shut := fun p : Page => if p.sev == sev && !p.closed && decide (4096 < p.used + len) then { p with closed := true } else p
  let g1 := g.onEv (fun e => { e with pages := e.pages.map shut })
  let g2 := if g1.ev.pages.any fits then some g1 else g1.newPage sev
  match g2 with
  | none => g1.inc (F.evCnt_drop sev)
  | some g2 =>
    let seq := g2.ev.seq
    let key := g2.tagKey studio
    let r : RingRec := { len := len, code := code, sev := sev, tq := tq, fx := fx, conf := key.isSome, seq := seq, ht := ht,
                         studio := studio, body := sealBody key ht seq code body }
    let add := fun p : Page => if fits p then { p with used := p.used + len, recs := p.recs ++ [r] } else p
    let g3 := g2.onEv (fun e => { e with seq := (e.seq + 1) % 2 ^ 16, pages := e.pages.map add })
    (g3.count 6 0).stored sev studio

/-- Payload of a wrapped fixed-size record (R262). -/
def wrapBody (it : RecItem) (rep dtLast : Nat) : List Byte :=
  leBytes 4 it.r.source.toNat ++ leBytes 4 it.r.p0.toNat ++ leBytes 4 it.r.p1.toNat ++ leBytes 4 it.r.p2.toNat
  ++ leBytes 4 it.r.p3.toNat ++ leBytes 4 rep ++ leBytes 4 dtLast ++ leBytes 4 (it.rank + 2 ^ 17 * it.studio) ++ List.replicate 12 0

/-- Put a fixed-size record into the ring, wrapped. -/
def Gn.ringWrapped (g : Gn) (it : RecItem) (rep dtLast : Nat) : Gn :=
  g.ringPut it.r.code it.r.sev it.r.tq it.r.ht it.studio true (wrapBody it (min rep (2 ^ 32 - 1)) (min dtLast (2 ^ 32 - 1)))

/-- Pad a payload with zeros so that the record's length is a multiple of 16 (R260). -/
def padVar (b : List Byte) : List Byte := b ++ List.replicate ((16 - (b.length + 20) % 16) % 16) 0

/-! ### Coalescing (R266) -/

/-- An occurrence matches an entry. -/
def Coal.matches (c : Coal) (r : RecIn) : Bool :=
  c.it.r.code == r.code && c.it.r.source == r.source && decide (c.it.r.ht ≤ r.ht) && decide (r.ht < c.it.r.ht + 1000000)

/-- Flush one entry into the ring. -/
def Gn.flushCoal (g : Gn) (c : Coal) : Gn :=
  (g.onEv (fun e => { e with coal := removeFirst (fun x => x == c) e.coal })).ringWrapped c.it c.rep c.dtLast

/-- The entry with the oldest `ht`, the lower `source` on a tie. -/
def oldestCoal (cs : List Coal) : Option Coal :=
  cs.foldl (fun acc c => match acc with
    | none => some c
    | some o => if c.it.r.ht < o.it.r.ht ∨ (c.it.r.ht = o.it.r.ht ∧ c.it.r.source.toNat < o.it.r.source.toNat) then some c else some o) none

/-- The coalescing stage for one occurrence. -/
def Gn.coalesce (g : Gn) (it : RecItem) : Gn :=
  if g.ev.coal.any (fun c => c.matches it.r) then
    let upd := fun c : Coal => { c with rep := c.rep + 1 + it.r.rep, dtLast := it.r.ht - c.it.r.ht }
    let g1 := g.onEv (fun e => { e with coal := updateFirst (fun c => c.matches it.r) upd e.coal })
    g1.addWrap F.evCoal_coal (1 + it.r.rep)
  else
    let g := if g.ev.coal.length < 64 then g else
      match oldestCoal g.ev.coal with
      | none => g
      | some c => (g.flushCoal c).inc F.evCoal_early
    g.onEv (fun e => { e with coal := e.coal ++ [⟨it, it.r.rep, 0⟩] })

/-- Intake of one record (R263 to R266, R275 step 1); the UART carries severity error and above (R369). -/
def Gn.intake (g : Gn) (prod : Nat) (it : RecItem) : Gn :=
  let g := if 4 ≤ it.r.sev then g.emitOut (.uart 1 it.r.code) else g
  if 6 ≤ it.r.sev then
    match it.var with
    | none => g.storeFixed it.r
    | some b =>
      let w := fun i => BitVec.ofNat 32 (u32 b i)
      let head : RecIn := { it.r with source := 0, p0 := w 0, p1 := w 4, p2 := w 8, p3 := w 12 }
      let src := BitVec.ofNat 32 (it.r.code + 2 ^ 16 * ((padVar b).length + 20))
      let cut : RecIn := { it.r with code := 0x0C05, sev := 6, p0 := BitVec.ofNat 32 prod, p1 := 0, p2 := 0, p3 := 0, source := src }
      (g.storeFixed head).storeFixed cut
  else if g.ev.stopped then
    (g.inc (F.evCnt_drop it.r.sev)).onEv (fun e => { e with stopDrops := e.stopDrops + 1 })
  else match it.var with
    | some b => g.ringPut it.r.code it.r.sev it.r.tq it.r.ht it.studio false (padVar b)
    | none =>
      if g.flag F.evCfg_coalEn && g.ev.coalCodes.contains it.r.code then g.coalesce it
      else g.ringWrapped it it.r.rep 0

/-- The recorder can take a record in: in Deep idle the ring has no power, and only the fixed channel runs (R309, R310); the others
wait in the outboxes (assumption log 8). -/
def Gn.canTake (g : Gn) (e : Nat × RecItem) : Bool := g.rg F.pwState_pstate != 2 || decide (6 ≤ e.2.r.sev)

/-- The event-ring arbiter makes one grant (R201, R264): the oldest record of the producer granted that can be taken in enters the recorder. Requesters are the
producers with such records waiting and those in `reqs`. -/
def Gn.recordGrant (g : Gn) (reqs : List Nat) : Gn × Option Nat :=
  match g.arbitrate 131 (reqs ++ (g.ev.outbox.filter g.canTake).map (·.1)) with
  | (g, none) => (g, none)
  | (g, some prod) => match g.ev.outbox.find? (fun e => e.1 == prod && g.canTake e) with
    | none => (g, some prod)
    | some e => ((g.onEv (fun x => { x with outbox := removeFirst (fun y => y.1 == prod && g.canTake y) x.outbox })).intake prod e.2, some prod)

/-- Grants are made until a producer has had one; `n` bounds them. -/
def Gn.grantUntil (g : Gn) (prod : Nat) : Nat → Gn
  | 0 => g
  | n + 1 => match g.recordGrant [] with
    | (g, none) => g
    | (g, some p) => if p = prod then g else g.grantUntil prod n

/-- Take the oldest record of a producer's outbox into the recorder: grants are made until it has one, at most 24 others before it (R201). Nothing is granted while
the arbiter is frozen (R202). -/
def Gn.recordSubmit (g : Gn) (prod : Nat) : Gn := if g.ev.outbox.any (fun e => e.1 == prod) then g.grantUntil prod 25 else g

/-- The recorder takes in everything that waits in the outboxes, one record an arbitration (R264): for records that one command writes at once. -/
def Gn.recordDrain (g : Gn) : Gn :=
  forEach g.ev.outbox (fun e g => g.intake e.1 e.2) (g.onEv (fun e => { e with outbox := [] }))

/-- Flush the coalescing entries whose `ht` + 1 ms has come (R266). -/
def Gn.coalesceDue (g : Gn) : Gn :=
  if g.ev.stopped then g else
  forEach (g.ev.coal.filter (fun c => decide (c.it.r.ht + 1000000 ≤ g.now))) (fun c g => g.flushCoal c) g

/-! ### Flash (R265, R273 to R276) -/

/-- Write a page at the log's position, erasing one 256 KiB unit ahead (R273). -/
def Gn.flashPage (g : Gn) (p : FlashPg) : Gn :=
  let n := g.ev.flashN % 262144
  let gone := fun (e : Nat × FlashPg) => e.1 == n || (n % 64 == 0 && e.1 / 64 == (n / 64 + 1) % 4096)
  g.onEv (fun e => { e with flash := e.flash.filter (fun x => !gone x) ++ [(n, p)], flashN := e.flashN + 1 })

/-- Write one fixed chunk (R265). -/
def Gn.flashChunk (g : Gn) (c : Nat) : Gn :=
  let inC := fun x : FxSlot => x.slot / 128 == c
  let g1 := g.flashPage { kind := 2, sub := c, pidx := 0, pgno := g.ev.pgno, ht := g.now, recs := [], slots := g.ev.fx.filter inC }
  let done := fun x : FxSlot => if inC x then { x with inFlash := true } else x
  g1.onEv (fun e => { e with chunks := e.chunks.filter (fun x => x != c), fx := e.fx.map done })

/-- A page holds records not yet in flash. -/
def Page.dirty (p : Page) : Bool := decide (p.flashed < p.recs.length)

/-- Write one ring page (R274). -/
def Gn.flashRing (g : Gn) (p : Page) : Gn :=
  let g1 := g.flashPage { kind := 1, sub := p.sev, pidx := p.pidx, pgno := p.pgno, ht := g.now, recs := p.recs, slots := [] }
  let done := fun q : Page => if q.pgno == p.pgno then { q with flashed := q.recs.length } else q
  g1.onEv (fun e => { e with pages := e.pages.map done })

/-- Write the changed chunk of lowest index. -/
def Gn.fixedChunkFlash (g : Gn) : Gn :=
  match (List.range 16).find? (fun c => g.ev.chunks.contains c) with
  | none => g
  | some c => g.flashChunk c

/-- The closed dirty page of lowest `pgno`. -/
def oldestClosed (ps : List Page) : Option Page :=
  ps.foldl (fun acc p => if p.closed && p.dirty then (match acc with
    | none => some p
    | some q => if p.pgno < q.pgno then some p else some q) else acc) none

/-- The changed chunks, which go before any ring page (R274). -/
def Gn.flashChunks (g : Gn) : Gn := forEach ((List.range 16).filter (fun c => g.ev.chunks.contains c)) (fun c g => g.flashChunk c) g

/-- The oldest closed page, after the changed chunks. -/
def Gn.ringPageFlash (g : Gn) : Gn :=
  let g := g.flashChunks
  match oldestClosed g.ev.pages with
  | none => g
  | some p => g.flashRing p

/-- Open pages whose oldest unwritten record is older than `age_ms`, after the changed chunks and the closed pages (R274). -/
def Gn.ringAgeFlash (g : Gn) : Gn :=
  let g := forEach ((g.ev.pages.filter (fun p => p.closed && p.dirty)).mergeSort (fun a b => decide (a.pgno ≤ b.pgno))) (fun p g => g.flashRing p) g.flashChunks
  let due := g.ev.pages.filter (fun p => !p.closed && p.dirty && (match p.recs[p.flashed]? with
    | none => false
    | some r => decide (r.ht + g.rg F.evCfg_ageMs * 1000000 < g.now)))
  forEach due (fun p g => g.flashRing p) g

/-- Free a fixed slot whose record is in flash (R265); its chunk has changed. -/
def Gn.fxack (g : Gn) (slot : Nat) : Gn :=
  if g.ev.fx.any (fun x => x.slot == slot && x.inFlash) then
    let cs := if g.ev.chunks.contains (slot / 128) then g.ev.chunks else g.ev.chunks ++ [slot / 128]
    g.onEv (fun e => { e with fx := e.fx.filter (fun x => x.slot != slot), chunks := cs })
  else g

/-- Dirty pages in flush order: descending severity, then descending `pgno` (R275 step 4). -/
def flushOrder (ps : List Page) : List Page :=
  (ps.filter Page.dirty).mergeSort (fun a b => decide (b.sev < a.sev) || (a.sev == b.sev && decide (b.pgno ≤ a.pgno)))

/-- Steps 1 and 2 of R275. -/
def Gn.flushIntake (g : Gn) : Gn :=
  let g := g.onEv (fun e => { e with stopped := true, stopDrops := 0, flush := none })
  forEach g.ev.coal (fun c g => g.flushCoal c) g

/-- Steps 3 and 4 of R275, with a limit on ring pages; what the marker needs stands in `flush`, added to what a flush that this one continues has written. -/
def Gn.flushPages (g : Gn) (limit : Option Nat) : Gn :=
  let t0 := g.now
  let was := g.ev.flash
  let wasN := g.ev.flashN
  let pages := (g.ev.flush.map (·.pages)).getD 0
  let done := (g.ev.flush.map (·.chunks)).getD 0
  let chunks := (List.range 16).filter (fun c => g.ev.chunks.contains c)
  let g := g.flashChunks
  let order := flushOrder g.ev.pages
  let now := match limit with | none => order | some n => order.take n
  let g := forEach now (fun p g => g.flashRing p) g
  g.onEv (fun e => { e with flush := some ⟨t0, pages + now.length, order.length - now.length, done + chunks.length, was, wasN⟩ })

/-- Steps 1 to 4 of R275. -/
def Gn.flushSteps (g : Gn) (limit : Option Nat) : Gn := g.flushIntake.flushPages limit

/-- Time to transfer one 4 KiB page at 2.0 GB/s, and from there until it is durable (R273). -/
def pageNs : Nat := 2048
def durableNs : Nat := 250000

/-- The flash log as it was, with the first `n` of the pages written since. -/
def Gn.logBack (g : Gn) (was : List (Nat × FlashPg)) (wasN n : Nat) : Gn :=
  let new := g.ev.flash.drop (g.ev.flash.length - (g.ev.flashN - wasN))
  forEach (new.take n) (fun e g => g.flashPage e.2) (g.onEv (fun e => { e with flash := was, flashN := wasN }))

/-- The flush in progress stops: the pages already durable stay, and no marker is written (R275, R313). -/
def Gn.flushCut (g : Gn) : Gn :=
  match g.ev.flush with
  | none => g
  | some f => (g.logBack f.was f.wasN ((g.now - f.ht - durableNs) / pageNs)).onEv (fun e => { e with flush := none })

/-- Pages that a flush of R276 has transferred by a hall time. -/
def Turn.took (t : Turn) (now : Nat) : Nat := (now + t.base - t.ht) / pageNs

/-- A flush of R276 still runs: its pages and its marker have not all been transferred. -/
def Gn.turning (g : Gn) : Bool := match g.ev.turn with | some t => decide (t.took g.now < t.n) | none => false

/-- A thermal trip stops a flush of R276 that still runs. -/
def Gn.turnCut (g : Gn) : Gn :=
  match g.ev.turn with
  | some t => if g.turning then g.logBack t.flash t.flashN ((g.now + t.base - t.ht - durableNs) / pageNs) else g
  | none => g

/-- PFAIL_N during a flush of R276: the recorder as that flush had it, with the writes done that it has reached, fixed chunks first. The reset behind the flush has not
happened. -/
def Gn.turnBack (g : Gn) : Gn :=
  match g.ev.turn with
  | none => g
  | some t =>
    let k := t.took g.now
    let g := (g.wr F.evFlash_flushes t.flushes).wr F.ckStat_act t.act
    let g := { g with lastRst := t.lastRst, tm := { g.tm with fix := g.tm.fix + t.base * nsFix } }
    let g := g.onEv (fun e => { e with pages := t.pages, fx := t.fx, chunks := t.chunks, coal := [], flash := t.flash, flashN := t.flashN, pgno := t.pgno, seq := t.seq,
                                       outbox := [], stopped := true, stopDrops := 0, turn := none })
    let chunks := ((List.range 16).filter (fun c => g.ev.chunks.contains c)).take k
    let pages := (flushOrder g.ev.pages).take (k - chunks.length)
    let g := forEach pages (fun p g => g.flashRing p) (forEach chunks (fun c g => g.flashChunk c) g)
    g.onEv (fun e => { e with flush := some ⟨t.ht, pages.length, 0, chunks.length, t.flash, t.flashN⟩ })

/-- A marker page (R275 step 6, R276): a wrapped record in an otherwise zero page. -/
def Gn.marker (g : Gn) (code ht dtLast source p0 p1 p2 p3 : Nat) : Gn :=
  let it : RecItem :=
    { r := { g.mkRec code 2 source p0 p1 p2 p3 with ht := ht }, studio := 0, rank := 0x1FFFF, var := none }
  let r : RingRec := { len := 64, code := code, sev := 2, tq := g.tq, fx := true, conf := false, seq := g.ev.seq, ht := ht, studio := 0,
                       body := wrapBody it 0 dtLast }
  g.flashPage { kind := 3, sub := 0, pidx := 0, pgno := g.ev.pgno, ht := g.now, recs := [r], slots := [] }

/-- A flush of R276 with its reset marker; `occasion` 1 die warm reset, 2 module cold reset, 3 Deep idle entry, 4 maintenance stop. -/
def Gn.resetFlush (g : Gn) (occasion : Nat) : Gn :=
  let g := g.flushIntake
  let t : Turn := { ht := g.now, base := 0, n := 0, pages := g.ev.pages, fx := g.ev.fx, chunks := g.ev.chunks, flash := g.ev.flash, flashN := g.ev.flashN,
                    pgno := g.ev.pgno, seq := g.ev.seq, lastRst := g.lastRst, act := g.rg F.ckStat_act, flushes := g.rg F.evFlash_flushes }
  let g := g.flushPages none
  match g.ev.flush with
  | none => g
  | some f =>
    let g := g.marker 0x0C01 f.ht 0 (g.rg F.evFlash_flushes) f.pages 0 f.chunks occasion
    g.onEv (fun e => { e with flush := none, stopped := false, turn := some { t with n := f.pages + f.chunks + 1 } })

/-! ### Meanings -/

/-- ARBITER_GRANT (R201): one arbitration; a grant of host DMA writes a completion entry that waits, one of the event ring takes in a record. -/
def Gn.arbiterGrant (g : Gn) (a : Nat) (reqs : List Nat) : Gn :=
  if a = 128 then g.dmaGrant reqs else if a = 131 then (g.recordGrant reqs).1 else (g.arbitrate a reqs).1

def execArbiterGrant (a : Nat) (reqs : List Nat) (s : State) : Host.Outcome State Fault Refusal := gnStep s (fun g => g.arbiterGrant a reqs)

/-- ARB_FREEZE (R202): no new grants from the next arbitration on; grants complete between commands, so `drained` follows `frz`. -/
def execArbFreeze (a : Nat) (s : State) : Host.Outcome State Fault Refusal := gnStep s (fun g => g.put (F.arb_frz a) true)

/-- COALESCE_FLUSH (R266). -/
def execCoalesceFlush (s : State) : Host.Outcome State Fault Refusal := gnStep s Gn.coalesceDue

/-- FIXED_CHUNK_FLASH (R265). -/
def execFixedChunkFlash (s : State) : Host.Outcome State Fault Refusal := gnStep s (fun g => if g.alive then g.fixedChunkFlash else g)

/-- RING_PAGE_FLASH (R274): in normal operation, neither in Flush nor in the safe state. -/
def execRingPageFlash (s : State) : Host.Outcome State Fault Refusal := gnStep s (fun g => if g.alive then g.ringPageFlash else g)

/-- RING_AGE_FLASH (R274). -/
def execRingAgeFlash (s : State) : Host.Outcome State Fault Refusal := gnStep s (fun g => if g.alive then g.ringAgeFlash else g)

/-- FXACK (R265). -/
def execFxack (slot : Nat) (s : State) : Host.Outcome State Fault Refusal := gnStep s (fun g => g.fxack slot)

end Sys2Proof.Machine
end

