-- ==== Sys2Proof/Machine/HostQ.lean ====
section
/-! DEFINITION. Host queues (chapter 16): polls and fetching, ring errors, ring disable, holdback, interrupt moderation, and NOP. -/

namespace Sys2Proof.Machine

/-- NOP completes at once (R340). -/
def execNop (h : DescHdr) (s : State) : Host.Outcome State Fault Refusal :=
  gnStep s (fun g => g.desc 0x00 ⟨true, true, true, true⟩ h (fun g => g.complete 0x00 h stOk []))

/-- A ring enters error: it stops, `err` is set, and warning record 0x1001 names the function (`p0`) and the ring (`p1`: 0 to 3 submission,
4 to 7 completion; the manual names no parameters, assumption log 12) (R338). -/
def Gn.ringError (g : Gn) (fn q : Nat) (isCq : Bool) : Gn :=
  let k := fn * 8 + (if isCq then 4 + q else q)
  let g := { g with hq := { g.hq with stopped := if g.hq.stopped.contains k then g.hq.stopped else g.hq.stopped ++ [k] } }
  if isCq then (g.put (F.hqCq_err fn q) true).record prodCore 0x1001 3 0 fn (4 + q) 0 0
  else (g.put (F.hqSq_err fn q) true).record prodCore 0x1001 3 0 fn q 0 0

/-- Head of CQ `q` as the driver wrote it, checked against the tail (R337, R338). -/
def Gn.pollCq (g : Gn) (fn q head : Nat) : Gn :=
  if !g.cqOn fn q then g
  else if (g.rg (F.hqCqs_tail fn q) + 2 ^ 32 - (g.cq fn q).head) % 2 ^ 32 < (head + 2 ^ 32 - (g.cq fn q).head) % 2 ^ 32 then
    g.ringError fn q true
  else g.setCq fn q { g.cq fn q with head := head }

/-- Fetch up to `n` new descriptors of SQ `q` in index order, each only while the free entries of its CQ exceed what is owed (R337). -/
def Gn.fetchRun (g : Gn) (fn q : Nat) : List RawDesc → Gn
  | [] => g
  | d :: ds => if g.canFetch fn q then (g.fetchOne fn d).fetchRun fn q ds else g

/-- Tail of SQ `q` as the driver wrote it: a tail too far ahead is a ring error (R338); else the new descriptors are fetched (R336). -/
def Gn.pollSq (g : Gn) (fn q tail : Nat) (descs : List RawDesc) : Gn :=
  if !g.sqOn fn q then g
  else
    let g := { g with hq := { g.hq with tails := SMap.set (fun _ => 0) g.hq.tails (fn * 4 + q) tail } }
    let ahead := (tail + 2 ^ 32 - g.rg (F.hqSqs_head fn q)) % 2 ^ 32
    if 2 ^ g.rg (F.hqSq_lg fn q) < ahead then g.ringError fn q false
    else if !g.cqOn fn q then g
    else g.fetchRun fn q ((descs.filter (fun d => d.sq == q)).take (min ahead 32))

/-- A poll of a function becomes pending; polls of one function merge (R336). -/
def Gn.pollPending (g : Gn) (fn : Nat) : Gn :=
  if g.hq.polls.contains fn then g else { g with hq := { g.hq with polls := g.hq.polls ++ [fn] } }

/-- DOORBELL_POLL of a function (R336): the 32 bytes at `db_addr` are read, the heads taken, then descriptors fetched from SQ 0 to 3. It stays pending while
the host-DMA arbiter makes no grant (R202). -/
def Gn.doorbellPoll (g : Gn) (fn : Nat) (tails heads : List Word32) (descs : List RawDesc) : Gn :=
  if !g.alive || !g.fnServed fn || !g.flag (F.hqCtl_en fn) then g
  else if g.arbHeld 128 then (g.pollPending fn).raiseReq 128 fn
  else
    let g := { g with hq := { g.hq with polls := g.hq.polls.filter (fun x => x != fn) } }
    let g := g.dmaPush fn [.read (32 * g.rg (F.hqDb_dbAddr fn)) 32]
    let g := forEach [0, 1, 2, 3] (fun q g => g.pollCq fn q (heads.getD q 0).toNat) g
    forEach [0, 1, 2, 3] (fun q g => g.pollSq fn q (tails.getD q 0).toNat descs) g

def execDoorbellPoll (fn : Nat) (tails heads : List Word32) (descs : List RawDesc) (s : State) : Host.Outcome State Fault Refusal :=
  gnStep s (fun g => g.doorbellPoll fn tails heads descs)

/-- NUDGE: a poll of the function becomes pending; nudges merge (R336). -/
def Gn.nudge (g : Gn) (fn : Nat) : Gn :=
  if !g.alive || !g.fnServed fn then g else g.pollPending fn

def execNudge (fn : Nat) (s : State) : Host.Outcome State Fault Refusal := gnStep s (fun g => g.nudge fn)

/-- Completions owed to a ring's descriptors are discarded, their actions run on (R335). -/
def Gn.dropOwed (g : Gn) (fn q : Nat) : Gn :=
  { g with hq := { g.hq with owed := g.hq.owed.filter (fun o => !(o.fn == fn && o.d.sq == q)) } }

/-- Entries on their way to a ring that is disabled are discarded. -/
def Gn.dropDma (g : Gn) (fn q : Nat) : Gn := { g with hq := { g.hq with dma := g.hq.dma.filter (fun e => !(e.1 == fn && (match e.2 with | .cqe k _ => k == q | _ => false))) } }

/-- A ring that an error stopped may serve again once its `en` is set again (R338). -/
def Gn.unstop (g : Gn) (k : Nat) : Gn := { g with hq := { g.hq with stopped := g.hq.stopped.filter (fun x => x != k) } }

/-- Clear `en` of a ring: the completions owed are discarded; reprogramming starts the indices and the phase again (R335, R338, R343; assumption log
14). -/
def Gn.ringDisable (g : Gn) (fn : Nat) (cq : Bool) (q : Nat) : Gn :=
  if cq then
    if g.flag (F.hqCq_en fn q) then
      let h := (((((g.dropOwed fn q).dropDma fn q).unstop (fn * 8 + 4 + q)).put (F.hqCq_en fn q) false).wr (F.hqCqs_tail fn q) 0)
      h.setCq fn q { g.cq fn q with head := 0, phase := true, unsig := 0 }
    else g
  else if g.flag (F.hqSq_en fn q) then (((g.dropOwed fn q).unstop (fn * 8 + q)).put (F.hqSq_en fn q) false).wr (F.hqSqs_head fn q) 0
  else g

def execRingDisable (fn : Nat) (cq : Bool) (q : Nat) (s : State) : Host.Outcome State Fault Refusal :=
  gnStep s (fun g => g.ringDisable fn cq q)

/-- HOLDBACK_DRAIN: held entries are written in order while entries are free beyond those owed (R337). -/
def Gn.drainHold (g : Gn) (fn q : Nat) : List Cqe → Gn
  | [] => g
  | e :: es =>
    if g.cqOn fn q && decide ((g.owedOf fn q).length < g.cqFree fn q) then
      ((g.setCq fn q { g.cq fn q with hold := es }).writeCqe fn q e).drainHold fn q es
    else g

def execHoldbackDrain (fn q : Nat) (s : State) : Host.Outcome State Fault Refusal :=
  gnStep s (fun g => g.drainHold fn q (g.cq fn q).hold)

/-- CQ_OVF_WARNING: warning 0x1003 for a CQ that has dropped entries since its last warning; `p0` is the function and `p1` the ring (the
manual names no parameters, assumption log 12) (R337). -/
def Gn.cqOvfWarning (g : Gn) (fn q : Nat) : Gn :=
  if g.hq.ovfPend.contains (fn * 4 + q) then
    let g := { g with hq := { g.hq with ovfPend := g.hq.ovfPend.filter (fun k => k != fn * 4 + q) } }
    g.record prodCore 0x1003 3 0 fn q 0 0
  else g

def execCqOvfWarning (fn q : Nat) (s : State) : Host.Outcome State Fault Refusal := gnStep s (fun g => g.cqOvfWarning fn q)

/-- IRQ_MODERATION_TIMER: `ic_us` after the first unsignalled entry the vector sends; with `ic_us` = 0 only the count applies (R346). -/
def Gn.irqTimer (g : Gn) (fn q : Nat) : Gn :=
  let c := g.cq fn q
  if g.rg (F.hqImod_icUs fn q) = 0 ∨ c.unsig = 0 then g
  else (g.setCq fn q { c with unsig := 0 }).sendVec fn q

def execIrqModerationTimer (fn q : Nat) (s : State) : Host.Outcome State Fault Refusal := gnStep s (fun g => g.irqTimer fn q)

end Sys2Proof.Machine
end

