-- ==== Sys2Proof/Machine/Time.lean ====
section
/-! DEFINITION. Hall time (chapter 08): the time units, exchanges, refreshes and steps, TIME_SET, and the watch over the cluster islands. -/

namespace Sys2Proof.Machine

/-! ### One time unit, Ginath's or the block's (R158, R161, R162) -/

/-- The most a cycle's increment may be changed: 100 ppm of it (R161). -/
def TimeSt.ppm100 (t : TimeSt) : Int := (t.inc / 10000 : Nat)

/-- Clamp to the range −m to m. -/
def clampI (m x : Int) : Int := max (-m) (min m x)

/-- One cycle (R158, R161): the held value rises by the increment, changed by at most 100 ppm while an offset is being slewed; during a
backward step it stands still until the source's time passes it. -/
def TimeSt.tick (t : TimeSt) : TimeSt :=
  match t.hold with
  | some src =>
    if t.fix < src + t.inc then { t with fix := src + t.inc, hold := none } else { t with hold := some (src + t.inc) }
  | none =>
    let adj := clampI t.ppm100 t.slew
    { t with fix := t.fix + ((t.inc : Int) + adj).toNat, slew := t.slew - adj }

/-- Apply an offset of `d` (2^-32 ns) as a step: forward by jumping, backward by holding the count (R161). -/
def TimeSt.stepBy (t : TimeSt) (d : Int) : TimeSt :=
  if 0 ≤ d then { t with fix := t.fix + d.toNat, slew := 0, hold := none }
  else { t with slew := 0, hold := some (t.fix - (-d).toNat) }

/-- One exchange (R162) with asymmetry `a` in ps. -/
def mkExch (link : Nat) (a : Int) (x : Xchg) : Exch :=
  let p : Int := (x.t2 : Int) - x.t1
  let q : Int := (x.t4 : Int) - x.t3
  { link := link, th2 := 1000 * (p - q) - a * 65536, d2 := p + q, rt := ((x.t4 : Int) - x.t1) - ((x.t3 : Int) - x.t2) }

/-- An offset 2θ in 1/65,536,000 ns as θ in 2^-32 ns, rounded down. -/
def thFix (th2 : Int) : Int := (th2 * 65536 / 2000)

/-- An offset 2θ in 1/65,536,000 ns as θ in 1/16 ns, saturating at ±2,048 ns (R181). -/
def thReg (th2 : Int) : Nat :=
  let v := max (-32768) (min 32767 (th2 * 16 / (2 * 65536000)))
  (if v < 0 then v + 65536 else v).toNat

/-- Exchanges of a link, lowest round trip first. -/
def TimeSt.exchs (t : TimeSt) (link : Nat) : List Exch :=
  (t.xs.filter (fun e => e.link == link)).mergeSort (fun a b => decide (a.rt ≤ b.rt))

/-- Forget a link's exchanges. -/
def TimeSt.drop (t : TimeSt) (link : Nat) : TimeSt :=
  { t with xs := t.xs.filter (fun e => e.link != link), reqs := t.reqs.filter (fun e => e.1 != link) }

/-- The held value in 1/65,536 ns, as time frames carry it. -/
def TimeSt.frac (t : TimeSt) : Nat := t.fix / 2 ^ 16

/-- A time request leaves on a link at t1 (R162): one is under way per link. -/
def TimeSt.requested (t : TimeSt) (link xid : Nat) : TimeSt := { t with reqs := t.reqs.filter (fun e => e.1 != link) ++ [(link, xid, t.frac)] }

/-- Add an exchange; 32 are the most any use needs (R162). -/
def TimeSt.addExch (t : TimeSt) (e : Exch) : TimeSt :=
  if 32 ≤ (t.xs.filter (fun x => x.link == e.link)).length then t else { t with xs := t.xs ++ [e] }

/-- A refresh's outcome over the exchanges of a link (R162): none with fewer than 8; θ × 2 and whether it is qualified. -/
def TimeSt.refresh (t : TimeSt) (link : Nat) : Option (Int × Bool) :=
  match t.exchs link with
  | [] => none
  | e :: es => if es.length + 1 < 8 then none
    else some (e.th2, decide (e.rt ≤ SMap.get (fun _ => (0 : Int)) t.dmins link + 20 * 65536))

/-- |θ| exceeds 20 ns. -/
def bigTh (th2 : Int) : Bool := decide (2 * 20 * 65536000 < th2) || decide (th2 < -(2 * 20 * 65536000))

/-- Apply a refresh of the source (R161): slew on a qualified small offset, and say whether misalignment is declared: a second consecutive
qualified large offset, or an eighth consecutive unqualified refresh. -/
def TimeSt.applyRefresh (t : TimeSt) (th2 : Int) (qual : Bool) : TimeSt × Bool :=
  if qual then
    if bigTh th2 then ({ t with unq := 0, offLim := t.offLim + 1 }, decide (2 ≤ t.offLim + 1))
    else
      let inc := (t.inc : Int) + clampI t.ppm100 (Config.freqTrim t.last th2)
      ({ t with unq := 0, offLim := 0, slew := thFix th2, last := th2, inc := inc.toNat }, false)
  else ({ t with unq := t.unq + 1 }, decide (8 ≤ t.unq + 1))

/-- Link start (R162): the mean 2θ and the mean 2d of the four exchanges of lowest round trip, and the smallest 2d of all; none with fewer than 32. -/
def TimeSt.linkStart (t : TimeSt) (link : Nat) : Option (Int × Int × Int) :=
  let es := t.exchs link
  if es.length < 32 then none
  else
    let th := (es.take 4).foldl (fun s e => s + e.th2) 0
    let d := (es.take 4).foldl (fun s e => s + e.d2) 0
    some (th / 4, d / 4, es.foldl (fun m e => min m e.d2) ((es.map (·.d2)).headD 0))

/-- Keep a link's delay and `dmin`, both as 2d (R162). -/
def TimeSt.keepDelay (t : TimeSt) (link : Nat) (mean dmin : Int) : TimeSt :=
  { t with dmins := SMap.set (fun _ => (0 : Int)) t.dmins link dmin, dmean := SMap.set (fun _ => (0 : Int)) t.dmean link mean }

/-! ### Time quality (R166, R167) -/

/-- The smallest uncertainty code that covers n nanoseconds. -/
def uncCode (n : Nat) : Nat :=
  if n ≤ 2 then 0 else if n ≤ 4 then 1 else if n ≤ 16 then 2 else if n ≤ 64 then 3 else if n ≤ 256 then 4
  else if n ≤ 1024 then 5 else if n ≤ 4096 then 6 else 7

/-- Bound in ns of an uncertainty code, with 0 for code 0 (R169); code 7 has none. -/
def uncBound (c : Nat) : Option Nat :=
  match c with
  | 0 => some 0
  | 1 => some 4
  | 2 => some 16
  | 3 => some 64
  | 4 => some 256
  | 5 => some 1024
  | 6 => some 4096
  | _ => none

/-- A `tq` whose bound covers `n` ns and the holdover's growth together (R163, R167). -/
def Gn.tqCovering (g : Gn) (n : Nat) : Nat :=
  let ms := match g.tm.holdSince with | none => 0 | some t => (g.now - t) / 1000000
  b2n (g.rg F.tmStat_src == 3) * 2 + (if g.timeValid then uncCode (n + ms) else 7) * 4

/-- The `tq` of the node's own stamps now: hold bit, and the code of the holdover's growth of 1 ns per ms, 7 while time is invalid (R161, R163). -/
def Gn.ownTq (g : Gn) : Nat := g.tqCovering 0

/-- Bring GN_TM_STAT's `tq` and `hold_ms` up to date. -/
def Gn.setTq (g : Gn) : Gn :=
  let ms := match g.tm.holdSince with | none => 0 | some t => (g.now - t) / 1000000
  (g.wr F.tmStat_tq g.ownTq).wr F.tmStat_holdMs (min 0xFFFF ms)

/-- Frequency of an island in MHz at its DVFS step (R307). -/
def Gn.islMhz (g : Gn) (i : Nat) : Nat := 600 + 50 * g.rg (F.pwIsl_step i)

def islInit : IslSt := ⟨64, false, 0, none⟩

/-- The watch over an island. -/
def Gn.isl (g : Gn) (i : Nat) : IslSt := SMap.get (fun _ => islInit) g.isls i

def Gn.setIsl (g : Gn) (i : Nat) (x : IslSt) : Gn := { g with isls := SMap.set (fun _ => islInit) g.isls i x }

/-- The `tq` of a stamp while an island is stretched, or of an item held in its crossing across a stop (R166 to R168): `stretch` is set and the bound covers
twice the longest cycle and 3 I/O cycles of 1 ns. -/
def Gn.stretchTq (g : Gn) (i : Nat) : Nat :=
  1 + g.tqCovering (ceilDiv (2 * max (g.isl i).longest (ceilDiv 1000000 (g.islMhz i))) 1000 + 3)

/-- The `tq` of an event crossing from an island (R166, R168). -/
def Gn.islTq (g : Gn) (i : Nat) : Nat := if (g.isl i).stretched then g.stretchTq i else g.tq

/-- Nominal latency of a cluster's crossing in ns (R59, R166): 2 cycles of the island at its DVFS point and 3 of the I/O side at 1 ns (assumption
log 40). -/
def Gn.crossNs (g : Gn) (i : Nat) : Nat := 2000 / g.islMhz i + 3

/-- Stamp of an event of a cluster island: `ht` at its crossing less the nominal latency (R166). -/
def Gn.islStamp (g : Gn) (i : Nat) : Nat := g.now - g.crossNs i

/-- Submit a record of a cluster: stamped at its crossing (R166), or, held in the crossing across a stop, with the last edge before it (R168). -/
def Gn.submitIsl (g : Gn) (c : Nat) (r : RecIn) (held : Option Nat) : Gn :=
  let r := match held with
    | some last => { r with ht := last, tq := g.stretchTq c }
    | none => { r with ht := g.islStamp c, tq := g.islTq c }
  g.submit c { r := r, studio := 0, rank := 0x1FFFF, var := none }

/-- A record that a cluster writes (R166). -/
def Gn.recordIsl (g : Gn) (c code sev source p0 p1 p2 p3 : Nat) : Gn := g.submitIsl c (g.mkRec code sev source p0 p1 p2 p3) none

/-! ### The module's time -/

/-- Code of a link among exchanges: port p, or 64 + site. -/
def linkCode : LinkRef → Nat
  | .port p => p
  | .site s => 64 + s

/-- Asymmetry correction of a link in ps (R162). -/
def Gn.asymOf (g : Gn) : LinkRef → Int
  | .port p => sext 16 (g.rg (F.tmPort_asym p))
  | .site s => sext 16 (g.rg (F.tmSite_asym s))

/-- The port the node takes its time from (R160, R161): up, foster, the adopt port of a root whose time is invalid, or none. -/
def Gn.timePort (g : Gn) : Option Nat :=
  if g.isTop then
    (match g.rd.topo with
     | some t => if t.adopt < 32 ∧ !g.timeValid then some t.adopt else none
     | none => none)
  else if g.portUp 32 && g.rg F.tmStat_src != 2 then some 32
  else if g.portUp 33 then some 33
  else if g.portUp 32 then some 32
  else none

/-- Time becomes invalid (R161). -/
def Gn.timeInvalid (g : Gn) : Gn := (g.put F.tmStat_valid false).setTq

/-- The child's end of an exchange (R162): a time request queued on a port, with the next `xid`; the link layer writes t1. -/
def Gn.timeAsk (g : Gn) (p : Nat) : Gn :=
  if !g.portRx p then g
  else
    let x := g.port p
    let f := g.newFrame (.port p) 0x02 (leBytes 10 0 ++ leBytes 2 g.tm.xid)
    let g := { g with tm := { g.tm with xid := (g.tm.xid + 1) % 2 ^ 16 } }
    g.setPort p { x with sendQ := x.sendQ ++ [f] }

/-- Misalignment (R161): counted, time invalid, an error record, and the link start runs again. Record kind 2: `p0` the low half of
2θ in 1/65,536,000 ns (the manual gives no layout, assumption log 12). -/
def Gn.misaligned (g : Gn) (port : Nat) (th2 : Int) : Gn :=
  let g := (g.inc F.tmStat_misalign).timeInvalid
  let t := { g.tm with offLim := 0, unq := 0 }
  let g := { g with tm := t.drop port }
  let g := g.wr (F.tmPort_state port) 1
  (g.record prodTime (Config.recCode 2).toNat 4 port (th2 % 2 ^ 32).toNat 0 0 0).timeAsk port

/-- The source becomes port 32 or 33 (R163). A switch of a valid node writes a notice record, kind 3: `p0` the new `src`, `p1` and `p2` the
`ht` of the switch. -/
def Gn.useSource (g : Gn) (src : Nat) : Gn :=
  if g.rg F.tmStat_src = src then g
  else
    let old := g.rg F.tmStat_src
    let g := { g with tm := { g.tm with holdSince := none } }
    let g := (g.wr F.tmStat_src src).setTq
    if src = 2 ∨ old = 2 then g.record prodTime (Config.recCode 3).toNat 2 0 src (lo32 g.now) (hi32 g.now) 0 else g

/-- Holdover begins when neither link is up (R163). -/
def Gn.checkHoldover (g : Gn) : Gn :=
  if g.isTop || g.portUp 32 || g.portUp 33 || g.rg F.tmStat_src == 3 then g
  else
    let g := { g with tm := { g.tm with holdSince := some g.now } }
    (g.wr F.tmStat_src 3).setTq

/-- A port on which this node is the child: up, foster, or the adopt port of a root whose time is invalid (R160 to R163). -/
def Gn.childPort (g : Gn) (p : Nat) : Bool :=
  p == 32 || p == 33 || (g.isTop && !g.timeValid && (match g.rd.topo with | some t => t.adopt == p && decide (p < 32) | none => false))

/-- The next round of exchanges begins on every port where this node is the child, unless one is under way there (R162, R163; assumption log 15). -/
def Gn.askAll (g : Gn) : Gn :=
  forEach ((List.range 34).filter (fun p => g.childPort p && g.portUp p && !g.tm.reqs.any (fun e => e.1 == p)
    && !(g.port p).sendQ.any (fun f => f.typ == 0x02))) (fun p g => g.timeAsk p) g

/-- Record a refresh of one link in its register (R181). -/
def Gn.setOfs (g : Gn) (link : Nat) (th2 : Int) : Gn :=
  if link < 64 then g.wr (F.tmPort_ofs link) (thReg th2) else g.wr (F.tmSite_ofs (link - 64)) (thReg th2)

/-- A link's start is complete: its exchanges are those of a refresh. -/
def Gn.linkRuns (g : Gn) (l : Nat) : Bool := if l < 64 then g.rg (F.tmPort_state l) == 2 else g.rg (F.tmSite_state (l - 64)) == 2

/-- The refresh of the source (R161, R163). -/
def Gn.applySource (g : Gn) (l : Nat) (th2 : Int) (qual : Bool) : Gn :=
  let g := if l = 33 then g.useSource 2 else if l = 32 then g.useSource 1 else g
  let (t, bad) := g.tm.applyRefresh th2 qual
  let g := { g with tm := t }
  if bad then g.misaligned l th2 else g

/-- One link's refresh. A round that this node began and whose 8 exchanges are not in is an unqualified refresh (a parent whose time is invalid answers none):
the model's choice, log 15. -/
def Gn.refreshLink (g : Gn) (src : Option Nat) (l : Nat) : Gn :=
  if !g.linkRuns l then g
  else match g.tm.refresh l with
    | none => if g.childPort l && g.portUp l then
        let g := { g with tm := g.tm.drop l }
        if src = some l && g.timeValid then g.applySource l 0 false else g
      else g
    | some (th2, qual) =>
      let g := if qual then g.setOfs l th2 else g
      let g := { g with tm := g.tm.drop l }
      if src = some l && g.timeValid then g.applySource l th2 qual else g

/-- A node whose time is invalid takes it by a link start on its source, when none runs there: the foster port after the upstream one is lost (R161, R163). -/
def Gn.resumeTime (g : Gn) (src : Option Nat) : Gn :=
  match src with
  | none => g
  | some p => if !g.timeValid && g.portUp p && g.linkRuns p then { g.wr (F.tmPort_state p) 1 with tm := g.tm.drop p } else g

/-- Requests that have had no answer by a refresh are given up (log 15). -/
def Gn.dropRequests (g : Gn) : Gn :=
  { g with tm := { g.tm with reqs := g.tm.reqs.filter (fun e => !(g.childPort e.1 && g.portUp e.1)) } }

/-- TIME_REFRESH of the module (R161 to R163), every 1 ms: every link with 8 exchanges shows its offset; that of the source is applied; the exchanges for the
next refresh begin. -/
def Gn.timeRefresh (g : Gn) : Gn :=
  if !g.alive then g else
  let links := (g.tm.xs.map (·.link) ++ g.tm.reqs.map (·.1)).eraseDups
  let src := g.timePort
  ((forEach links (fun l g => g.refreshLink src l) g).resumeTime g.timePort).dropRequests.askAll

/-- TIME_REPLY_FRAME at the module (R162): on a port where it is the child, the reply to the request under way, with t1 of its start and t4 of now; the next
request follows until 8 are in, or 32 at a link start. For a die site the exchange is the block's own, for a port to a child module the child's
(R164, R181; assumption log 15). -/
def Gn.timeReply (g : Gn) (l : LinkRef) (xid : Nat) (x : Xchg) : Gn :=
  match l with
  | .site _ => { g with tm := g.tm.addExch (mkExch (linkCode l) (g.asymOf l) x) }
  | .port p => if decide (p < 32) && !g.childPort p then { g with tm := g.tm.addExch (mkExch p (g.asymOf l) x) }
    else match g.tm.reqs.find? (fun e => e.1 == p && e.2.1 == xid) with
    | none => g
    | some r =>
      let t := { g.tm with reqs := g.tm.reqs.filter (fun e => e.1 != p) }
      let t := t.addExch (mkExch p (g.asymOf l) { x with t1 := r.2.2, t4 := g.tm.frac })
      let need := if g.rg (F.tmPort_state p) = 2 then 8 else 32
      let g := { g with tm := t }
      if (t.xs.filter (fun e => e.link == p)).length < need then g.timeAsk p else g

/-- TIME_REQUEST_FRAME (R162): the parent answers on the link with t2 of the arrival and `xid`, while its time is valid (R160); the link layer writes t3.
The request's t1 is the child's own affair: the reply does not return it (R188). -/
def Gn.timeRequest (g : Gn) (l : LinkRef) (xid : Nat) : Gn :=
  if !g.alive || !g.timeValid then g
  else
    let d := match l with | .port p => Dest.port p | .site s => Dest.site s
    let p := match l with | .port p => p | .site s => g.sitePort s
    let t2 := leBytes 8 (g.tm.fix / nsFix) ++ leBytes 2 (g.tm.fix % nsFix / 2 ^ 16)
    let ok := match l with | .port _ => true | .site s => g.siteMapped s
    if g.portRx p && ok then
      let x := g.port p
      g.setPort p { x with sendQ := x.sendQ ++ [g.newFrame d 0x03 (t2 ++ leBytes 2 xid ++ leBytes 10 0)] }
    else g

def execTimeRequestFrame (l : LinkRef) (xid _t1 _frac : Nat) (s : State) : Host.Outcome State Fault Refusal :=
  gnStep s (fun g => g.timeRequest l xid)

/-- Set the count as a step (R158: it never decreases) and make time valid. -/
def Gn.setTime (g : Gn) (d : Int) : Gn :=
  let g := { g with tm := { g.tm.stepBy d with offLim := 0, unq := 0, holdSince := none } }
  (g.put F.tmStat_valid true).setTq

/-- TIME_SET (R160, R351): refused before a topology with `top` is accepted and once time is valid. -/
def Gn.timeSet (g : Gn) (h : DescHdr) (ht : Nat) : Gn :=
  match g.rd.topo with
  | none => g.complete 0x02 h stRefused []
  | some t =>
    if !t.top || g.timeValid then g.complete 0x02 h stRefused []
    else
      let g := g.setTime ((ht * nsFix : Nat) - g.tm.fix : Int)
      let g := (g.wr F.tmStat_src 0).setTq
      g.complete 0x02 h stOk []

def execTimeSet (h : DescHdr) (ht : Nat) (s : State) : Host.Outcome State Fault Refusal :=
  gnStep s (fun g => g.desc 0x02 ⟨false, true, true, false⟩ h (fun g => g.timeSet h ht))

/-! ### Islands (R168, R305) -/

/-- An access that reaches a gated block (R305): counted, the first one kept with its requester, virtual function and offset. -/
def Gn.gatedAccess (g : Gn) (who fn addr : Nat) : Gn :=
  let g := g.inc F.pwGtouch_count
  if g.flag F.pwGtouch_valid then g
  else (((g.put F.pwGtouch_valid true).wr F.pwGtouch_addr addr).wr F.pwGtouch_who who).wr F.pwGtouch_fn fn

/-- ISLAND_STRETCH: a cycle of `cyclePs`, longer than 1.25 periods of the island's DVFS point, or one of the 64 that end a stretch. -/
def Gn.islandStretch (g : Gn) (i cyclePs : Nat) : Gn :=
  let x := g.isl i
  if 5000000 < cyclePs * g.islMhz i * 4 then
    let g := if x.stretched then g else g.inc (F.isl_stretch i)
    g.setIsl i { x with stretched := true, good := 0, longest := max x.longest cyclePs }
  else if x.stretched then
    if 64 ≤ x.good + 1 then g.setIsl i { x with stretched := false, good := 64, longest := 0 }
    else g.setIsl i { x with good := x.good + 1 }
  else g

def execIslandStretch (i cyclePs : Nat) (s : State) : Host.Outcome State Fault Refusal := gnStep s (fun g => g.islandStretch i cyclePs)

/-- An island stops, its last edge at `last`; what its crossings hold stays there and is marked (R59, R168). -/
def Gn.stopIsland (g : Gn) (i last : Nat) : Gn :=
  let x := g.isl i
  match x.stoppedAt with
  | some _ => g
  | none =>
    let hold := fun (e : XEnt) => match e with
      | .data b s d none => .data b s d (some last)
      | .event r none => .event r (some last)
      | e => e
    let g := (g.inc (F.isl_stops i)).setIsl i { x with stoppedAt := some last }
    { g with ar := { g.ar with cross := g.ar.cross.map (fun e => if e.1 / 2 = i then (e.1, e.2.map hold) else e) } }

/-- ISLAND_STOP: no edge for 64 ns. -/
def execIslandStop (i : Nat) (s : State) : Host.Outcome State Fault Refusal := gnStep s (fun g => g.stopIsland i (g.now - 64))

/-- ISLAND_RESUME: the resume record is written first, with severity notice; an island gated by a power state restarts with its exit. -/
def Gn.islandResume (g : Gn) (i : Nat) : Gn :=
  let x := g.isl i
  match x.stoppedAt with
  | none => g
  | some last =>
    if g.flag (F.pwIsl_gated i) then g
    else
      let g := (g.setIsl i { x with stoppedAt := none }).wr (F.isl_lastGapNs i) (min (2 ^ 32 - 1) (g.now - last))
      g.record prodTime (Config.recCode 1).toNat 2 i (lo32 last) (hi32 last) (lo32 g.now) (hi32 g.now)

def execIslandResume (i : Nat) (s : State) : Host.Outcome State Fault Refusal := gnStep s (fun g => g.islandResume i)

end Sys2Proof.Machine
end

