-- ==== Sys2Proof/Machine/Zstd.lean ====
section
/-! DEFINITION. Compressed items (R203, R204): the Zstandard frames of RFC 8878 around their blocks, the content checksum (XXH64), the choice of blocks that
R203 states for a Ginath, and the compressed blocks of the standard: literals, sequences, their tables. Which compressed block a Ginath writes for its content the
manual leaves to the compressor: the uninterpreted Config.zstdPack, where it is one that the standard reads back (assumption log 22). -/

namespace Sys2Proof.Machine

/-! ### XXH64, seed 0 (RFC 8878 takes the low 4 bytes of it as the checksum) -/

def xxP1 : Word := 0x9E3779B185EBCA87
def xxP2 : Word := 0xC2B2AE3D27D4EB4F
def xxP3 : Word := 0x165667B19E3779F9
def xxP4 : Word := 0x85EBCA77C2B2AE63
def xxP5 : Word := 0x27D4EB2F165667C5

def xxRound (acc w : Word) : Word := (acc + w * xxP2).rotateLeft 31 * xxP1

def xxMerge (acc v : Word) : Word := (acc ^^^ xxRound 0 v) * xxP1 + xxP4

def w64 (b : List Byte) (i : Nat) : Word := BitVec.ofNat 64 (u64 b i)

/-- One stripe of 32 bytes. -/
def xxStripe (s : Word × Word × Word × Word) (b : List Byte) : Word × Word × Word × Word :=
  (xxRound s.1 (w64 b 0), xxRound s.2.1 (w64 b 8), xxRound s.2.2.1 (w64 b 16), xxRound s.2.2.2 (w64 b 24))

def xxStripes (b : List Byte) : Nat → Word × Word × Word × Word → Word × Word × Word × Word
  | 0, s => s
  | n + 1, s => xxStripes (b.drop 32) n (xxStripe s b)

/-- The bytes after the last stripe, in words of 8, 4 and 1; `n` bounds them. -/
def xxTail : Nat → List Byte → Word → Word
  | 0, _, h => h
  | n + 1, b, h =>
    if b.isEmpty then h
    else if 8 ≤ b.length then xxTail n (b.drop 8) ((h ^^^ xxRound 0 (w64 b 0)).rotateLeft 27 * xxP1 + xxP4)
    else if 4 ≤ b.length then xxTail n (b.drop 4) ((h ^^^ (BitVec.ofNat 64 (u32 b 0) * xxP1)).rotateLeft 23 * xxP2 + xxP3)
    else xxTail n (b.drop 1) ((h ^^^ (BitVec.ofNat 64 (u8 b 0) * xxP5)).rotateLeft 11 * xxP1)

/-- XXH64 with seed 0. -/
def xxh64 (b : List Byte) : Word :=
  let n := b.length / 32
  let s := xxStripes b n (xxP1 + xxP2, xxP2, 0, 0 - xxP1)
  let h := if n = 0 then xxP5
    else
      let h := s.1.rotateLeft 1 + s.2.1.rotateLeft 7 + s.2.2.1.rotateLeft 12 + s.2.2.2.rotateLeft 18
      xxMerge (xxMerge (xxMerge (xxMerge h s.1) s.2.1) s.2.2.1) s.2.2.2
  let h := xxTail 32 (b.drop (32 * n)) (h + BitVec.ofNat 64 b.length)
  let h := (h ^^^ (h >>> 33)) * xxP2
  let h := (h ^^^ (h >>> 29)) * xxP3
  h ^^^ (h >>> 32)

/-! ### FSE tables (RFC 8878, 4.1) -/

/-- An FSE decoding table: accuracy log, and by state the symbol, the bits to read and the base of the next state. -/
structure ZTab where
  al : Nat
  ents : List (Nat × Nat × Nat)
deriving DecidableEq, Repr

def ZTab.ent (t : ZTab) (s : Nat) : Nat × Nat × Nat := t.ents.getD s (0, 0, 0)

/-- The zero counts that follow a zero count in a table description: 2-bit flags, of which 3 goes on. -/
def fseZeros : Nat → Nat → Nat → Nat × Nat
  | 0, _, p => (0, p)
  | n + 1, v, p =>
    if bits v p 2 = 3 then
      let r := fseZeros n v (p + 2)
      (r.1 + 3, r.2)
    else (bits v p 2, p + 2)

/-- The counts of a table description from bit `p` of `v`, with `rem` states still to share out among at most `syms` symbols; and the bit after them. -/
def fseCounts (syms : Nat) : Nat → Nat → Nat → Nat → List Int → Option (List Int × Nat)
  | 0, _, _, _, _ => none
  | n + 1, v, p, rem, acc =>
    if rem = 0 then (if acc.length ≤ syms then some (acc, p) else none)
    else if syms ≤ acc.length then none
    else
      let k := (rem + 1).log2 + 1
      let x := bits v p k
      let half := 2 ^ (k - 1)
      let thr := 2 ^ k - 1 - (rem + 1)
      let short := decide (x % half < thr)
      let val := if short then x % half else if half ≤ x then x - thr else x
      let q := p + (if short then k - 1 else k)
      if val = 0 then fseCounts syms n v q (rem - 1) (acc ++ [-1])
      else if val = 1 then
        let z := fseZeros syms v q
        fseCounts syms n v z.2 rem (acc ++ List.replicate (z.1 + 1) 0)
      else fseCounts syms n v q (rem - (val - 1)) (acc ++ [((val - 1 : Nat) : Int)])

/-- States in order: symbol, bits, base. `cnt` is the next count of each symbol. -/
def fseEnts (al : Nat) : List Nat → List Nat → List (Nat × Nat × Nat)
  | [], _ => []
  | s :: ss, cnt =>
    let d := cnt.getD s 1
    let nb := al - d.log2
    (s, nb, d * 2 ^ nb - 2 ^ al) :: fseEnts al ss (cnt.set s (d + 1))

/-- The decoding table of a distribution: symbols of count -1 at the top, the others spread by the step of the standard. -/
def fseTable (al : Nat) (counts : List Int) : ZTab :=
  let size := 2 ^ al
  let lows := (counts.zipIdx.filter (fun e => e.1 == -1)).map (·.2)
  let high := size - lows.length
  let step := size / 2 + size / 8 + 3
  let spots := ((List.range size).map (fun i => i * step % size)).filter (fun x => decide (x < high))
  let syms := counts.zipIdx.flatMap (fun e => List.replicate e.1.toNat e.2)
  let placed := spots.zip syms ++ lows.zipIdx.map (fun e => (size - 1 - e.2, e.1))
  let order := (List.range size).map (fun i => match placed.find? (fun e => e.1 == i) with | some e => e.2 | none => 0)
  { al := al, ents := fseEnts al order (counts.map (fun c => if c = -1 then 1 else c.toNat)) }

/-- Read a table description: the table and the bytes it takes. -/
def fseRead (maxAl syms : Nat) (b : List Byte) : Option (ZTab × Nat) :=
  let v := leNat (b.take 512)
  let al := bits v 0 4 + 5
  if maxAl < al ∨ b.isEmpty = true then none
  else match fseCounts syms (syms + 1) v 4 (2 ^ al) [] with
    | none => none
    | some (c, p) => if b.length < ceilDiv p 8 then none else some (fseTable al c, ceilDiv p 8)

/-! ### Backward bit streams -/

/-- A stream read from its end: its bits as a number and how many stand below the highest 1 of its last byte; none where that byte is 0. -/
def backStream (b : List Byte) : Option (Nat × Nat) :=
  if b.isEmpty || u8 b (b.length - 1) == 0 then none
  else some (leNat b, 8 * (b.length - 1) + (u8 b (b.length - 1)).log2)

/-- The next `k` bits with `n` left; zeros stand below the stream. -/
def backBits (v n k : Nat) : Nat := if k ≤ n then bits v (n - k) k else bits v 0 n * 2 ^ (k - n)

/-! ### Huffman tables and literals (RFC 8878, 3.1.1.3.1 and 4.2) -/

/-- The weights of a stream with two states taken in turn. -/
def fseWeights (t : ZTab) (v : Nat) : Nat → Nat → Nat → Nat → List Nat → Option (List Nat)
  | 0, _, _, _, _ => none
  | k + 1, n, s, s', acc =>
    let e := t.ent s
    if n < e.2.1 then some (acc ++ [e.1, (t.ent s').1])
    else fseWeights t v k (n - e.2.1) s' (e.2.2 + backBits v n e.2.1) (acc ++ [e.1])

/-- A Huffman tree: longest code, and by the next bits the symbol and its length. -/
structure ZHuf where
  bits : Nat
  ents : List (Nat × Nat)
deriving DecidableEq, Repr

/-- The tree of a list of weights, the last of which is implied. -/
def hufTable (ws : List Nat) : Option ZHuf :=
  let sum := (ws.map (fun w => if w = 0 then 0 else 2 ^ (w - 1))).sum
  let mb := sum.log2 + 1
  let left := 2 ^ mb - sum
  if sum = 0 ∨ 11 < mb ∨ 2 ^ left.log2 ≠ left ∨ ws.any (fun w => decide (mb < w)) = true then none
  else
    let all := (ws ++ [left.log2 + 1]).zipIdx
    some { bits := mb, ents := (List.range mb).flatMap (fun i =>
      (all.filter (fun e => e.1 == i + 1)).flatMap (fun e => List.replicate (2 ^ i) (e.2, mb - i))) }

/-- Read a tree description: the tree and the bytes it takes. -/
def hufRead (b : List Byte) : Option (ZHuf × Nat) :=
  let h := u8 b 0
  if b.isEmpty then none
  else if 128 ≤ h then
    let n := h - 127
    if b.length < 1 + ceilDiv n 2 then none
    else (hufTable ((List.range n).map (fun i => bits (u8 b (1 + i / 2)) (4 - 4 * (i % 2)) 4))).map (fun t => (t, 1 + ceilDiv n 2))
  else
    let d := (b.drop 1).take h
    match if d.length < h then none else fseRead 6 256 d with
    | none => none
    | some (t, used) => match backStream (d.drop used) with
      | none => none
      | some (v, n) =>
        if n < 2 * t.al then none
        else
          let s1 := backBits v n t.al
          let s2 := backBits v (n - t.al) t.al
          match fseWeights t v 254 (n - 2 * t.al) s1 s2 [] with
          | none => none
          | some ws => (hufTable ws).map (fun x => (x, 1 + h))

/-- `k` symbols of a Huffman stream, which ends with them. -/
def hufSyms (t : ZHuf) (v : Nat) : Nat → Nat → List Byte → Option (List Byte)
  | 0, n, acc => if n = 0 then some acc.reverse else none
  | k + 1, n, acc =>
    let e := t.ents.getD (backBits v n t.bits) (0, 12)
    if n < e.2 then none else hufSyms t v k (n - e.2) (BitVec.ofNat 8 e.1 :: acc)

def hufStream (t : ZHuf) (b : List Byte) (k : Nat) : Option (List Byte) :=
  match backStream b with
  | none => none
  | some (v, n) => hufSyms t v k n []

/-- Four streams with the jump table before them. -/
def hufFour (t : ZHuf) (b : List Byte) (k : Nat) : Option (List Byte) :=
  let q := (k + 3) / 4
  let at_ := fun i => 6 + ((List.range i).map (fun j => u16 b (2 * j))).sum
  if b.length < at_ 3 ∨ k < 3 * q then none
  else
    let part := fun i => hufStream t ((b.drop (at_ i)).take (if i = 3 then b.length else u16 b (2 * i))) (if i = 3 then k - 3 * q else q)
    match part 0, part 1, part 2, part 3 with
    | some w, some x, some y, some z => some (w ++ x ++ y ++ z)
    | _, _, _, _ => none

/-- What a compressed block leaves to the blocks after it in its frame: the tree, the three tables, the three latest offsets. -/
structure ZCtx where
  huf : Option ZHuf
  ll : Option ZTab
  off : Option ZTab
  ml : Option ZTab
  reps : Nat × Nat × Nat
deriving DecidableEq, Repr

def ZCtx.start : ZCtx := { huf := none, ll := none, off := none, ml := none, reps := (1, 4, 8) }

/-- The literals section: literals, tree, bytes taken. -/
def zLiterals (c : ZCtx) (b : List Byte) : Option (List Byte × ZCtx × Nat) :=
  let h := u8 b 0
  let kind := h % 4
  let sf := h / 4 % 4
  if b.isEmpty then none
  else if kind < 2 then
    let hl := if sf = 1 then 2 else if sf = 3 then 3 else 1
    let n := if hl = 1 then h / 8 else uN b 0 hl / 16
    let used := hl + (if kind = 0 then n else 1)
    if b.length < used ∨ 2 ^ 17 < n then none
    else some (if kind = 0 then (b.drop hl).take n else List.replicate n (b.getD hl 0), c, used)
  else
    let hl := if sf < 2 then 3 else sf + 2
    let w := if sf < 2 then 10 else 4 * sf + 6
    let n := bits (uN b 0 hl) 4 w
    let size := bits (uN b 0 hl) (4 + w) w
    let d := (b.drop hl).take size
    if b.length < hl + size ∨ 2 ^ 17 < n then none
    else match if kind = 2 then hufRead d else c.huf.map (fun t => (t, 0)) with
      | none => none
      | some (t, used) =>
        match if sf = 0 then hufStream t (d.drop used) n else hufFour t (d.drop used) n with
        | none => none
        | some x => some (x, { c with huf := some t }, hl + size)

/-! ### Sequences (RFC 8878, 3.1.1.3.2) -/

/-- Base and extra bits of a literals-length code, and of a match-length code. -/
def llCode (c : Nat) : Nat × Nat :=
  if c < 16 then (c, 0) else
    ([(16, 1), (18, 1), (20, 1), (22, 1), (24, 2), (28, 2), (32, 3), (40, 3), (48, 4), (64, 6), (128, 7), (256, 8), (512, 9), (1024, 10), (2048, 11),
      (4096, 12), (8192, 13), (16384, 14), (32768, 15), (65536, 16)] : List (Nat × Nat)).getD (c - 16) (0, 0)

def mlCode (c : Nat) : Nat × Nat :=
  if c < 32 then (c + 3, 0) else
    ([(35, 1), (37, 1), (39, 1), (41, 1), (43, 2), (47, 2), (51, 3), (59, 3), (67, 4), (83, 4), (99, 5), (131, 7), (259, 8), (515, 9), (1027, 10),
      (2051, 11), (4099, 12), (8195, 13), (16387, 14), (32771, 15), (65539, 16)] : List (Nat × Nat)).getD (c - 32) (0, 0)

/-- The predefined distributions. -/
def llPredef : List Int :=
  [4, 3, 2, 2, 2, 2, 2, 2, 2, 2, 2, 2, 2, 1, 1, 1, 2, 2, 2, 2, 2, 2, 2, 2, 2, 3, 2, 1, 1, 1, 1, 1, -1, -1, -1, -1]

def offPredef : List Int := [1, 1, 1, 1, 1, 1, 2, 2, 2] ++ List.replicate 15 1 ++ List.replicate 5 (-1)

def mlPredef : List Int := [1, 4, 3] ++ List.replicate 6 2 ++ List.replicate 37 1 ++ List.replicate 7 (-1)

/-- One of the three tables by its mode: predefined, one symbol, described, or the one before; and the bytes it takes. -/
def zTable (mode maxAl syms : Nat) (al : Nat) (predef : List Int) (prev : Option ZTab) (b : List Byte) : Option (ZTab × Nat) :=
  if mode = 0 then some (fseTable al predef, 0)
  else if mode = 1 then (if b.isEmpty || decide (syms ≤ u8 b 0) then none else some ({ al := 0, ents := [(u8 b 0, 0, 0)] }, 1))
  else if mode = 2 then fseRead maxAl syms b
  else prev.map (fun t => (t, 0))

/-- A sequence: literals to copy, offset value, length of the match. -/
structure ZSeq where
  lit : Nat
  off : Nat
  len : Nat
deriving DecidableEq, Repr

/-- The sequences of a stream, which ends with the last of them. -/
def zSeqs (ll off ml : ZTab) (v : Nat) : Nat → Nat → Nat → Nat → Nat → List ZSeq → Option (List ZSeq)
  | 0, n, _, _, _, acc => if n = 0 then some acc.reverse else none
  | k + 1, n, sl, so, sm, acc =>
    let el := ll.ent sl
    let eo := off.ent so
    let em := ml.ent sm
    let cl := llCode el.1
    let cm := mlCode em.1
    let nm := n - eo.1
    let nl := nm - cm.2
    let n1 := nl - cl.2
    let last := k == 0
    let up := if last then 0 else el.2.1 + em.2.1 + eo.2.1
    if n < eo.1 + cm.2 + cl.2 + up then none
    else
      let s : ZSeq := { lit := cl.1 + backBits v nl cl.2, off := 2 ^ eo.1 + backBits v n eo.1, len := cm.1 + backBits v nm cm.2 }
      let n2 := n1 - el.2.1
      let n3 := n2 - em.2.1
      zSeqs ll off ml v k (n1 - up) (el.2.2 + backBits v n1 el.2.1) (eo.2.2 + backBits v n3 eo.2.1) (em.2.2 + backBits v n2 em.2.1) (s :: acc)

/-- The offset a value stands for, by the latest three, and these after it. -/
def zOffset (r : Nat × Nat × Nat) (val lit : Nat) : Nat × (Nat × Nat × Nat) :=
  if 3 < val then (val - 3, (val - 3, r.1, r.2.1))
  else
    let i := val - 1 + (if lit = 0 then 1 else 0)
    if i = 0 then (r.1, r)
    else if i = 1 then (r.2.1, (r.2.1, r.1, r.2.2))
    else
      let o := if i = 2 then r.2.2 else r.1 - 1
      (o, (o, r.1, r.2.1))

/-- Carry out sequences on the content so far: literals, then a match at most `window` back. -/
def zExec (window : Nat) : List ZSeq → List Byte → Nat × Nat × Nat → List Byte → Option (List Byte × (Nat × Nat × Nat))
  | [], lits, r, out => some (out ++ lits, r)
  | s :: ss, lits, r, out =>
    let o := zOffset r s.off s.lit
    let out := out ++ lits.take s.lit
    if lits.length < s.lit ∨ o.1 = 0 ∨ out.length < o.1 ∨ window < o.1 then none
    else
      let src := out.drop (out.length - o.1)
      zExec window ss (lits.drop s.lit) o.2 (out ++ ((List.replicate (ceilDiv s.len o.1) src).flatten).take s.len)

/-- The content of a compressed block after `out`, and what it leaves to the next; none where it is malformed. -/
def zBlock (window : Nat) (c : ZCtx) (out b : List Byte) : Option (List Byte × ZCtx) :=
  match zLiterals c b with
  | none => none
  | some (lits, c, used) =>
    let b := b.drop used
    let h := u8 b 0
    let hl := if h < 128 then 1 else if h < 255 then 2 else 3
    let n := if h < 128 then h else if h < 255 then (h - 128) * 256 + u8 b 1 else u16 b 1 + 0x7F00
    if b.isEmpty then none
    else if h = 0 then (if b.length = 1 then some (out ++ lits, c) else none)
    else if b.length < hl + 1 ∨ u8 b hl % 4 ≠ 0 then none
    else
      let m := u8 b hl
      let b0 := b.drop (hl + 1)
      match zTable (m / 64) 9 36 6 llPredef c.ll b0 with
      | none => none
      | some (tl, k) =>
        let b1 := b0.drop k
        match zTable (m / 16 % 4) 8 32 5 offPredef c.off b1 with
        | none => none
        | some (to_, k) =>
          let b2 := b1.drop k
          match zTable (m / 4 % 4) 9 53 6 mlPredef c.ml b2 with
          | none => none
          | some (tm, k) => match backStream (b2.drop k) with
            | none => none
            | some (v, bn) =>
              let al := tl.al + to_.al + tm.al
              match if bn < al then none
                else zSeqs tl to_ tm v n (bn - al) (backBits v bn tl.al) (backBits v (bn - tl.al) to_.al) (backBits v (bn - tl.al - to_.al) tm.al) [] with
              | none => none
              | some ss => (zExec window ss lits c.reps out).map (fun r => (r.1, { c with ll := some tl, off := some to_, ml := some tm, reps := r.2 }))

/-! ### Reading a compressed item (R204) -/

/-- A frame's blocks: content, and what follows the last block. A block holds and yields at most 128 KiB and the window; none where one is malformed. `n`
bounds the blocks. -/
def zBlocks (window : Nat) : Nat → List Byte → ZCtx → List Byte → Option (List Byte × List Byte)
  | 0, _, _, _ => none
  | n + 1, b, c, out =>
    if b.length < 3 then none
    else
      let h := uN b 0 3
      let size := h / 8
      let kind := h / 2 % 4
      let body := b.drop 3
      let len := if kind = 1 then 1 else size
      let most := min window (2 ^ 17)
      if most < size || kind == 3 || decide (body.length < len) then none
      else
        let part := body.take len
        let got := if kind = 0 then some (out ++ part, c) else if kind = 1 then some (out ++ List.replicate size (part.headD 0), c)
          else zBlock window c out part
        match got with
        | none => none
        | some (x, c) =>
          if out.length + most < x.length then none
          else if h % 2 = 1 then some (x, body.drop len)
          else zBlocks window n (body.drop len) c x

/-- One Zstandard frame that R204 accepts for an item of original length `olen`: its content and what follows it. Its window is at most 8 MiB, its content
size present, at most 1 MiB and `olen`, its dictionary identifier absent or 0, its checksum present and right. -/
def zFrame (olen : Nat) (b : List Byte) : Option (List Byte × List Byte) :=
  let d := u8 b 4
  let fcsFlag := bits d 6 2
  let single := bit d 5
  let dictN := [0, 1, 2, 4].getD (bits d 0 2) 0
  let fcsN := if fcsFlag = 0 then (if single then 1 else 0) else 2 ^ fcsFlag
  let at_ := 5 + (if single then 0 else 1)
  let dict := uN b at_ dictN
  let fcs := uN b (at_ + dictN) fcsN + (if fcsFlag = 1 then 256 else 0)
  let wd := u8 b 5
  let base := 2 ^ (10 + wd / 8)
  let window := if single then fcs else base + base / 8 * (wd % 8)
  let hdr := at_ + dictN + fcsN
  if decide (b.length < hdr) || bit d 3 || !bit d 2 || dict != 0 || fcsN == 0 || fcs != olen || decide (2 ^ 20 < fcs) || decide (2 ^ 23 < window) then none
  else match zBlocks window b.length (b.drop hdr) ZCtx.start [] with
    | none => none
    | some (out, rest) =>
      if out.length = fcs ∧ 4 ≤ rest.length ∧ u32 rest 0 = (xxh64 out).toNat % 2 ^ 32 then some (out, rest.drop 4) else none

/-- What reading an item found: skippable frames seen, and its content when every condition of R204 holds. -/
structure ZOut where
  skips : Nat
  out : Option (List Byte)
deriving DecidableEq, Repr

/-- The frames of an item: exactly one Zstandard frame, skippable frames before and after it. `n` bounds the frames. -/
def zFrames (olen : Nat) : Nat → List Byte → ZOut → Bool → ZOut
  | 0, _, z, _ => { z with out := none }
  | n + 1, b, z, good =>
    if b.isEmpty then { z with out := if good then z.out else none }
    else if b.length < 8 then { z with out := none }
    else if u32 b 0 / 16 = 0x184D2A5 then
      let len := u32 b 4
      if b.length < 8 + len then { z with out := none } else zFrames olen n (b.drop (8 + len)) { z with skips := z.skips + 1 } good
    else if u32 b 0 = 0xFD2FB528 ∧ z.out = none then
      match zFrame olen b with
      | none => { z with out := none }
      | some (x, rest) => zFrames olen n rest { z with out := some x } true
    else { z with out := none }

/-- Read a compressed item (R203, R204): header `olen` and `ocrc`, then the frames. -/
def zRead (b : List Byte) : ZOut :=
  let r := zFrames (u32 b 0) (b.length + 1) (b.drop 8) ⟨0, none⟩ false
  match r.out with
  | some x => if 8 ≤ b.length ∧ crc32c x = u32 b 4 then r else { r with out := none }
  | none => r

/-! ### Writing one (R203) -/

/-- The compressed block a Ginath writes for a piece of an item, where it finds one that the standard reads back as that
piece and that is no larger; and the context after it. -/
def zPack (c : ZCtx) (done x : List Byte) : Option (List Byte × ZCtx) :=
  let b := Config.zstdPack done x
  match zBlock (2 ^ 20) c done b with
  | some (y, c) => if y = done ++ x ∧ b.length ≤ x.length then some (b, c) else none
  | none => none

/-- The blocks of an item of 128 KiB each: a raw block where there is no compressed one as small. `n` bounds them. -/
def zPackBlocks : Nat → ZCtx → List Byte → List Byte → List Byte
  | 0, _, _, _ => []
  | n + 1, c, b, done =>
    let x := b.take (2 ^ 17)
    let rest := b.drop (2 ^ 17)
    let last := b2n rest.isEmpty
    let (blk, c) := match zPack c done x with
      | none => (leBytes 3 (last + 8 * x.length) ++ x, c)
      | some (y, c) => (leBytes 3 (last + 4 + 8 * y.length) ++ y, c)
    if rest.isEmpty then blk else blk ++ zPackBlocks n c rest (done ++ x)

/-- A compressed item: `olen`, `ocrc`, and one frame with a window of 1 MiB, content size in 8 bytes (the 18 bytes of R203), checksum, no dictionary. -/
def zWrite (b : List Byte) : List Byte :=
  leBytes 4 b.length ++ leBytes 4 (crc32c b) ++ leBytes 4 0xFD2FB528 ++ [0xC4, 0x50] ++ leBytes 8 b.length
    ++ zPackBlocks (b.length / 2 ^ 17 + 1) ZCtx.start b [] ++ leBytes 4 ((xxh64 b).toNat % 2 ^ 32)

end Sys2Proof.Machine
end

