-- ==== Sys2Proof/Machine/Links.lean ====
section
/-! DEFINITION. Links and traffic (chapter 09), without the link states: policing, credits, sending, shaping, gates. -/

namespace Sys2Proof.Machine

/-! ### Policing (R3, R16, R197) -/

/-- The policing source of a frame: its die site in tray role, its child port in manager role; none for other frames. -/
def Gn.polSource (g : Gn) (p src : Nat) : Option Nat :=
  if g.isTray then (if p < 8 ∧ src < 112 then some src else none) else (if p < 32 then some p else none)

/-- A site whose traffic is policed to zero: missing from the rank map (R16), or with an identity out of range (R3). -/
def Gn.zeroSource (g : Gn) (s : Nat) : Bool := g.isTray && (!g.siteMapped s || g.lk.mismatch.contains s)

/-- A record of the links about a source (R319): in tray role a die site, whose rank's studio it takes; in manager role a child port. -/
def Gn.recordSrc (g : Gn) (code sev s : Nat) : Gn :=
  if g.isTray && decide (s < 112) then g.recordRank prodLinks code sev s (g.siteRank s) 0 0 0 0 else g.record prodLinks code sev s 0 0 0 0

/-- A bucket's tokens now, in 1/16 bead; one not yet used is full. -/
def bucketNow (b : Option Bucket) (now rate burst : Nat) : Nat :=
  match b with
  | none => burst * 16
  | some x => min (burst * 16) (x.tok + rate * (now - x.last) / 1000)

/-- The admission decision at a frame's first flit (R197). -/
def Gn.police (g : Gn) (p src cls beads : Nat) : Gn × Bool :=
  match g.polSource p src with
  | none => (g, true)
  | some s =>
    let key := s * 2 + b2n (cls == 0)
    let rate := if cls = 0 then 64 else g.rg (F.lkPol_rate s)
    let burst := if cls = 0 then 64 else g.rg (F.lkPol_burst s)
    let tok := bucketNow (SMap.get (fun _ => none) g.lk.buckets key) g.now rate burst
    let zero := cls != 0 && (rate == 0 || g.zeroSource s)
    let ok := !zero && decide (beads * 16 ≤ tok)
    let b : Bucket := { tok := if ok then tok - beads * 16 else tok, last := g.now }
    let g := { g with lk := { g.lk with buckets := SMap.set (fun _ => none) g.lk.buckets key (some b) } }
    let n := SMap.get (fun _ => 0) g.lk.unmapped p
    let g := if cls != 0 && g.isTray && !g.siteMapped s then
        { g with lk := { g.lk with unmapped := SMap.set (fun _ => 0) g.lk.unmapped p (n + 1) } } else g
    if ok then (g, true) else ((g.inc (F.lkSrc_polDrop s)).recordSrc 0x0906 2 s, false)

/-- Change one element of a list of four class counts. -/
def bump (l : List Nat) (i n : Nat) : List Nat := l.zipIdx.map (fun e => if e.2 = i then e.1 + n else e.1)

/-- Credits of a frame that has left a port's buffer are owed to its sender (R190); a tap port is not flow-controlled (R193). -/
def Gn.oweCredit (g : Gn) (p cls beads : Nat) : Gn :=
  if 34 ≤ p then g else
  let x := g.port p
  g.setPort p { x with owed := bump x.owed cls beads }

/-! ### Credits and class 0 (R190, R191) -/

/-- Add class counts. -/
def addCred (a b : List Nat) : List Nat := (List.range 4).map (fun i => a.getD i 0 + b.getD i 0)

/-- A retire frame of a sitting is under way on some port: queued, or not yet acknowledged. -/
def Gn.retiring (g : Gn) (ident : Nat) : Bool :=
  let is := fun f : Frame => f.typ == 0x1C && u8 f.body 0 == ident
  g.lk.ports.any (fun e => e.2.sendQ.any is || e.2.unack.any (fun u => is u.f))

/-- SIT_RETIRE descriptors whose frames have all arrived complete (R180; the nodes next below are those this node can tell of, assumption log 25). -/
def Gn.retireCheck (g : Gn) : Gn :=
  let done := g.hq.retires.filter (fun e => !g.retiring e.2)
  forEach done (fun e g => g.complete 0x0E e.1 stOk []) { g with hq := { g.hq with retires := g.hq.retires.filter (fun e => g.retiring e.2) } }

/-- LINK_CONTROL_FRAME: credits come back, acknowledged class-0 frames are forgotten. -/
def Gn.linkControl (g : Gn) (p : Nat) (cred : List Nat) (acks : List (Nat × Nat)) : Gn :=
  if !g.alive || 34 ≤ p || !g.portRx p then g else
  let x := g.port p
  let g := g.setPort p { x with cred := addCred x.cred cred, unack := x.unack.filter (fun u => !acks.contains (u.src, u.seq)) } |>.retireCheck
  if p = 32 ∨ p = 33 then g.noteAsks (p - 32) else g

def execLinkControlFrame (p : Nat) (cred : List Nat) (acks : List (Nat × Nat)) (s : State) : Host.Outcome State Fault Refusal :=
  gnStep s (fun g => g.linkControl p cred acks)

/-- Body of a link-control frame (R188): credits per class, `nack` 0 (no rule of the manual sets it), up to 8 acknowledgments, unused entries with 0xFF in
`src`. -/
def linkCtlBody (cred : List Nat) (acks : List (Nat × Nat)) : List Byte :=
  (List.range 4).flatMap (fun c => leBytes 2 (cred.getD c 0)) ++ leBytes 4 0 ++ (List.range 8).flatMap (fun i => match acks[i]? with
    | some a => leBytes 2 (a.1 % 256) ++ leBytes 2 a.2
    | none => [0xFF, 0, 0, 0])

/-- Time fields that the link layer writes as the first flit of a time request or reply enters the FEC encoder (R188): nanoseconds and 2^-16 ns. -/
def stampTime (fix : Nat) (f : Frame) : Frame :=
  let t := leBytes 8 (fix / nsFix) ++ leBytes 2 (fix % nsFix / 2 ^ 16)
  if f.typ = 0x02 then { f with body := t ++ f.body.drop 10 }
  else if f.typ = 0x03 then { f with body := f.body.take 12 ++ t }
  else f

/-- A frame enters the wire of a port: its sequence number, its flits; credits of its class are spent (R190). -/
def Gn.putFrame (g : Gn) (p : Nat) (f : Frame) : Gn × Frame :=
  let x := g.port p
  let f := stampTime g.tm.fix { f with seq := x.txSeq.getD f.cls 0 }
  let g := if f.typ = 0x02 then { g with tm := g.tm.requested p (u16 f.body 10) } else g
  let y := { x with cred := x.cred.zipIdx.map (fun e => if e.2 = f.cls then e.1 - f.beads else e.1),
                    txSeq := x.txSeq.zipIdx.map (fun e => if e.2 = f.cls then (e.1 + 1) % 2 ^ 16 else e.1) }
  ((g.setPort p y).emitOut (.frame f.dst f.flits), f)

/-- CREDIT_RETURN_TIMER: a link-control frame returns the credits owed and up to 8 acknowledgments, once a credit of class 0 is held for it. It is itself
neither acknowledged nor kept, since its acknowledgment would ask for another one without end (assumption log 22). -/
def Gn.creditReturn (g : Gn) (p : Nat) : Gn :=
  if !g.alive || 34 ≤ p || !g.portRx p then g else
  let x := g.port p
  let give := x.owed.map (min 0xFFFF)
  let f := g.newFrame (.port p) 0x01 (linkCtlBody give x.acks)
  if (x.owed.all (· == 0) && x.acks.isEmpty) || !x.hasCredit f then g
  else (g.setPort p { x with owed := x.owed.map (fun n => n - min 0xFFFF n), acks := x.acks.drop 8 } |>.putFrame p f).1

def execCreditReturnTimer (p : Nat) (s : State) : Host.Outcome State Fault Refusal := gnStep s (fun g => g.creditReturn p)

/-! ### Shaping and gates (R198, R199) -/

/-- Take from a shaper's credit as it stands now. -/
def Gn.shaperTake (g : Gn) (q beads : Nat) : Gn :=
  let x : Shaper := { c := g.shaperNow q - (beads * 16 : Nat), last := g.now }
  { g with lk := { g.lk with shapers := SMap.set shaperDefault g.lk.shapers q x } }

/-- Charge a frame to its shaper; a queue with `en` = 0 is unshaped. -/
def Gn.shaperPay (g : Gn) (q beads : Nat) : Gn := if g.flag (F.lkShp_en q) then g.shaperTake q beads else g

/-- The queue loses a frame that does not start: what its credit has risen to while it held one stays (R198). -/
def Gn.shaperSettle (g : Gn) (q : Nat) : Gn := g.shaperTake q 0

/-- A frame can never start at the port's width: longer than every open span of its class (R200). A port that is not trained has no width to judge by. -/
def Gn.gateNever (g : Gn) (u cls beads : Nat) : Bool :=
  match g.gateOn u with
  | none => false
  | some x => g.rg (F.lkStat_width (32 + u)) != 0 && !alwaysOpen cls x.ents && !fitsSpan (wireBytes beads) (g.rg (F.lkStat_width (32 + u))) (longestOpen cls x.ents)

/-- Discard heads of up or foster that can never start (R200); `n` bounds the frames looked at. -/
def Gn.dropHeads (g : Gn) (u cls : Nat) : Nat → Gn
  | 0 => g
  | n + 1 =>
    let x := g.port (32 + u)
    match headOf cls x.sendQ with
    | none => g
    | some f =>
      if g.gateNever u cls f.beads then
        let g := (g.shaperSettle (4 * u + cls)).setPort (32 + u) { x with sendQ := removeFirst (fun e => e.cls == cls) x.sendQ }
        ((g.inc (F.lkGctl_gateDrop u)).record prodLinks 0x0908 3 (32 + u) 0 0 0 0).dropHeads u cls n
      else g

/-- Discard the heads of classes 1 to 3 that can never start. -/
def Gn.dropAllHeads (g : Gn) (u : Nat) : Gn :=
  forEach [1, 2, 3] (fun c g => g.dropHeads u c (g.port (32 + u)).sendQ.length) g

/-- The pending list of GN_LK_GATE[u]. -/
def Gn.pendingGate (g : Gn) (u : Nat) : Gate :=
  { ents := (List.range (g.rg (F.lkGctl_nent u))).map (fun e => (g.rg (F.lkGate_open (256 * u + e)), g.rg (F.lkGate_dur (256 * u + e)))),
    phase := g.rg (F.lkGctl_phaseNs u) }

/-- GATE_COMMIT (R199): armed for the next cycle start, or refused with `gate_err`, `nent` = 0 included. -/
def Gn.gateCommit (g : Gn) (u : Nat) : Gn :=
  let x := g.pendingGate u
  let cyc := gateCycle x.ents
  if x.ents.isEmpty || decide (256 < x.ents.length) || decide (cyc < 1000) || decide (1000000000 < cyc) || decide (cyc ≤ x.phase) then
    g.put (F.lkGctl_gateErr u) true
  else
    ({ g with lk := { g.lk with gates := SMap.set gateDefault g.lk.gates (2 + u) x } } : Gn).put (F.lkGctl_pend u) true

def execGateCommit (u : Nat) (s : State) : Host.Outcome State Fault Refusal := gnStep s (fun g => g.gateCommit u)

/-- GATE_CYCLE_START: the committed list becomes active (R199), and heads it can never start are discarded (R200). -/
def Gn.gateCycleStart (g : Gn) (u : Nat) : Gn :=
  if g.flag (F.lkGctl_pend u) then
    let x := SMap.get gateDefault g.lk.gates (2 + u)
    let gs := SMap.set gateDefault (SMap.set gateDefault g.lk.gates u x) (2 + u) (gateDefault 0)
    ((({ g with lk := { g.lk with gates := gs } } : Gn).put (F.lkGctl_pend u) false).dropAllHeads u).noteAsks u
  else g

def execGateCycleStart (u : Nat) (s : State) : Host.Outcome State Fault Refusal := gnStep s (fun g => g.gateCycleStart u)

/-! ### Sending (R189 to R191, R200, R203) -/

/-- An item goes out on a port, segmented; on up and foster an item of class 3 of 512 bytes or more is compressed while `z_en` is set (R203). -/
def Gn.sendBytes (g : Gn) (p typ cls : Nat) (b : List Byte) : Gn :=
  let z := (p == 32 || p == 33) && cls == 3 && decide (512 ≤ b.length) && g.flag F.lkZ_zEn
  g.sendSegments p typ cls z (if z then zWrite b else b)

/-- The 32 bytes of an event record (R258). -/
def RecIn.bytes (r : RecIn) : List Byte :=
  leBytes 8 r.ht ++ leBytes 2 r.code ++ leBytes 1 (r.sev + 8 * r.tq) ++ leBytes 1 (r.rep % 64) ++ leBytes 4 r.source.toNat ++ leBytes 4 r.p0.toNat
    ++ leBytes 4 r.p1.toNat ++ leBytes 4 r.p2.toNat ++ leBytes 4 r.p3.toNat

/-- Event records go upward on the report path, one item per class (R188). Which records a Ginath sends upward the manual does not say, and it calls the
records of a module internal to it: the model sends on those that frames have brought (DESIGN CHOICE, assumption log 22). -/
def Gn.sendRecords (g : Gn) (rs : List RecIn) : Gn :=
  match g.reportPort with
  | none => g
  | some p => forEach [1, 3] (fun c g =>
      let l := rs.filter (fun r => recordClass r.sev == c)
      if l.isEmpty then g else g.sendBytes p 0x10 c (l.flatMap RecIn.bytes)) g

/-- A frame may start as far as its link is concerned: credits of its class, and room among the unacknowledged for class 0. -/
def Port.canStart (x : Port) (f : Frame) : Bool := x.hasCredit f && (f.cls != 0 || decide (x.unack.length < 64))

/-- Start the first queued frame of a class: credits are spent, class 0 waits for its acknowledgment. -/
def Gn.startFrame (g : Gn) (p cls : Nat) (f : Frame) : Gn :=
  let x := g.port p
  let (g, f) := (g.setPort p { x with sendQ := removeFirst (fun e => e.cls == cls) x.sendQ }).putFrame p f
  let y := g.port p
  if cls = 0 then g.setPort p { y with unack := y.unack ++ [{ src := f.src, seq := f.seq, sent := 1, f := f }] } else g

/-- The frame larger than its class's whole credit, as the peer advertised it, at the head of a class is discarded and counted in `type_bad` (R190). -/
def Gn.dropHuge (g : Gn) (p cls : Nat) : Gn :=
  let x := g.port p
  match headOf cls x.sendQ with
  | some f => if x.whole.getD cls 0 < f.beads then
      let g := if p = 32 ∨ p = 33 then g.shaperSettle (4 * (p - 32) + cls) else g
      (g.setPort p { x with sendQ := removeFirst (fun e => e.cls == cls) x.sendQ }).inc (F.lkErr_typeBad p) else g
  | none => g

/-- FRAME_SEND: the next frame of a port. On up and foster: class 0, else the arbiter's choice among classes 1 to 3 that pass shaper, gates
and credits (R200). On other ports the lowest class that can start (assumption log 8). -/
def Gn.frameSend (g : Gn) (p : Nat) : Gn :=
  if !g.alive || !g.portRx p || 34 ≤ p then g else
  let g := forEach [0, 1, 2, 3] (fun c g => g.dropHuge p c) g
  let up := p == 32 || p == 33
  let u := p - 32
  let g := if up then g.dropAllHeads u else g
  let x := g.port p
  let ready := fun c => match headOf c x.sendQ with | some f => x.canStart f | none => false
  if up then
    match headOf 0 x.sendQ with
    | some f => if x.canStart f then g.startFrame p 0 f else g
    | none =>
      match g.arbitrate (129 + u) (g.upAsks u) with
      | (g, none) => g
      | (g, some i) => match headOf (i + 1) x.sendQ with
        | some f => (g.shaperPay (4 * u + i + 1) f.beads).startFrame p (i + 1) f
        | none => g
  else
    match [0, 1, 2, 3].find? ready with
    | none => g
    | some c => match headOf c x.sendQ with
      | some f => g.startFrame p c f
      | none => g

/-- KEEPALIVE_TIMER: 1 µs without a frame sent, in UP or TIME: a keep-alive frame is queued unless one waits already (R184). Tap groups only receive. -/
def Gn.keepaliveTimer (g : Gn) (p : Nat) : Gn :=
  let x := g.port p
  if !g.alive || 34 ≤ p || !g.portRx p || x.sendQ.any (fun f => f.typ == 0) then g
  else g.setPort p { x with sendQ := x.sendQ ++ [g.newFrame (.port p) 0x00 []] }

/-! ### Periodic warnings -/

/-- TAP_OVF_WARNING: 0x0907 while tap frames are dropped (R193). -/
def Gn.tapOvfWarning (g : Gn) : Gn :=
  if g.lk.tapDrops = 0 then g
  else
    let n := g.lk.tapDrops
    ({ g with lk := { g.lk with tapDrops := 0 } } : Gn).record prodLinks 0x0907 3 0 n 0 0 0

def execTapOvfWarning (s : State) : Host.Outcome State Fault Refusal := gnStep s Gn.tapOvfWarning

/-- LINK_TRAIN_FAIL_WARNING: 0x0905 while a port stays in TRAIN (R182). -/
def Gn.trainFailWarning (g : Gn) (p : Nat) : Gn :=
  if g.rg (F.lkStat_state p) = 1 then g.record prodLinks 0x0905 3 p 0 0 0 0 else g

def execLinkTrainFailWarning (p : Nat) (s : State) : Host.Outcome State Fault Refusal := gnStep s (fun g => g.trainFailWarning p)

/-- UNMAPPED_SOURCE_WARNING: one record per port while frames of sites missing from the rank map arrive (R16); kind 18, `p0` their number. -/
def Gn.unmappedWarning (g : Gn) (p : Nat) : Gn :=
  let n := SMap.get (fun _ => 0) g.lk.unmapped p
  if n = 0 then g
  else
    let m := SMap.set (fun _ => 0) g.lk.unmapped p 0
    ({ g with lk := { g.lk with unmapped := m } } : Gn).record prodLinks (Config.recCode 18).toNat 3 p n 0 0 0

def execUnmappedSourceWarning (p : Nat) (s : State) : Host.Outcome State Fault Refusal := gnStep s (fun g => g.unmappedWarning p)

end Sys2Proof.Machine
end

