-- ==== Sys2Proof/Machine/Ens.lean ====
section
/-! DEFINITION. Tree ensembles (chapter 05), the parts that need no running task: quantizers, staging checks, node store, slots, swaps,
scrubbing. -/

namespace Sys2Proof.Machine

/-! ### Ordinal codes (R85 to R88) -/

/-- Round sig × 2^q toward minus infinity into binary32 (R87); a positive overflow gives the largest finite value. -/
def rdRound (sig q : Int) : Int × Int :=
  if sig = 0 then (0, 0)
  else
    let e := (sig.natAbs.log2 : Int) + q
    let u := max e (-126) - 23
    let r := if u ≤ q then (sig, q) else (Int.fdiv sig ((2 ^ (u - q).toNat : Nat) : Int), u)
    if 127 < e ∧ 0 < sig then (16777215, 104) else r

/-- floor(sig × 2^q). -/
def floorVal (sig q : Int) : Int :=
  if 0 ≤ q then sig * ((2 ^ q.toNat : Nat) : Int) else Int.fdiv sig ((2 ^ (-q).toNat : Nat) : Int)

/-- Code of a linear quantizer. -/
def quantLinear (x scale offset : Nat) : Nat :=
  let (st, px, qx) := decodeElem 7 x
  match st with
  | .pinf => 0xFFFE
  | .ninf => 0
  | .nan => 0xFFFF
  | .finite =>
    let (_, po, qo) := decodeElem 7 offset
    let (_, ps, qs) := decodeElem 7 scale
    let d := exactAdd px qx (-po) qo
    let s := rdRound d.1 d.2
    let t := rdRound (s.1 * ps) (s.2 + qs)
    let f := floorVal t.1 t.2
    if t.1 < 0 then 0 else if 65534 ≤ f then 0xFFFE else f.toNat

/-- Positive edges at or below a > 0 (routine at_or_below), with P = `p`. -/
def atOrBelow (eLo eHi : Int) (s p a : Nat) : Nat :=
  let e : Int := (bits a 23 8 : Nat) - 127
  if bits a 23 8 = 0 ∨ e < eLo then 0
  else if eHi < e then p
  else ((e - eLo).toNat * 2 ^ s) + bits a (23 - s) s + 1

/-- Positive edge j as binary32 code. -/
def edgeCode (eLo : Int) (s j : Nat) : Nat := ((eLo + (j / 2 ^ s : Nat) + 127).toNat) * 2 ^ 23 + (j % 2 ^ s) * 2 ^ (23 - s)

/-- Edges strictly below a (routine strictly_below). -/
def strictlyBelow (eLo eHi : Int) (s p a : Nat) : Nat :=
  let j := atOrBelow eLo eHi s p a
  if 0 < j ∧ edgeCode eLo s (j - 1) = a then j - 1 else j

/-- Ordinal code of one FP32 value (routine quantize of R88); `pool` reads the boundary pool. -/
def quantize (q : Nat) (pool : Nat → Nat) (x : Nat) : Nat :=
  let x := if x = 0x80000000 then 0 else x
  let isNan := bits x 23 8 == 255 && bits x 0 23 != 0
  let qk := bits q 0 4
  if isNan || qk == 3 then 0xFFFF
  else if qk = 0 then quantLinear x (bits q 32 32) (bits q 64 32)
  else if qk = 2 then
    ((List.range (bits q 64 16)).filter (fun i => fpLt x (pool (bits q 32 22 + i)) == some false)).length
  else
    let s := bits q 8 4
    let eLo := sext 8 (bits q 16 8)
    let eHi := sext 8 (bits q 24 8)
    let p := (eHi - eLo + 1).toNat * 2 ^ s
    let pos := bit q 4
    if x = 0 then (if pos then 0 else p + 1)
    else if !bit x 31 then (if pos then 0 else p + 1) + atOrBelow eLo eHi s p x
    else if pos then 0
    else p - strictlyBelow eLo eHi s p (x - 2 ^ 31)

/-- A finite binary32 code. -/
def fpFinite (x : Nat) : Bool := bits x 23 8 != 255

/-- The first field of a quantizer record that breaks the table of R86 or the boundaries per quantizer of R99, by its byte offset: its kind's fields in
range, every other field 0. -/
def qrecFieldBad (q : Nat) : Option Nat :=
  let k := bits q 0 4
  let eLo := sext 8 (bits q 16 8)
  let eHi := sext 8 (bits q 24 8)
  if 3 < k || bits q 5 3 != 0 || (k != 1 && bits q 4 1 != 0) then some 0
  else if bits q 12 4 != 0 || (if k = 1 then decide (8 < bits q 8 4) else bits q 8 4 != 0) then some 1
  else if (if k = 1 then decide (eLo < -126) else bits q 16 8 != 0) then some 2
  else if (if k = 1 then decide (eHi < eLo) else bits q 24 8 != 0) then some 3
  else if (if k = 0 then !fpFinite (bits q 32 32) || bit q 63 || bits q 32 31 == 0 else if k = 2 then bits q 54 10 != 0 else bits q 32 32 != 0) then some 4
  else if (if k = 0 then !fpFinite (bits q 64 32)
           else if k = 2 then bits q 80 16 != 0 || decide (bits q 64 16 < 1) || decide (65534 < bits q 64 16) else bits q 64 32 != 0) then some 8
  else if bits q 96 32 != 0 then some 12
  else none

/-- The boundaries of a table record lie inside the epoch's range [bBase, bBase + count) (R88; assumption log 40). -/
def qrecInRange (q bBase : Nat) (bounds : List Nat) : Bool :=
  bits q 0 4 != 2 || (decide (bBase ≤ bits q 32 22) && decide (bits q 32 22 + bits q 64 16 ≤ bBase + bounds.length))

/-- A quantizer record obeys R87: the highest code of a log2 kind, finite and strictly ascending edges of a table. -/
def qrecValues (q bBase : Nat) (bounds : List Nat) : Bool :=
  match bits q 0 4 with
  | 1 =>
    let p := (sext 8 (bits q 24 8) - sext 8 (bits q 16 8) + 1).toNat * 2 ^ bits q 8 4
    decide ((if bit q 4 then p else 2 * p + 1) ≤ 0xFFFE)
  | 2 =>
    let es := (bounds.drop (bits q 32 22 - bBase)).take (bits q 64 16)
    es.all fpFinite && (es.zip (es.drop 1)).all (fun e => fpLt e.1 e.2 == some true)
  | _ => true

/-- A quantizer record obeys R86 to R88. -/
def qrecOk (q bBase : Nat) (bounds : List Nat) : Bool := (qrecFieldBad q).isNone && qrecValues q bBase bounds && qrecInRange q bBase bounds

/-! ### Panels (R89 to R94) -/

/-- Parse a panel. -/
def parsePanel (p : PanelIn) : Panel :=
  let h := p.hdr
  { num := u8 h 0, hbm := u8 h 1 == 1, cmask := u16 h 2, rows := u32 h 4, rowBase := u32 h 8, setBase := u16 h 12, setRows := u16 h 14,
    trees := (List.range 16).map (fun b => u16 h (16 + 2 * b)), nodes := p.nodes, sets := p.sets }

/-- A panel's node word, 0 where the host staged none. -/
def Panel.node (p : Panel) (b r : Nat) : Word :=
  match p.nodes.find? (fun n => n.1 == b && n.2.1 == r) with
  | some n => n.2.2
  | none => 0

/-- The first field of a panel header that breaks R94, by its byte offset. -/
def panelHdrBad (npanel : Nat) (raw : PanelIn) : Option Nat :=
  let h := raw.hdr
  let p := parsePanel raw
  if h.length != 128 || u32 h 124 != crc32c (h.take 124) then some 124
  else if decide (npanel ≤ p.num) then some 0
  else if decide (1 < u8 h 1) then some 1
  else if decide (p.rows < 1) || decide ((if p.hbm then 1048576 else 65536) < p.rows) then some 4
  else if (if p.hbm then p.rowBase % 16 != 0 else decide (65536 < p.rowBase + p.rows)) then some 8
  else if decide (256 < p.setBase + p.setRows) then some 14
  else if !p.trees.all (fun t => decide (t ≤ p.rows)) then some 16
  else if !zeroBytes h 64 124 then some 64
  else none

/-- The search over reached nodes (R92): work list of (bank, row, splits above), nodes seen, leaf values. None: a condition fails. -/
def reach (p : Panel) (nfeat nout : Nat) : Nat → List (Nat × Nat × Nat) → List (Nat × Nat) → List Nat → Option (List Nat)
  | _, [], _, leaves => some leaves
  | 0, _ :: _, _, _ => none
  | fuel + 1, (b, r, d) :: work, seen, leaves =>
    let w := (p.node b r).toNat
    let kind := bits w 62 2
    if seen.contains (b, r) || decide (32 < d) || decide (p.rows ≤ r) then none
    else if kind = 2 then
      if bits w 40 22 = 0 ∧ bits w 32 8 < nout ∧ fpFinite (bits w 0 32) then
        reach p nfeat nout fuel work ((b, r) :: seen) (bits w 0 32 :: leaves)
      else none
    else if kind = 3 then none
    else
      let l := bits w 8 24
      let lb := l / 2 ^ 20
      let lr := l % 2 ^ 20
      let resvOk := if kind = 0 then bits w 0 8 == 0 else bits w 32 16 == 0 && decide (bits w 0 8 < p.setRows)
      if resvOk && decide (bits w 48 13 < nfeat) && lb == b && decide (lr < 0xFFFFF) && decide (lr + 1 < p.rows)
          && decide (p.trees.getD b 0 ≤ lr) && decide (d < 32) then
        reach p nfeat nout fuel ((b, lr, d + 1) :: (b, lr + 1, d + 1) :: work) ((b, r) :: seen) leaves
      else none

/-- Roots of a panel. -/
def Panel.roots (p : Panel) : List (Nat × Nat × Nat) :=
  (List.range 16).flatMap (fun b => (List.range (p.trees.getD b 0)).map (fun r => (b, r, 0)))

/-- Leaf values of a panel that obeys R92. A reached node that the host staged as zero fails, so the nodes staged bound the search. -/
def panelLeaves (nfeat nout : Nat) (p : Panel) : Option (List Nat) :=
  reach p nfeat nout (p.nodes.length + p.roots.length + 1) p.roots [] []

/-- Two ranges [a, a + n) and [b, b + m) meet. -/
def rangesMeet (a n b m : Nat) : Bool := decide (0 < n) && decide (0 < m) && decide (a < b + m) && decide (b < a + n)

/-- Two panels share node rows or HBM range: what R105 step 2 names. Set rows that an old panel still counted shares hold no new panel back (log 40). -/
def panelRowsMeet (a b : Panel) : Bool :=
  (a.hbm && b.hbm && rangesMeet a.rowBase (16 * a.rows) b.rowBase (16 * b.rows))
    || (!a.hbm && !b.hbm && a.cmask &&& b.cmask != 0 && rangesMeet a.rowBase a.rows b.rowBase b.rows)

/-- Two panels share set rows. -/
def panelSetsMeet (a b : Panel) : Bool := a.cmask &&& b.cmask != 0 && rangesMeet a.setBase a.setRows b.setBase b.setRows

/-! ### Slots -/

def ensEmpty : Ens :=
  { st := .empty, cur := none, new := none, left := [], writing := [], refs := [], old := [], damaged := [], written := [], hdr := none,
    input := none }

def Gn.ens (g : Gn) (n : Nat) : Ens := SMap.get (fun _ => ensEmpty) g.ts.slots n

def Gn.setEns (g : Gn) (n : Nat) (x : Ens) : Gn :=
  { g with ts := { g.ts with slots := SMap.set (fun _ => ensEmpty) g.ts.slots n x } }

/-- Every epoch of a slot that is resident, being staged or still referenced. -/
def Ens.epochs (e : Ens) : List Epoch := e.cur.toList ++ e.new.toList ++ e.old

/-- Find an epoch of a slot. -/
def Ens.find (e : Ens) (n : Nat) : Option Epoch := e.epochs.find? (fun x => x.epoch == n)

/-- An epoch as its header, records, boundary values and panels spell it (R101); a −0 edge is stored as +0 (R87). The anchor waits for the checks. -/
def parseEpoch (e : EnsIn) : Epoch :=
  { epoch := u32 e.hdr 4, nfeat := u16 e.hdr 8, nout := u16 e.hdr 10, qrecs := e.qrecs, bBase := u32 e.hdr 32,
    bounds := e.bounds.map (fun b => if b = 0x80000000 then 0 else b), panels := e.panels.map parsePanel, anchor := noAnchor }

/-- Bytes of a staging copy (R104). -/
def Epoch.size (x : Epoch) : Nat :=
  64 + 16 * x.nfeat + 4 * x.bounds.length + x.panels.foldl (fun s p => s + 128 + 128 * p.rows + 512 * p.setRows) 0

/-- What a staging check found: the check's number, the field (its byte offset in its structure) and the index of the structure. -/
abbrev StageBad := Nat × Nat × Nat

/-- The header agrees with its `crc`, with the lengths of what it names and with the slot (R101): check 1. -/
def Gn.headerBad (g : Gn) (e : EnsIn) (repair : Bool) : Option StageBad :=
  let h := e.hdr
  let x := parseEpoch e
  let curOk := match (g.ens (u8 h 0)).cur with
    | none => !repair && decide (1 ≤ x.epoch)
    | some c => if repair then x.epoch == c.epoch else decide (c.epoch < x.epoch)
  if h.length != 64 || u32 h 60 != crc32c (h.take 60) then some (1, 60, 0)
  else if !curOk then some (1, 4, 0)
  else none

/-- First index of a list that fails a test, as a check's outcome. -/
def firstBad {α : Type} (chk : Nat) (l : List α) (f : α → Option Nat) : Option StageBad :=
  l.zipIdx.findSome? (fun e => (f e.1).map (fun fld => (chk, fld, e.2)))

/-- A panel that shares node rows or HBM range (field row_base, 8) or set rows (set_base, 12) with a panel of other epochs (R99). -/
def sharedField (others : List Epoch) (p : Panel) : Option Nat :=
  let qs := others.flatMap (·.panels)
  if qs.any (panelRowsMeet p) then some 8 else if qs.any (panelSetsMeet p) then some 12 else none

/-- A panel number belongs to one panel of its ensemble (R94; DEDUCED, log 40): the first panel that repeats one. -/
def numRepeats (ps : List Panel) : Option StageBad :=
  firstBad 6 (ps.zipIdx) (fun p => if (ps.take p.2).any (fun q => q.num == p.1.num) then some 0 else none)

/-- The limits of R99, by field: npanel 2, nfeat 8, nout 10, b_count 36 of the header; trees 16, row_base 8, set_base 12 of a panel. Only panels of two
epochs may not overlap: an epoch's own panels may share rows. -/
def limitBad (x : Epoch) (e : EnsIn) (others : List Epoch) (repair : Bool) : Option StageBad :=
  let np := u16 e.hdr 2
  if decide (np < 1) || decide (256 < np) || e.panels.length != np then some (7, 2, 0)
  else if decide (x.nfeat < 1) || decide (8192 < x.nfeat) || e.qrecs.length != x.nfeat then some (7, 8, 0)
  else if decide (x.nout < 1) || decide (256 < x.nout) then some (7, 10, 0)
  else if decide (4194304 < x.bBase + u32 e.hdr 36) || x.bounds.length != u32 e.hdr 36 then some (7, 36, 0)
  else if decide (65536 < (x.panels.map (fun p => p.trees.sum)).sum) then some (7, 16, 0)
  else if let some b := firstBad 7 x.panels (fun p => if p.hbm && decide (2 ^ 30 < p.rowBase + 16 * p.rows) then some 8 else none) then some b
  else if repair then none
  else firstBad 7 x.panels (sharedField others)

/-- The checks of R104 in the order listed, after the header (check 1) and the size of the copy (check 8, R57): R86 2, R87 3, R88 4, R92 5, R94 6, R99 7. -/
def Gn.stageCheck (g : Gn) (e : EnsIn) (repair : Bool) : Except StageBad Epoch :=
  let slot := u8 e.hdr 0
  let x := parseEpoch e
  let bs := x.bounds.map (·.toNat)
  let me := g.ens slot
  let rest := (g.ts.slots.filter (fun s => s.1 != slot)).flatMap (fun s => s.2.epochs) ++ me.old
  let leaves := x.panels.map (panelLeaves x.nfeat x.nout)
  let ranges := rest ++ me.cur.toList
  match g.headerBad e repair with
  | some b => .error b
  | none =>
    if 2 ^ 31 < x.size then .error (8, lo32 x.size, hi32 x.size)
    else if let some b := firstBad 2 x.qrecs (fun q => qrecFieldBad q.toNat) then .error b
    else if let some b := firstBad 3 x.qrecs (fun q => if qrecValues q.toNat x.bBase bs then none else some 4) then .error b
    else if let some b := firstBad 4 x.qrecs (fun q => if qrecInRange q.toNat x.bBase bs then none else some 4) then .error b
    else if !repair && ranges.any (fun y => rangesMeet x.bBase x.bounds.length y.bBase y.bounds.length) then .error (4, 32, 0)
    else if let some b := firstBad 5 leaves (fun l => if l.isSome then none else some 48) then .error b
    else if let some b := firstBad 6 e.panels (panelHdrBad (u16 e.hdr 2)) then .error b
    else if let some b := numRepeats x.panels then .error b
    else match limitBad x e rest repair with
      | some b => .error b
      | none => .ok { x with anchor := anchorFp32 (leaves.flatMap (fun l => l.getD [])) }

/-- Key of a node word in a slice, of a set row, of a boundary. -/
def nodeKey (c b row : Nat) : Nat := c * 2 ^ 20 + b * 65536 + row
def setKey (c b row : Nat) : Nat := c * 4096 + b * 256 + row

/-- Write a panel's nodes into one cluster's slice (R94): rows the host staged nothing for hold 0; a written word has no flipped bit. -/
def Gn.writeSlice (g : Gn) (p : Panel) (c : Nat) : Gn :=
  let inP := fun k => k / 2 ^ 20 == c && decide (p.rowBase ≤ k % 65536) && decide (k % 65536 < p.rowBase + p.rows)
  let blank := g.ts.store.filter (fun e => !inP e.1)
  let st := p.nodes.foldl (fun m n => if n.2.1 < p.rows then SMap.set (fun _ => (0 : Word)) m (nodeKey c n.1 (p.rowBase + n.2.1)) n.2.2 else m) blank
  { g with ts := { g.ts with store := st, nodeFlips := g.ts.nodeFlips.filter (fun e => !inP e.1) } }

/-- Write a panel's sets into one cluster's set table (R94). -/
def Gn.writeSets (g : Gn) (p : Panel) (c : Nat) : Gn :=
  let inP := fun k => k / 4096 == c && decide (p.setBase ≤ k % 256) && decide (k % 256 < p.setBase + p.setRows)
  let blank := g.ts.sets.filter (fun e => !inP e.1)
  let se := p.sets.foldl (fun m n => if n.2.1 < p.setRows then SMap.set (fun _ => (0 : BitVec 256)) m (setKey c n.1 (p.setBase + n.2.1)) n.2.2 else m)
    blank
  { g with ts := { g.ts with sets := se, setFlips := g.ts.setFlips.filter (fun e => !inP (e.1 / 4)) } }

/-- Write a panel's nodes into the HBM overflow region (R94). -/
def Gn.writeHbm (g : Gn) (p : Panel) : Gn :=
  let blank := g.ts.beyond.filter (fun e => !(decide (p.rowBase ≤ e.1) && decide (e.1 < p.rowBase + 16 * p.rows)))
  let ov := p.nodes.foldl (fun m n => if n.2.1 < p.rows then SMap.set (fun _ => (0 : Word)) m (p.rowBase + n.1 * p.rows + n.2.1) n.2.2 else m) blank
  { g with ts := { g.ts with beyond := ov } }

/-- Write one cluster's replica of a panel: its slice rows, and its sets. -/
def Gn.writeReplica (g : Gn) (p : Panel) (c : Nat) : Gn := (if p.hbm then g else g.writeSlice p c).writeSets p c

/-- Write a new panel: HBM nodes once, and every replica (R105). -/
def Gn.writePanel (g : Gn) (p : Panel) : Gn :=
  let g := if p.hbm then g.writeHbm p else g
  forEach (setBits 16 p.cmask) (fun c g => g.writeReplica p c) g

/-- Reference count of an object of an epoch: a panel number, or 65,535 for the quantizer set (R103). -/
def Ens.ref (e : Ens) (epoch obj : Nat) : Nat := match e.refs.find? (fun r => r.1 == epoch && r.2.1 == obj) with | some r => r.2.2 | none => 0

/-- Add to a reference count; a count of 0 is not kept. -/
def Ens.addRef (e : Ens) (epoch obj n : Nat) : Ens :=
  let rest := e.refs.filter (fun r => !(r.1 == epoch && r.2.1 == obj))
  let v := e.ref epoch obj + n
  { e with refs := if v = 0 then rest else rest ++ [(epoch, obj, v)] }

/-- Take from a reference count. -/
def Ens.subRef (e : Ens) (epoch obj n : Nat) : Ens :=
  let rest := e.refs.filter (fun r => !(r.1 == epoch && r.2.1 == obj))
  let v := e.ref epoch obj - n
  { e with refs := if v = 0 then rest else rest ++ [(epoch, obj, v)] }

/-- Old epochs whose counts are all zero are retired (R106); damage marks of an epoch go with it. -/
def Ens.retire (e : Ens) : Ens :=
  let old := e.old.filter (fun x => e.refs.any (fun r => r.1 == x.epoch))
  { e with old := old, damaged := e.damaged.filter (fun d => (e.cur.toList ++ e.new.toList ++ old).any (fun x => x.epoch == d.1)) }

/-- Every count of the slot is zero. -/
def Ens.idle (e : Ens) : Bool := e.refs.isEmpty

/-- The barrier of a slot is closed (R102): COMMIT, or unloading. -/
def Ens.closed (e : Ens) : Bool := e.st == .commit || e.st == .unloading

/-- The slots an image's tasks are model tasks of (R95). -/
def Gn.imgSlots (g : Gn) (num : Nat) : List Nat :=
  match g.sq.images.find? (fun i => i.num == num) with
  | some i => i.img.ensSlots.eraseDups
  | none => []

/-- The barrier opens: model tasks of unbound instances that wait there become ready now (R102, R105). -/
def Gn.openBarrier (g : Gn) (slot : Nat) : Gn :=
  let stamp := fun (gr : Graph) (i : Inst) =>
    let ts := i.ts.zipIdx.map (fun e => match e.1 with
      | .ready _ => (match gr.tasks[e.2]? with
          | some t => if t.kind == 0 && (g.imgSlots t.image).contains slot && !i.bind.any (fun b => b.1 == slot) then .ready g.now else e.1
          | none => e.1)
      | _ => e.1)
    { i with ts := ts }
  let gs := g.sq.graphs.map (fun gr => { gr with insts := gr.insts.map (stamp gr) })
  { g with sq := { g.sq with graphs := gs } }

/-- An unloading slot whose counts are all zero becomes EMPTY and its descriptor completes (R106). -/
def Gn.ensSettle (g : Gn) (slot : Nat) : Gn :=
  let e := g.ens slot
  if e.st == .unloading && e.idle then
    let g := (g.setEns slot ensEmpty).openBarrier slot
    match e.hdr with
    | some h => g.complete 0x09 h stOk []
    | none => g
  else g.setEns slot e.retire

/-- A staging that was refused (R104, R99, R57): FAILED with an error record of kind 14: `p0` slot, `p1` the first check that failed, `p2` the field, `p3` the
index of the structure that holds it; for check 8 `p2` and `p3` are the size of the copy (assumption log 12). -/
def Gn.ensRefuse (g : Gn) (h : DescHdr) (slot : Nat) (b : StageBad) : Gn :=
  (g.record prodSeq (Config.recCode 14).toNat 4 slot slot b.1 b.2.1 b.2.2).failed 0x08 h (Config.recCode 14).toNat b.1

/-- The panel of the current epoch that a repair panel repairs: the same number, place and trees (R106). -/
def Ens.repairs (e : Ens) (p : Panel) : Option Panel :=
  match e.cur with
  | none => none
  | some ep => ep.panels.find? (fun q => q.num == p.num && { q with nodes := p.nodes, sets := p.sets } == p)

/-- A repair load (R106): only replicas marked damaged are written, at the place of the current panel, and their marks go. -/
def Gn.ensRepair (g : Gn) (h : DescHdr) (slot : Nat) (ep : Epoch) : Gn :=
  let me := g.ens slot
  match firstBad 6 ep.panels (fun p => if (me.repairs p).isSome then none else some 8) with
  | some b => g.ensRefuse h slot b
  | none =>
    let fix := me.damaged.filter (fun d => d.1 == ep.epoch && ep.panels.any (fun p => p.num == d.2.2))
    let g := forEach fix (fun d g => match ep.panels.find? (fun p => p.num == d.2.2) with
      | some p => g.writeReplica p d.2.1
      | none => g) g
    let me := g.ens slot
    (g.setEns slot { me with damaged := me.damaged.filter (fun d => !fix.contains d) }).complete 0x08 h stOk [ep.epoch, slot]

/-- ENS_STAGE or a repair load, by the header's `repair` (R100, R101, R104, R106). A slot of 64 or more is INVALID with a record that names the field
(R99). A new epoch enters STAGING; its checks follow its copy (STAGING_DONE). -/
def Gn.ensLoad (g : Gn) (h : DescHdr) (e : EnsIn) : Gn :=
  let slot := u8 e.hdr 0
  let rep := u8 e.hdr 1
  if 64 ≤ slot then (g.record prodSeq (Config.recCode 14).toNat 4 slot slot 7 0 0).complete 0x08 h stInvalid []
  else if decide (2 ≤ rep) || !zeroBytes e.hdr 12 16 || !zeroBytes e.hdr 48 60 then g.complete 0x08 h stInvalid []
  else
    let me := g.ens slot
    if me.st != .empty && me.st != .ready then
      (g.record prodSeq (Config.recCode 14).toNat 4 slot slot 0 0 0).complete 0x08 h stRefused []
    else if rep = 1 then
      match g.stageCheck e true with
      | .error b => g.ensRefuse h slot b
      | .ok ep => g.ensRepair h slot ep
    else g.setEns slot { me with st := .staging, new := some (parseEpoch e), hdr := some h, input := some e }

def execEnsStage (h : DescHdr) (e : EnsIn) (s : State) : Host.Outcome State Fault Refusal :=
  gnStep s (fun g => g.desc 0x08 ruleS h (fun g => g.ensLoad h e))

def execEnsRepair (h : DescHdr) (e : EnsIn) (s : State) : Host.Outcome State Fault Refusal :=
  gnStep s (fun g => g.desc 0x08 ruleS h (fun g => g.ensLoad h e))

/-- ENS_UNLOAD (R100, R106): refused in STAGING or COMMIT; an EMPTY slot is EMPTY at once. -/
def Gn.ensUnload (g : Gn) (h : DescHdr) (slot : Nat) : Gn :=
  if 64 ≤ slot then g.complete 0x09 h stInvalid []
  else
    let e := g.ens slot
    match e.st with
    | .empty => g.complete 0x09 h stOk []
    | .ready => (g.setEns slot { e with st := .unloading, hdr := some h }).ensSettle slot
    | _ => (g.record prodSeq (Config.recCode 14).toNat 4 slot slot 0 0 0).complete 0x09 h stRefused []

def execEnsUnload (h : DescHdr) (slot : Nat) (s : State) : Host.Outcome State Fault Refusal :=
  gnStep s (fun g => g.desc 0x09 ruleS h (fun g => g.ensUnload h slot))

/-- The state a slot is in without its staging. -/
def Ens.unstaged (e : Ens) : Ens :=
  { e with st := if e.cur.isSome then .ready else .empty, new := none, hdr := none, input := none }

/-- STAGING_DONE (R104, R105): the checks run on the copy. A failure drops it and the slot returns to its previous state; else COMMIT, the barrier closes,
the boundary values are written into their pool range. -/
def Gn.stagingDone (g : Gn) (slot : Nat) : Gn :=
  let e := g.ens slot
  match e.st, e.input, e.hdr with
  | .staging, some x, some h =>
    (match g.stageCheck x false with
     | .error b => (g.setEns slot e.unstaged).ensRefuse h slot b
     | .ok ep =>
       let pool := SMap.setList (fun _ => (0 : Word32)) g.ts.pool ep.bBase ep.bounds
       let g := { g with ts := { g.ts with pool := pool } }
       g.setEns slot { e with st := .commit, new := some ep, left := (ep.panels.map (·.num)).mergeSort, written := [], input := none })
  | _, _, _ => g

def execStagingDone (slot : Nat) (s : State) : Host.Outcome State Fault Refusal := gnStep s (fun g => g.stagingDone slot)

/-- A new panel may be written: every old-epoch panel it overlaps has count zero (R105 step 2). -/
def Ens.eligible (e : Ens) (p : Panel) : Bool :=
  (e.cur.toList ++ e.old).all (fun x => x.panels.all (fun q => !panelRowsMeet p q || e.ref x.epoch q.num == 0))

/-- Two panels are written to a common target: the same slice, or both to HBM. -/
def sameTarget (a b : Panel) : Bool := (a.hbm && b.hbm) || (!a.hbm && !b.hbm && a.cmask &&& b.cmask != 0)

/-- PANEL_WRITE_START (R105): an eligible panel, the lowest of its epoch on its target; one write at a time per target, over all slots. -/
def Gn.panelWriteStart (g : Gn) (slot num : Nat) : Gn :=
  let e := g.ens slot
  match e.st, e.new with
  | .commit, some ep =>
    (match ep.panels.find? (fun p => p.num == num) with
     | none => g
     | some p =>
       let busy := g.ts.slots.any (fun s => s.2.st == .commit && s.2.new.toList.any (fun y => y.panels.any (fun q =>
         s.2.writing.contains q.num && sameTarget p q)))
       let lower := ep.panels.any (fun q => e.left.contains q.num && !e.writing.contains q.num && decide (q.num < num) && sameTarget p q
         && e.eligible q)
       if e.left.contains num && !e.writing.contains num && e.eligible p && !busy && !lower then
         g.setEns slot { e with writing := e.writing ++ [num] }
       else g)
  | _, _ => g

def execPanelWriteStart (slot panel : Nat) (s : State) : Host.Outcome State Fault Refusal := gnStep s (fun g => g.panelWriteStart slot panel)

/-- The new epoch admits: READY in one cycle, the barrier opens (R105 step 3). -/
def Gn.ensCommit (g : Gn) (slot : Nat) : Gn :=
  let e := g.ens slot
  match e.new with
  | none => g
  | some ep =>
    let e := { e with st := .ready, cur := some ep, new := none, writing := [], old := e.old ++ e.cur.toList, written := [], hdr := none }
    let h := (g.ens slot).hdr
    let g := ((g.setEns slot e.retire).inc (F.tsState_swaps slot)).openBarrier slot
    match h with
    | some h => g.complete 0x08 h stOk [ep.epoch, slot]
    | none => g

/-- PANEL_WRITE_DONE: the panel's replicas and sets stand, `pan_left` falls; the last one ends the commit. -/
def Gn.panelWriteDone (g : Gn) (slot num : Nat) : Gn :=
  let e := g.ens slot
  match e.st, e.new with
  | .commit, some ep =>
    (match ep.panels.find? (fun p => p.num == num) with
     | none => g
     | some p =>
       if e.writing.contains num then
         g.viaHbm 19 (hbmPanels + 8 * p.rowBase) (if p.hbm then 128 * p.rows else 0) fun g =>
         let g := g.writePanel p
         let e := g.ens slot
         let e := { e with writing := e.writing.filter (fun x => x != num), left := e.left.filter (fun x => x != num), written := e.written ++ [num] }
         let g := g.setEns slot e
         if e.left.isEmpty then g.ensCommit slot else g
       else g)
  | _, _ => g

def execPanelWriteDone (slot panel : Nat) (s : State) : Host.Outcome State Fault Refusal := gnStep s (fun g => g.panelWriteDone slot panel)

/-! ### Node-store ECC (R98) -/

/-- A panel of a cluster holds a node row of the slice, or a set row. -/
def Panel.holds (p : Panel) (c row : Nat) (isSet : Bool) : Bool :=
  p.cmask.testBit c &&
    (if isSet then decide (p.setBase ≤ row) && decide (row < p.setBase + p.setRows)
     else !p.hbm && decide (p.rowBase ≤ row) && decide (row < p.rowBase + p.rows))

/-- Panels of a slot that stand in the store now, with their epoch: new panels already written, panels of the admitting epoch that no new one has
overwritten, and panels of old epochs that are still referenced. -/
def Ens.standing (e : Ens) : List (Nat × Panel) :=
  let new := e.new.toList.flatMap (fun x => (x.panels.filter (fun p => e.written.contains p.num)).map (fun p => (x.epoch, p)))
  let gone := fun (p : Panel) => new.any (fun n => panelRowsMeet n.2 p)
  let cur := e.cur.toList.flatMap (fun x => (x.panels.filter (fun p => !gone p)).map (fun p => (x.epoch, p)))
  let old := e.old.flatMap (fun x => (x.panels.filter (fun p => e.ref x.epoch p.num != 0)).map (fun p => (x.epoch, p)))
  new ++ cur ++ old

/-- The panel replicas of a cluster that hold a node row or a set row: (slot, epoch, panel). -/
def Gn.replicasAt (g : Gn) (c row : Nat) (isSet : Bool) : List (Nat × Nat × Nat) :=
  g.ts.slots.flatMap (fun s => (s.2.standing.filter (fun p => p.2.holds c row isSet)).map (fun p => (s.1, p.1, p.2.num)))

/-- Count a node-store error; an uncorrectable one loads `ue_loc`, `ue_scrub` and `ue_valid` while `ue_valid` is 0. An error outside every panel, which no
record names, loads them too (the model's choice, log 40). -/
def Gn.nodeErr (g : Gn) (c bank row : Nat) (isSet : Bool) (quarter : Nat) (multi scrub : Bool) : Gn :=
  if !multi then g.inc (F.clNode_ceCount c)
  else
    let g := g.inc (F.clNode_ueCount c)
    if g.flag (F.clNode_ueValid c) then g
    else
      let loc := bank * 65536 + (if isSet then 32768 + quarter * 256 + row % 256 else row)
      ((g.wr (F.clNode_ueLoc c) loc).put (F.clNode_ueScrub c) scrub).put (F.clNode_ueValid c) true

/-- Error record of an uncorrectable node-store error, kind 17: `p0` location, `p1` 1 when the scrubber found it. -/
def Gn.nodeRecord (g : Gn) (c bank row : Nat) (isSet scrub : Bool) : Gn :=
  g.recordIsl c (Config.recCode 17).toNat 4 c (bank * 65536 + row) (b2n scrub) (b2n isSet) 0

/-- Flipped bits of a node word, or of a quarter of a set row. -/
def Gn.flipsAt (g : Gn) (c bank row : Nat) (isSet : Bool) (quarter : Nat) : Nat :=
  if isSet then SMap.get (fun _ => 0) g.ts.setFlips (setKey c bank (row % 256) * 4 + quarter % 4)
  else SMap.get (fun _ => 0) g.ts.nodeFlips (nodeKey c bank (row % 65536))

def Gn.setFlips (g : Gn) (c bank row : Nat) (isSet : Bool) (quarter m : Nat) : Gn :=
  if isSet then { g with ts := { g.ts with setFlips := SMap.set (fun _ => 0) g.ts.setFlips (setKey c bank (row % 256) * 4 + quarter % 4) m } }
  else { g with ts := { g.ts with nodeFlips := SMap.set (fun _ => 0) g.ts.nodeFlips (nodeKey c bank (row % 65536)) m } }

/-- An upset flips one of the 72 bits of a node word or set quarter. -/
def Gn.nodeUpset (g : Gn) (c bank row : Nat) (isSet : Bool) (quarter bit : Nat) : Gn :=
  g.setFlips c (bank % 16) row isSet quarter (g.flipsAt c (bank % 16) row isSet quarter ^^^ 2 ^ (bit % 72))

/-- Mark a replica damaged (R98). -/
def Gn.damageReplica (g : Gn) (c : Nat) (x : Nat × Nat × Nat) : Gn :=
  let en := g.ens x.1
  if en.damaged.contains (x.2.1, c, x.2.2) then g else g.setEns x.1 { en with damaged := en.damaged ++ [(x.2.1, c, x.2.2)] }

/-- The scrubber reads one word (R98): a single flipped bit is corrected and written back; more are uncorrectable, recorded and mark the replicas. -/
def Gn.scrubWord (g : Gn) (c bank row : Nat) (isSet : Bool) (quarter : Nat) : Gn :=
  let n := popcount 72 (g.flipsAt c bank row isSet quarter)
  if n = 0 then g
  else if n = 1 then (g.nodeErr c bank row isSet quarter false true).setFlips c bank row isSet quarter 0
  else
    let g := g.nodeErr c bank row isSet quarter true true
    let reps := g.replicasAt c row isSet
    if reps.isEmpty then g else forEach reps (fun x g => g.damageReplica c x) (g.nodeRecord c bank row isSet true)

/-- SCRUB_CYCLE (R98): one row of every bank and of its set bank. `errs` are upsets that struck words of those rows before: (bank, set table, quarter,
two bits). A stopped or gated island does not scrub. -/
def Gn.scrub (g : Gn) (c : Nat) (errs : List (Nat × Bool × Nat × Bool)) : Gn :=
  if !g.alive || g.flag (F.pwIsl_gated c) || (g.isl c).stoppedAt.isSome then g
  else
    let row := SMap.get (fun _ => 0) g.ts.scrub c
    let g := { g with ts := { g.ts with scrub := SMap.set (fun _ => 0) g.ts.scrub c ((row + 1) % 65536) } }
    let g := forEach errs (fun e g =>
      let g := g.nodeUpset c e.1 row e.2.1 e.2.2.1 0
      if e.2.2.2 then g.nodeUpset c e.1 row e.2.1 e.2.2.1 1 else g) g
    forEach (List.range 16) (fun b g =>
      forEach (List.range 4) (fun q g => g.scrubWord c b (row % 256) true q) (g.scrubWord c b row false 0)) g

def execScrubCycle (c : Nat) (errs : List (Nat × Bool × Nat × Bool)) (s : State) : Host.Outcome State Fault Refusal :=
  gnStep s (fun g => g.scrub c errs)

end Sys2Proof.Machine
end

