-- ==== Sys2Proof/Machine/Array.lean ====
section
/-! DEFINITION. The memories of the engine array and of the module: HBM by address, core SRAM and shared buffers with their banks, block tags and ECC
(R51, R55 to R57, R72, R88, R94, R114). -/

namespace Sys2Proof.Machine

/-! ### HBM (R57) -/

/-- Key of a byte of a memory space: 1 control-core memory, 2 HBM. -/
def memKey (space a : Nat) : Nat := space * 2 ^ 48 + a

/-- Bytes of HBM. -/
def hbmSize : Nat := 103079215104

/-- Byte `i` of a word. -/
def byteOf (w i : Nat) : Byte := BitVec.ofNat 8 (w / 256 ^ i)

/-- The capture that holds an address of the tap-capture region (R117), and the export held at one of the landing area (R116). -/
def Gn.captureAt (g : Gn) (a : Nat) : Option Capture := g.pf.caps.find? (fun c => decide (c.base ≤ a) && decide (a < c.base + c.size))
def Gn.exportAt (g : Gn) (a : Nat) : Option Exp :=
  g.pf.exps.find? (fun e => e.st != .answered && decide (e.base ≤ a) && decide (a < e.base + e.data.length))

/-- The lowest address of a region at which `n` bytes fit between the ranges in use. -/
def firstFit (lo size n : Nat) (used : List (Nat × Nat)) : Option Nat :=
  ((lo :: used.map (fun u => u.1 + u.2)).mergeSort).find? (fun a => decide (a + n ≤ lo + size) && used.all (fun u => decide (a + n ≤ u.1) || decide (u.1 + u.2 ≤ a)))

/-- A byte of HBM: the boundary pool and the overflow panels stand where R57, R88 and R94 lay them out, captures and landed exports where the model
allocates them (assumption log 9); every other byte is what was written there. -/
def Gn.hbmGet (g : Gn) (a : Nat) : Byte :=
  if hbmPool ≤ a ∧ a < hbmPool + 2 ^ 24 then
    byteOf (SMap.get (fun _ => (0 : Word32)) g.ts.pool ((a - hbmPool) / 4)).toNat ((a - hbmPool) % 4)
  else if hbmPanels ≤ a ∧ a < hbmPanels + 2 ^ 33 then
    byteOf (SMap.get (fun _ => (0 : Word)) g.ts.beyond ((a - hbmPanels) / 8)).toNat ((a - hbmPanels) % 8)
  else if let some c := g.captureAt a then BitVec.ofNat 8 (SMap.get (fun _ => 0) c.bytes (a - c.base) - 1)
  else if let some e := g.exportAt a then e.data.getD (a - e.base) 0
  else SMap.get memDefault g.mem (memKey 2 a)

/-- Replace byte `i` of a word. -/
def putByte (w i : Nat) (b : Byte) : Nat := w - (byteOf w i).toNat * 256 ^ i + b.toNat * 256 ^ i

def Gn.hbmPut (g : Gn) (a : Nat) (b : Byte) : Gn :=
  if hbmPool ≤ a ∧ a < hbmPool + 2 ^ 24 then
    let k := (a - hbmPool) / 4
    let w := (SMap.get (fun _ => (0 : Word32)) g.ts.pool k).toNat
    { g with ts := { g.ts with pool := SMap.set (fun _ => (0 : Word32)) g.ts.pool k (BitVec.ofNat 32 (putByte w ((a - hbmPool) % 4) b)) } }
  else if hbmPanels ≤ a ∧ a < hbmPanels + 2 ^ 33 then
    let k := (a - hbmPanels) / 8
    let w := (SMap.get (fun _ => (0 : Word)) g.ts.beyond k).toNat
    { g with ts := { g.ts with beyond := SMap.set (fun _ => (0 : Word)) g.ts.beyond k (BitVec.ofNat 64 (putByte w ((a - hbmPanels) % 8) b)) } }
  else if let some c := g.captureAt a then
    let d : Capture := { c with bytes := SMap.set (fun _ => 0) c.bytes (a - c.base) (b.toNat + 1) }
    { g with pf := { g.pf with caps := g.pf.caps.map (fun x => if x.base = c.base ∧ x.size = c.size then d else x) } }
  else if let some e := g.exportAt a then
    let d : Exp := { e with data := e.data.set (a - e.base) b }
    { g with pf := { g.pf with exps := g.pf.exps.map (fun x => if x.site = e.site ∧ x.seq = e.seq then d else x) } }
  else { g with mem := SMap.set memDefault g.mem (memKey 2 a) b }

/-- Read `n` bytes of HBM; bytes past its end read 0. -/
def Gn.hbmRead (g : Gn) (a n : Nat) : List Byte := (List.range n).map (fun i => if a + i < hbmSize then g.hbmGet (a + i) else 0)

/-- Write bytes to HBM; bytes past its end are dropped. -/
def Gn.hbmWrite (g : Gn) (a : Nat) (bs : List Byte) : Gn :=
  forEach bs.zipIdx (fun e g => if a + e.2 < hbmSize then g.hbmPut (a + e.2) e.1 else g) g

/-- The units whose bytes in HBM the manual does not lay out (telemetry history, dump buffer, sitting channel state, held reports, staging copies, firmware
store): a read of them by the debug port has no stated value unless something wrote it (assumption log 9). -/
def hbmOpen (a : Nat) : Bool :=
  (decide (0x0C00000000 ≤ a) && decide (a < hbmPanels)) || (decide (0x1600000000 ≤ a) && decide (a < 0x1604000000)) || decide (hbmPool + 2 ^ 24 ≤ a)

/-! ### Core SRAM and shared buffer (R55) -/

/-- Bytes of one core's SRAM, of a cluster's core SRAM, of a cluster's shared buffer. -/
def coreBytes : Nat := 786432
def sramBytes : Nat := 12582912
def clusterBytes : Nat := 16777216

/-- Cluster address of a byte of a core's SRAM. -/
def coreAddr (core a : Nat) : Nat := core % 16 * coreBytes + a % coreBytes

/-- The bank of a cluster address, as GN_CL_COLL names it: 24 banks of 32 KiB a core, 64 of 64 KiB in the shared buffer, two banks beside each other taking
lines of 128 bytes in turn (R55, R73; assumption log 40). -/
def bankOf (a : Nat) : Nat :=
  if a < sramBytes then a / coreBytes * 24 + a % coreBytes / 65536 * 2 + a / 128 % 2 else 384 + (a - sramBytes) / 131072 % 32 * 2 + a / 128 % 2

/-- The access lies outside the footprint: the resource to name, 511 for a requester in a core outside it (R72, R73). -/
def outside (f : Foot) (a : Nat × Nat) : Option Nat :=
  let bank := if a.2 < 384 then (if f.cores.testBit (a.2 / 24) then none else some a.2)
    else if a.2 < 448 then (if f.sbanks.testBit (a.2 - 384) then none else some a.2) else none
  if a.1 < 128 ∧ f.cores.testBit (a.1 / 8) = false then some 511 else bank

/-- Change the array's part. -/
def Gn.onAr (g : Gn) (f : ArSt → ArSt) : Gn := { g with ar := f g.ar }

/-- A requester's way into the memories: cluster, footprint of the task in it, requester index. -/
structure MemPort where
  c : Nat
  f : Foot
  req : Nat
deriving DecidableEq, Repr

/-- The bank accesses of `n` bytes from `a`: one for each line of 128 bytes (R55). -/
def banksOf (a n : Nat) : List Nat := if n = 0 then [] else (List.range ((a + n - 1) / 128 - a / 128 + 1)).map (fun i => bankOf ((a / 128 + i) * 128))

/-- The access is blocked: a bank or the requester's core lies outside the footprint (R72). -/
def MemPort.blocked (p : MemPort) (a n : Nat) : Bool := (banksOf a n).any (fun b => (outside p.f (p.req, b)).isSome)

/-- Note an access for the collision watch, or as a footprint violation. -/
def Gn.note (g : Gn) (p : MemPort) (res : Nat) : Gn :=
  match outside p.f (p.req, res) with
  | some r => g.onAr (fun s => { s with bad := s.bad ++ [(p.req, r)] })
  | none => g.onAr (fun s => { s with acc := s.acc ++ [(p.req, res)] })

/-- Note an access that requesters serving one stage share: one that a requester of `reqs` has made of the bank in this cycle serves this one too. -/
def Gn.noteFor (g : Gn) (reqs : List Nat) (p : MemPort) (res : Nat) : Gn :=
  if (g.ar.acc ++ g.ar.bad).any (fun a => a.2 == res && reqs.contains a.1) then g else g.note p res

/-- Key of the 64-bit word of a cluster address: ECC state and block tags. -/
def wordKey (c a : Nat) : Nat := c * 2 ^ 21 + a % clusterBytes / 8

/-- Flipped bits of a word. -/
def Gn.flips (g : Gn) (k : Nat) : Nat := SMap.get (fun _ => 0) g.ar.flips k

/-- An upset flips one of the 72 bits of a word. -/
def Gn.memUpset (g : Gn) (k b : Nat) : Gn :=
  let m := g.flips k ^^^ 2 ^ (b % 72)
  g.onAr (fun s => { s with flips := SMap.set (fun _ => 0) s.flips k m })

/-- Words that `n` bytes from `a` touch. -/
def wordsOf (a n : Nat) : List Nat := if n = 0 then [] else (List.range ((a + n - 1) / 8 - a / 8 + 1)).map (fun i => a / 8 + i)

/-- What a read counts for one word (R56): a corrected error, or an uncorrectable one with its place. -/
def Gn.eccRead (g : Gn) (c w : Nat) : Gn :=
  let n := popcount 72 (g.flips (c * 2 ^ 21 + w))
  if n = 0 then g
  else if n = 1 then g.inc (F.clMem_ceCount c)
  else
    let g := g.inc (F.clMem_ueCount c)
    let e := if w < 1572864 then (w / 98304, w, 1) else (16, w - 1572864, 2)
    g.onAr (fun s => { s with ues := s.ues ++ [e] })

/-- The access of a read by one of requesters that share their accesses: watched, its words checked. -/
def Gn.touchFor (g : Gn) (reqs : List Nat) (p : MemPort) (a n : Nat) : Gn :=
  let g := forEach (banksOf a n) (fun b g => g.noteFor reqs p b) g
  if p.blocked a n then g else forEach (wordsOf a n) (fun w g => g.eccRead p.c w) g

/-- The access of a read: watched, its words checked. -/
def Gn.touch (g : Gn) (p : MemPort) (a n : Nat) : Gn := g.touchFor [] p a n

/-- The bytes a read returns (R56, R72): zeros when blocked, a single flipped bit corrected, more returned as they stand. -/
def Gn.peek (g : Gn) (p : MemPort) (a n : Nat) : List Byte :=
  if p.blocked a n then List.replicate n 0
  else (List.range n).map (fun i =>
    let x := a + i
    let m := g.flips (wordKey p.c x)
    let b := SMap.get (fun _ => (0 : Byte)) g.ar.mem (p.c * 2 ^ 24 + x % clusterBytes)
    if popcount 72 m ≤ 1 then b else b ^^^ byteOf (m % 2 ^ 64) (x % 8))

/-- A write (R56, R72): dropped when blocked; a word written has no flipped bit. -/
def Gn.poke (g : Gn) (p : MemPort) (a : Nat) (bs : List Byte) : Gn :=
  let n := bs.length
  let g := forEach (banksOf a n) (fun b g => g.note p b) g
  if p.blocked a n then g
  else
    let ws := (wordsOf a n).map (fun w => p.c * 2 ^ 21 + w)
    g.onAr (fun s => { s with mem := SMap.setList (fun _ => (0 : Byte)) s.mem (p.c * 2 ^ 24 + a % clusterBytes) bs,
                              flips := s.flips.filter (fun e => !ws.contains e.1) })

/-! ### Elements and block tags (R51, R114) -/

/-- Bits of an element of a format. -/
def elemBits : Nat → Nat
  | 0 => 4 | 1 => 6 | 2 => 6 | 3 => 8 | 4 => 8 | 5 => 8 | 6 => 16 | _ => 32

/-- Element `i` of packed bytes (R114). -/
def elemAt (fmt : Nat) (b : List Byte) (i : Nat) : Nat := bits (leNat b) (i * elemBits fmt) (elemBits fmt)

/-- Pack element codes (R114). -/
def packElems (fmt : Nat) (xs : List Nat) : List Byte :=
  leBytes (xs.length * elemBits fmt / 8) (xs.zipIdx.foldl (fun w e => w + e.1 % 2 ^ elemBits fmt * 2 ^ (e.2 * elemBits fmt)) 0)

/-- Bytes of a block of 32 elements. -/
def blockBytes (fmt : Nat) : Nat := 4 * elemBits fmt

/-- The block tag of a block that starts at a cluster address; 0 where no generator has written one (assumption log 40). -/
def Gn.tag (g : Gn) (c a : Nat) : Nat := (SMap.get (fun _ => (0 : BitVec 16)) g.ar.tags (wordKey c a)).toNat

def Gn.setTag (g : Gn) (c a t : Nat) : Gn :=
  g.onAr (fun s => { s with tags := SMap.set (fun _ => (0 : BitVec 16)) s.tags (wordKey c a) (BitVec.ofNat 16 t) })

/-! ### Compressed groups (R61 to R63) -/

/-- K of a group of a structured pattern. -/
def groupLen (pattern : Nat) : Nat := if pattern = 1 then 4 else 8

/-- Positions p0 and p1 of a group's metadata. -/
def slotPos (pattern md : Nat) : Nat × Nat := if pattern = 1 then (bits md 0 2, bits md 2 2) else (bits md 0 3, bits md 3 3)

/-- Bytes of values of a compressed block of 32 K: two one-byte slots a group. -/
def compBytes (pattern : Nat) : Nat := 32 / groupLen pattern * 2

/-- Metadata of group `i` of a block's four metadata bytes: for 2:4 the lower group in [3:0]. -/
def groupMd (pattern : Nat) (md : List Byte) (i : Nat) : Nat :=
  if pattern = 1 then bits (u8 md (i / 2)) (4 * (i % 2)) 4 else u8 md i

/-- An element is a non-zero: every value but ±0. -/
def nonZero (fmt c : Nat) : Bool := (decodeElem fmt c).1 != .finite || (decodeElem fmt c).2.1 != 0

/-- Positions and codes that the value slots of a group feed, and its index-range events (R63): a malformed group contributes nothing and counts once; a
non-zero slot in padding contributes nothing and counts. `base` is the K of the group's first position. -/
def groupSlots (fmt pattern md c0 c1 base kExt : Nat) : List (Nat × Nat) × Nat :=
  let (p0, p1) := slotPos pattern md
  if p1 ≤ p0 then ([], 1)
  else
    let slot := fun (p c : Nat) => if base + p < kExt then ([(base + p, c)], 0)
      else ([], b2n (nonZero fmt c))
    let a := slot p0 c0
    let b := slot p1 c1
    (a.1 ++ b.1, a.2 + b.2)

/-- The tag of a block of dense elements at positions from `k` on: padding does not count (R51, R63). -/
def denseTag (fmt scale k kExt : Nat) (codes : List Nat) : Nat := blockTag fmt scale (codes.take (kExt - k))

/-- The tag of a compressed block: padding slots and malformed groups do not count (R51, R63). -/
def compTag (fmt pattern scale k kExt : Nat) (vals md : List Byte) : Nat :=
  let n := 32 / groupLen pattern
  let codes := (List.range n).flatMap (fun i =>
    ((groupSlots fmt pattern (groupMd pattern md i) (u8 vals (2 * i)) (u8 vals (2 * i + 1)) (k + i * groupLen pattern) kExt).1).map (·.2))
  blockTag fmt scale codes

/-- Write the data of a crossing's entry and generate the tags of its MX blocks (R51): values first, then for compressed blocks the metadata. -/
def Gn.landBlocks (g : Gn) (p : MemPort) (dst : Nat) (x : Blocks) (data scales : List Byte) : Gn :=
  let bb := if x.pattern = 0 then blockBytes x.fmt else compBytes x.pattern
  let vals := data.take (x.n * bb)
  let md := data.drop (x.n * bb)
  let g := if x.pattern = 0 then g.poke p dst vals else (g.poke p dst vals).poke p x.md (md.take (4 * x.n))
  if p.blocked dst vals.length then g
  else forEach (List.range x.n) (fun i g =>
    let b := (vals.drop (i * bb)).take bb
    let s := u8 scales i
    let t := if x.pattern = 0 then denseTag x.fmt s x.k x.kExt ((List.range 32).map (elemAt x.fmt b))
      else compTag x.fmt x.pattern s x.k x.kExt b ((md.drop (4 * i)).take 4)
    g.setTag p.c (dst + i * bb) t) g

/-- Bytes move between a core's SRAM and the shared buffer: 256 of the buffer read, or 128 written to it, in a cycle (R55). The tags of their blocks go with
them: R51 names three generators and is silent on this path (DESIGN CHOICE, assumption log 40). -/
def Gn.moveBytes (g : Gn) (p : MemPort) (src dst n : Nat) : Gn :=
  let n := min n (if sramBytes ≤ dst % clusterBytes then 128 else 256)
  let bs := g.peek p src n
  let g := (g.touch p src n).poke p dst bs
  if p.blocked src n || p.blocked dst n then g
  else forEach (List.range (n / 8)) (fun i g => g.setTag p.c (dst + 8 * i) (g.tag p.c (src + 8 * i))) g

end Sys2Proof.Machine
end

