-- ==== Sys2Proof/Machine/Seq.lean ====
section
/-! DEFINITION. Pipeline images, task graphs and the task sequencer (chapter 04): load checks, instances, readiness, launch, plans, completion. -/

namespace Sys2Proof.Machine

/-! ### Images (R69, R70) -/

/-- A matrix stage obeys R25, R39 and R60, and a structured one names k_ext ≤ K. -/
def stageOk (x : Stage) : Bool :=
  let mxA := isMx x.fmtA
  let mxB := isMx x.fmtB
  let eight := fun f : Nat => decide (3 ≤ f) && decide (f ≤ 5)
  decide (x.fmtA ≤ 6) && decide (x.fmtB ≤ 6) && decide (x.fmtOut ≤ 7) && mxA == mxB
    && (!mxA || (x.k % 32 == 0 && x.blk == 32 && x.e8m0))
    && (!isMx x.fmtOut || x.n % 32 == 0)
    && (x.pattern == 0 || (decide (x.pattern ≤ 2) && !x.onA && eight x.fmtA && eight x.fmtB && decide (x.kExt ≤ x.k)))

/-- Gaps between consecutive break points, from cycle 0. -/
def gapsOk (m prev : Nat) : List Nat → Bool
  | [] => true
  | b :: bs => decide (prev ≤ b) && decide (b - prev ≤ m) && gapsOk m b bs

/-- The bytes a range holds, or'ed: 0 when every reserved byte is 0. -/
def resvOf (b : List Byte) (i j : Nat) : Nat := b2n (!zeroBytes b i j)

/-- A footprint record of 24 bytes (R69). -/
def parseFoot (b : List Byte) : Foot := ⟨u16 b 0, u16 b 2, u64 b 4, u32 b 12, resvOf b 16 24⟩

/-- The CRC-32C of an image's bytes matches its header (R69). -/
def imageCrcOk (b : List Byte) : Bool := decide (256 ≤ b.length) && u32 b 252 == crc32c (b.take 252 ++ b.drop 256)

/-- An image from its bytes: the 256-byte header, then a footprint record for each logical cluster (R69). A model task's image lists at most 4 ensemble
slots (R95): the model takes the first 4 below 64 of those it is given (DESIGN CHOICE, assumption log 5). -/
def parseImage (x : ImageIn) : Image :=
  let b := x.raw
  { magic := u32 b 0, fmtVer := u16 b 4, nlc := u16 b 6, length := u32 b 8, bpMax := u32 b 12, kVar := u32 b 16, flags := u32 b 20,
    planOff := (List.range 4).map (fun p => (List.range 4).map (fun n => u32 b (24 + 16 * p + 4 * n))),
    proCyc := (List.range 4).map (fun p => u32 b (88 + 4 * p)), resv := resvOf b 104 252,
    crcOk := imageCrcOk b,
    foots := (List.range (min (u16 b 6) ((b.length - 256) / 24))).map (fun i => parseFoot ((b.drop (256 + 24 * i)).take 24)),
    places := x.places, stages := x.stages, ensSlots := (x.ensSlots.filter (fun n => decide (n < 64))).take 4, quant := x.quant }

/-- A placement exists: the image holds its record, and the header gives the schedules of its plan an offset other than 0 (R69). -/
def imageHas (x : Image) (lc n : Nat) : Bool :=
  (x.planOff.getD (if n = 4 then 3 else n) []).headD 0 != 0 && x.places.any (fun p => p.lc == lc && p.plan == n)

/-- The placements an image holds. -/
def imagePlaced (x : Image) : List Place := x.places.filter (fun p => imageHas x p.lc p.plan)

/-- A plan's break-point tables stand in the image (R69). -/
def imageTables (x : Image) (n : Nat) : Bool := (x.planOff.getD (if n = 4 then 3 else n) []).getD 2 0 != 0

/-- The first load-time check of R70 that an image fails; 0 when it passes all six. The list names no check for a `bp_max` or `sched_kib` out of range, a
footprint table shorter than `nlc` or reserved bits that are not 0: the model reports check 2 for the first three and for a footprint's reserved bytes,
check 1 for the header's reserved bytes, flags and section 3 offsets; a placement whose plan has no break-point tables fails check 5 (DESIGN CHOICE,
assumption log 40). -/
def imageCheck (len : Nat) (x : Image) : Nat :=
  let foot := fun lc => x.foots[lc]?
  let kOf := fun lc => match foot lc with | some f => popcount 16 f.cores | none => 0
  if x.magic != 0x4D4C4431 || x.fmtVer != 3 || decide (2 ^ 24 < x.length) || x.length != len || !x.crcOk || x.resv != 0
      || decide (4 ≤ x.flags) || x.planOff.any (fun p => p.getD 3 0 != 0) then 1
  else if decide (x.nlc < 1) || decide (16 < x.nlc) || x.foots.length != x.nlc || decide (x.bpMax < 1) || decide (2 ^ 20 < x.bpMax)
      || !x.foots.all (fun f => decide (1 ≤ popcount 16 f.cores) && decide (f.cores < 65536) && decide (4 ≤ f.schedKib) && decide (f.schedKib ≤ 64)
        && decide (f.schedKib + f.dataKib ≤ 768) && f.resv == 0) then 2
  else if !(List.range x.nlc).all (fun lc => imageHas x lc 0 && [1, 2, 4].all (fun n => imageHas x lc n == decide (n < kOf lc))) then 3
  else if !(imagePlaced x).all (fun p => match foot p.lc with
      | some f => decide (p.cores < 2 ^ (kOf p.lc - p.plan)) && p.sbanks &&& f.sbanks == p.sbanks
      | none => false) then 4
  else if !(imagePlaced x).all (fun p => imageTables x p.plan && gapsOk x.bpMax 0 p.bps && p.bps.getLast? == some p.last) then 5
  else if !x.stages.all stageOk then 6
  else 0

/-- A resident image. -/
def Gn.image (g : Gn) (num : Nat) : Option Image := (g.sq.images.find? (fun i => i.num == num)).map (·.img)

/-- Change the sequencer's part. -/
def Gn.onSq (g : Gn) (f : SqSt → SqSt) : Gn := { g with sq := f g.sq }

/-- IMAGE_LOAD (R70): resident, its bytes in its 16 MiB of the staging region (R57), or FAILED with record kind 5 naming the first check that failed. A
number already resident refuses. -/
def Gn.imageLoad (g : Gn) (h : DescHdr) (num len : Nat) (img : ImageIn) : Gn :=
  let x := parseImage img
  if 256 ≤ num then g.complete 0x04 h stInvalid []
  else if (g.image num).isSome then g.complete 0x04 h stRefused []
  else
    let c := imageCheck len x
    if c = 0 then
      ((g.onSq (fun q => { q with images := q.images ++ [⟨num, x⟩] })).hbmWrite (hbmImage num) (img.raw.take (2 ^ 24))).complete 0x04 h stOk [num]
    else (g.record prodSeq (Config.recCode 5).toNat 4 num c num 0 0).failed 0x04 h (Config.recCode 5).toNat c

def execImageLoad (h : DescHdr) (num len : Nat) (img : ImageIn) (s : State) : Host.Outcome State Fault Refusal :=
  let go := fun g : Gn => g.desc 0x04 ruleS h (fun g => g.imageLoad h num len img)
  gnStep s (fun g => if g.alive && decide (num < 256) && (g.image num).isNone && imageCheck len (parseImage img) == 0 then
    g.viaHbm 19 (hbmImage num) (min len (2 ^ 24)) go else go g)

/-- IMAGE_EVICT (R70): refused while a task of a resident graph names the image, and for an image not resident. -/
def Gn.imageEvict (g : Gn) (h : DescHdr) (num : Nat) : Gn :=
  let used := g.sq.graphs.any (fun gr => gr.tasks.any (fun t => t.image == num))
  if 256 ≤ num then g.complete 0x05 h stInvalid []
  else if used || (g.image num).isNone then g.complete 0x05 h stRefused []
  else (g.onSq (fun q => { q with images := q.images.filter (fun i => i.num != num) })).complete 0x05 h stOk []

def execImageEvict (h : DescHdr) (num : Nat) (s : State) : Host.Outcome State Fault Refusal :=
  gnStep s (fun g => g.desc 0x05 ruleS h (fun g => g.imageEvict h num))

/-! ### Graphs, instances, tasks -/

def Gn.graph (g : Gn) (slot : Nat) : Option Graph := g.sq.graphs.find? (fun x => x.slot == slot)

/-- Replace the graph of a slot. -/
def Gn.setGraph (g : Gn) (x : Graph) : Gn := g.onSq (fun q => { q with graphs := q.graphs.map (fun y => if y.slot = x.slot then x else y) })

def Graph.inst (x : Graph) (n : Nat) : Option Inst := x.insts.find? (fun i => i.n == n)

def Graph.setInst (x : Graph) (i : Inst) : Graph := { x with insts := x.insts.map (fun j => if j.n = i.n then i else j) }

/-- State of a task. -/
def Gn.tst (g : Gn) (slot n idx : Nat) : Option TSt :=
  match g.graph slot with
  | none => none
  | some x => match x.inst n with | none => none | some i => i.ts[idx]?

/-- Set the state of a task. -/
def Gn.setTst (g : Gn) (slot n idx : Nat) (t : TSt) : Gn :=
  match g.graph slot with
  | none => g
  | some x => match x.inst n with
    | none => g
    | some i => g.setGraph (x.setInst { i with ts := i.ts.set idx t })

def Gn.task (g : Gn) (slot idx : Nat) : Option Task := match g.graph slot with | none => none | some x => x.tasks[idx]?

/-- An image uses tree walkers (R69). -/
def Gn.walks (g : Gn) (img : Nat) : Bool := match g.image img with | some x => bit x.flags 1 | none => false

/-- An image's tasks quantize under their ensemble slots: it says so, or it names slots and does not walk (R95). -/
def Gn.quants (g : Gn) (img : Nat) : Bool := match g.image img with | some x => x.quant || !bit x.flags 1 | none => false

/-- A task's bound epoch of a slot. -/
def Gn.boundEpoch (g : Gn) (slot n ens : Nat) : Option Epoch :=
  match g.graph slot with
  | none => none
  | some x => match x.inst n with
    | none => none
    | some i => match i.bind.find? (fun b => b.1 == ens) with
      | none => none
      | some b => (g.ens ens).find b.2

/-- Release what a task still holds on one ensemble slot (R103): a walking task its panels, a quantizing task the quantizer set. -/
def Gn.releaseEns (g : Gn) (slot n img ens : Nat) (released : List (Nat × Nat)) : Gn :=
  match g.boundEpoch slot n ens with
  | none => g
  | some ep =>
    let e := g.ens ens
    let e := if g.walks img then
        ep.panels.foldl (fun e p => if released.contains (ens, p.num) then e else e.subRef ep.epoch p.num 1) e
      else e
    let e := if g.quants img then e.subRef ep.epoch 65535 1 else e
    (g.setEns ens e).ensSettle ens

/-- Source word of task records: slot in [3:0], task in [19:4] (R41, R68). -/
def taskSource (slot idx : Nat) : Nat := slot + 16 * idx

/-- A task of a proof run faults: the run's first fault is kept (R122). -/
def Gn.runFault (g : Gn) (slot n status : Nat) (why : Why) : Gn :=
  { g with pf := { g.pf with runs := g.pf.runs.map (fun r =>
      if r.slot = slot ∧ r.inst = n ∧ r.bad.isNone = true ∧ 1 ≤ status ∧ status ≤ 4 then { r with bad := some (status, why) } else r) } }

/-- The instance of a proof run has ended. -/
def Gn.runEnded (g : Gn) (slot n : Nat) : Gn :=
  { g with pf := { g.pf with runs := g.pf.runs.map (fun r => if r.slot = slot ∧ r.inst = n then { r with ended := true } else r) } }

/-- A task completes with a status (R84, R345): its references are released, its records written, its entry posted. -/
def Gn.finishTask (g : Gn) (slot n idx status : Nat) : Gn :=
  match g.graph slot, g.task slot idx, g.tst slot n idx with
  | some x, some t, some st =>
    let run := match st with | .running r => some r | _ => none
    let rel := match run with | some r => r.released | none => []
    let g := if t.kind = 0 then forEach (g.imgSlots t.image) (fun s g => g.releaseEns slot n t.image s rel) g else g
    let g := (g.setTst slot n idx (.done status)).runFault slot n status (match run with | some r => r.why | none => .other)
    let g := match run with
      | none => g
      | some r =>
        let g := if 0 < r.special then
          g.record prodSeq 0x0201 2 (taskSource slot idx) (min r.special (2 ^ 32 - 1)) n t.image 0 else g
        if 0 < r.idx then g.record prodSeq 0x0301 3 (taskSource slot idx) (min r.idx (2 ^ 32 - 1)) n t.image 0 else g
    if (1 ≤ status ∧ status ≤ 4) ∨ x.allTasks then
      let delay := match run with | some r => min r.delay (2 ^ 32 - 1) | none => 0
      let time := match run with | some r => min (g.now - r.launched) (2 ^ 32 - 1) | none => 0
      g.unsolicited x.fn x.sq 0x31 g.now [slot, status, idx, n, delay, time]
    else g
  | _, _, _ => g

/-- A graph halts (R84): ready tasks of every instance are CANCELLED; running ones stop at their next break point. -/
def Gn.haltGraph (g : Gn) (slot : Nat) : Gn :=
  match g.graph slot with
  | none => g
  | some x =>
    let stop := fun (t : TSt) => match t with | .running r => .running { r with cancel := true } | _ => t
    let y := { x with halted := true, insts := x.insts.map (fun i => { i with ts := i.ts.map stop }) }
    let ready := x.insts.flatMap (fun i => (i.ts.zipIdx.filter (fun e => match e.1 with | .ready _ => true | _ => false)).map (fun e => (i.n, e.2)))
    forEach ready (fun e g => g.finishTask slot e.1 e.2 6) (g.setGraph y)

/-- One task whose state must change now (R81, R83, R84): waiting with a predecessor not OK (SKIPPED), or with all predecessors OK and the
same task of the instance before launched (ready, or at once complete for a join, or CANCELLED in a halted graph). A task of the instance before that
completed without launching (SKIPPED, CANCELLED, a join) counts as launched: it never will (DESIGN CHOICE, assumption log 40). -/
def Graph.nextChange (x : Graph) : Option (Nat × Nat × Nat) :=
  let doneSt := fun (i : Inst) (p : Nat) => match i.ts[p]? with | some (.done s) => some s | _ => none
  let preds := fun idx => (x.tasks.zipIdx.filter (fun e => e.1.succs.contains idx)).map (·.2)
  let prevOk := fun (i : Inst) idx => x.insts.all (fun j => !(decide (j.n + 1 = i.n)) || j.launchedTasks.contains idx || (doneSt j idx).isSome)
  x.insts.findSome? (fun i => i.ts.zipIdx.findSome? (fun e => match e.1 with
    | .waiting =>
      let ps := preds e.2
      if ps.any (fun p => match doneSt i p with | some s => s != 0 | none => false) then some (i.n, e.2, 5)
      else if ps.all (fun p => doneSt i p == some 0) && prevOk i e.2 then
        (if x.halted || i.ended then some (i.n, e.2, 6)
         else if (match x.tasks[e.2]? with | some t => t.kind == 1 | none => false) then some (i.n, e.2, 0)
         else some (i.n, e.2, 16))
      else none
    | _ => none))

/-- A waiting task is released: its predecessors completed OK (R81). -/
def Graph.released (x : Graph) (i : Inst) (idx : Nat) : Bool :=
  let okNow := fun p => match i.ts[p]? with | some (.done 0) => true | _ => false
  i.ts[idx]? == some .waiting && !x.halted && !i.ended
    && (x.tasks.zipIdx.filter (fun e => e.1.succs.contains idx)).all (fun e => okNow e.2)

/-- The instance before has launched the task (R81). -/
def Graph.beforeLaunched (x : Graph) (i : Inst) (idx : Nat) : Bool :=
  x.insts.all (fun j => !(decide (j.n + 1 = i.n)) || j.launchedTasks.contains idx
    || (match j.ts[idx]? with | some (.done _) => true | _ => false))

/-- A task that completed OK at `t` releases its successors in the order of its list, one per sequencer cycle of 1 ns (R83); a join completes in the cycle in
which it becomes ready and releases its own. A successor that waits for the instance before keeps the cycle of its release. `n` bounds the chain of joins. -/
def Gn.release (g : Gn) (slot inst idx t : Nat) : Nat → Gn
  | 0 => g
  | n + 1 =>
    match g.graph slot with
    | none => g
    | some x => match x.tasks[idx]? with
      | none => g
      | some k => forEach k.succs.zipIdx (fun e g =>
          match g.graph slot with
          | none => g
          | some x => match x.inst inst with
            | none => g
            | some i =>
              if !x.released i e.1 then g
              else if !x.beforeLaunched i e.1 then g.setGraph (x.setInst { i with freed := (e.1, t + e.2 + 1) :: i.freed })
              else
                (if (match x.tasks[e.1]? with | some k => k.kind == 1 | none => false) then
                   (g.finishTask slot inst e.1 0).release slot inst e.1 (t + e.2 + 1) n
                 else g.setTst slot inst e.1 (.ready (t + e.2 + 1)))) g

/-- The hall time at which a task becomes ready: now, or the cycle of its release if that still lies ahead (R81, R83). -/
def Gn.readyAt (g : Gn) (slot inst idx : Nat) : Nat :=
  match g.graph slot with
  | none => g.now
  | some x => match x.inst inst with
    | none => g.now
    | some i => match i.freed.find? (fun e => e.1 == idx) with
      | some e => max g.now e.2
      | none => g.now

/-- Bring the readiness of a graph's tasks up to date; a join completes OK as it becomes ready and releases its own successors in order (R83). `n` bounds
the changes. -/
def Gn.settleGraph (g : Gn) (slot : Nat) : Nat → Gn
  | 0 => g
  | n + 1 =>
    match g.graph slot with
    | none => g
    | some x => match x.nextChange with
      | none => g
      | some (i, idx, 16) => (g.setTst slot i idx (.ready (g.readyAt slot i idx))).settleGraph slot n
      | some (i, idx, 0) => ((g.finishTask slot i idx 0).release slot i idx (g.readyAt slot i idx) (n + 1)).settleGraph slot n
      | some (i, idx, st) => (g.finishTask slot i idx st).settleGraph slot n

/-- Tasks of a graph's instances that are waiting. -/
def Graph.waiting (x : Graph) : Nat :=
  (x.insts.map (fun i => (i.ts.filter (fun t => t == .waiting)).length)).sum

/-- Create an instance (R80). -/
def Gn.newInst (g : Gn) (slot : Nat) (cluster : Option Nat) : Gn :=
  match g.graph slot with
  | none => g
  | some x =>
    let i : Inst := { n := x.next, ts := List.replicate x.tasks.length .waiting, launchedTasks := [], cluster := cluster, bind := [], noPlan := [], freed := [], ended := false }
    let g := g.setGraph { x with insts := x.insts ++ [i], next := (x.next + 1) % 2 ^ 32 }
    match g.graph slot with | some y => g.settleGraph slot (y.waiting + 1) | none => g

/-- A graph creates instances (R80, R84). -/
def Graph.creates (x : Graph) : Bool := x.enabled && !x.halted && !x.unloading

/-- Mode 1: waiting windows take free instances, oldest first (R80); `n` bounds them. -/
def Gn.takeWindows (g : Gn) (slot : Nat) : Nat → Gn
  | 0 => g
  | n + 1 =>
    match g.graph slot with
    | none => g
    | some x => match x.wins with
      | [] => g
      | _ :: ws => if x.creates && decide (x.insts.length < x.instMax) then
          (((g.setGraph { x with wins := ws }).newInst slot none)).takeWindows slot n else g

/-- An unloading graph with no instance left empties its slot and its descriptor completes (R84). -/
def Gn.tryEmpty (g : Gn) (slot : Nat) : Gn :=
  match g.graph slot with
  | none => g
  | some x =>
    if x.unloading && x.insts.isEmpty then
      let g := g.onSq (fun q => { q with graphs := q.graphs.filter (fun y => y.slot != slot) })
      match x.unload with
      | some h => g.complete 0x07 h stOk []
      | none => g
    else g

/-- Instances whose every task has completed post their INSTANCE entry and end (R345); `n` bounds them. -/
def Gn.endInsts (g : Gn) (slot : Nat) : Nat → Gn
  | 0 => g
  | n + 1 =>
    match g.graph slot with
    | none => g
    | some x =>
      let isDone := fun t : TSt => match t with | .done _ => true | _ => false
      match x.insts.find? (fun i => i.ts.all isDone) with
      | none => g
      | some i =>
        let st := i.ts.map (fun t => match t with | .done s => s | _ => 0)
        let bad := st.zipIdx.filter (fun e => e.1 != 0)
        let g := (g.setGraph { x with insts := x.insts.filter (fun j => j.n != i.n) }).runEnded slot i.n
        let g := g.unsolicited x.fn x.sq 0x30 g.now
          [slot, st.foldl max 0, min x.winSkip 65535, i.n, bad.length, match bad with | e :: _ => e.2 | [] => 0]
        (g.count 1 slot).endInsts slot n

/-! ### Footprints and plans (R75 to R77, R82) -/

/-- Physical clusters of a task, in the order of its logical clusters. -/
def Task.clusters (t : Task) : List Nat := setBits 16 t.cmask

/-- Footprint of logical cluster lc of an image. -/
def Gn.foot (g : Gn) (img lc : Nat) : Foot := match g.image img with
  | some x => x.foots.getD lc ⟨0, 0, 0, 0, 0⟩
  | none => ⟨0, 0, 0, 0, 0⟩

/-- Cores of a cluster pending or withdrawn. -/
def Gn.outCores (g : Gn) (c : Nat) : Nat := g.rg (F.clPlan_wdMask c) ||| g.rg (F.clPlan_pendMask c)

/-- Plan and cores in use for a footprint in a cluster now (R76): none when the task holds. -/
def Gn.planFor (g : Gn) (c cores : Nat) : Option (Nat × Nat) :=
  let k := popcount 16 cores
  let m := popcount 16 (cores &&& g.outCores c)
  let left := (setBits 16 cores).filter (fun i => !(g.outCores c).testBit i)
  let plan := if m = 0 then some 0 else if m = 1 then some 1 else if m = 2 then some 2 else if m ≤ 4 then some 4 else none
  match plan with
  | none => none
  | some p => if p = 0 ∨ p < k then some (p, maskOf (left.take (k - p))) else none

/-- A task as an instance runs it: proof control sets its `cmask` to the instance's cluster (proofing chapter). -/
def Inst.bound (i : Inst) (t : Task) : Task := match i.cluster with | some c => { t with cmask := 2 ^ c } | none => t

/-- Every running task: (slot, instance, index, task, run). -/
def Gn.running (g : Gn) : List (Nat × Nat × Nat × Task × Run) :=
  g.sq.graphs.flatMap (fun x => x.insts.flatMap (fun i => i.ts.zipIdx.filterMap (fun e => match e.1 with
    | .running r => (x.tasks[e.2]?).map (fun t => (x.slot, i.n, e.2, i.bound t, r))
    | _ => none)))

/-- Footprint cores of a cluster held by running tasks; a held task has freed its cores (R83). -/
def Gn.busyCores (g : Gn) (c : Nat) : Nat :=
  g.running.foldl (fun m e => if e.2.2.2.2.held then m else
    match e.2.2.2.1.clusters.findIdx? (· == c) with
    | some lc => m ||| (g.foot e.2.2.2.1.image lc).cores
    | none => m) 0

/-- Tasks held at launch (R76): ready, in a hold. (slot, instance, index, task). -/
def Gn.heldTasks (g : Gn) : List (Nat × Nat × Nat × Task) :=
  g.sq.graphs.flatMap (fun x => x.insts.flatMap (fun i => i.ts.zipIdx.filterMap (fun e => match e.1 with
    | .ready _ => if i.noPlan.contains e.2 then (x.tasks[e.2]?).map (fun t => (x.slot, i.n, e.2, i.bound t)) else none
    | _ => none)))

/-- Shared-buffer banks of a cluster that tasks hold: running ones, and held ones, at a break point or at launch (R76), but for the task named. -/
def Gn.busyBanks (g : Gn) (c : Nat) (slot inst idx : Nat) : Nat :=
  let banks := fun (m : Nat) (t : Task) => match t.clusters.findIdx? (· == c) with
    | some lc => m ||| (g.foot t.image lc).sbanks
    | none => m
  let held := g.heldTasks.filter (fun e => !(e.1 == slot && e.2.1 == inst && e.2.2.1 == idx))
  held.foldl (fun m e => banks m e.2.2.2) (g.running.foldl (fun m e => banks m e.2.2.2.1) 0)

/-- Cores of a cluster that active placements use. -/
def Gn.usedCores (g : Gn) (c : Nat) : Nat :=
  g.running.foldl (fun m e => if e.2.2.2.2.held then m else
    match e.2.2.2.1.clusters.findIdx? (· == c) with
    | some lc => m ||| e.2.2.2.2.used.getD lc 0
    | none => m) 0

/-- Pending cores that no active placement uses become withdrawn (R75), a core withdrawn for its self-test is in test (R290), and CORE descriptors
whose cores all are withdrawn complete. -/
def Gn.coreSettle (g : Gn) : Gn :=
  let g := forEach (List.range 16) (fun c g =>
    let pend := g.rg (F.clPlan_pendMask c)
    let free := pend &&& ((g.usedCores c) ^^^ 0xFFFF)
    let g := if free = 0 then g
      else (g.wr (F.clPlan_pendMask c) (pend &&& (free ^^^ 0xFFFF))).wr (F.clPlan_wdMask c) (g.rg (F.clPlan_wdMask c) ||| free)
    match g.hg.testing.find? (fun k => k / 16 == c) with
    | none => g
    | some k => if (g.rg (F.clPlan_wdMask c)).testBit (k % 16) then (g.wr (F.clSt_cur c) (k % 16)).put (F.clSt_curV c) true else g) g
  let ready := fun (w : DescHdr × Nat × Nat × Bool) => w.2.2.2 && w.2.2.1 &&& g.rg (F.clPlan_wdMask w.2.1) == w.2.2.1
  let done := g.sq.coreWait.filter ready
  let g := g.onSq (fun q => { q with coreWait := q.coreWait.filter (fun w => !ready w) })
  forEach done (fun w g => g.complete 0x11 w.1 stOk []) g

/-- Withdrawal of a core (16 × cluster + core) is requested for its test (R289, R75). -/
def Gn.requestTest (g : Gn) (k : Nat) : Gn :=
  let c := k / 16
  let wd := (g.rg (F.clPlan_wdMask c)).testBit (k % 16)
  let g := { g with hg := { g.hg with testing := g.hg.testing ++ [k] } }
  (if wd then g else g.wr (F.clPlan_pendMask c) (g.rg (F.clPlan_pendMask c) ||| 2 ^ (k % 16))).coreSettle

/-- A test in the field or of a quarantined cluster: a core already out of service is tested too, and stays out after a pass (R126, R289, R290; assumption
log 8). -/
def Gn.fieldTest (g : Gn) (k : Nat) : Gn :=
  (if (g.rg (F.clSt_failMask (k / 16))).testBit (k % 16) then { g with hg := { g.hg with stay := g.hg.stay ++ [k] } } else g).requestTest k

/-- The next test of a cluster that has no core in test: a retest, a core past its deadline (R289), the next core of a quarantined cluster
(R126). -/
def Gn.testNext (g : Gn) (c : Nat) : Gn :=
  if g.hg.testing.any (fun k => k / 16 == c) then g
  else match g.hq.retests.find? (fun r => r.2.1 == c && r.2.2 != 0) with
    | some r => g.requestTest (16 * c + (setBits 16 r.2.2).headD 0)
    | none =>
      match g.hg.waiting.find? (fun k => k / 16 == c) with
      | some k =>
        let g := { g with hg := { g.hg with waiting := g.hg.waiting.filter (fun x => x != k) } }
        (g.inc (F.clSt_forced c)).fieldTest k
      | none =>
        match g.pf.quar.find? (fun q => q.1 == c) with
        | none => g
        | some q => match (List.range 16).find? (fun k => !q.2.2.contains k) with
          | some k => g.fieldTest (16 * c + k)
          | none => { g with pf := { g.pf with quar := g.pf.quar.filter (fun q => q.1 != c) } }

/-- A graph after a task of it has completed: halting, readiness, instances that ended, windows that waited, the slot. -/
def Gn.afterTask (g : Gn) (slot : Nat) : Gn :=
  match g.graph slot with
  | none => g
  | some x =>
    let n := x.waiting + 1
    let g := (g.settleGraph slot n).endInsts slot (x.insts.length + 1)
    let g := g.takeWindows slot (x.wins.length + 1)
    (g.endInsts slot (x.insts.length + x.wins.length + 1)).tryEmpty slot

/-- A task completes and the graph moves on (R83, R84). -/
def Gn.taskDone (g : Gn) (slot n idx status : Nat) : Gn :=
  let halt := status == 3 || status == 4 ||
    ((status == 1 || status == 2) && (match g.task slot idx with | some t => t.halt | none => false))
  let g := g.finishTask slot n idx status
  let g := if halt then g.haltGraph slot else g
  let g := if status = 0 then (match g.graph slot with | some x => g.release slot n idx g.now (x.waiting + 1) | none => g) else g
  (g.afterTask slot).coreSettle

/-! ### GRAPH_LOAD, GRAPH_UNLOAD (R78, R79, R84) -/

/-- Parse a task descriptor. -/
def parseTask (b : List Byte) (edges : List Nat) : Task :=
  { image := u16 b 2, kind := u8 b 4, pri := bits (u8 b 5) 0 2, strict := bit (u8 b 5) 2, halt := bit (u8 b 5) 3, npred := u16 b 6,
    cmask := u16 b 8, succs := (edges.drop (u32 b 12 / 2)).take (u16 b 10), k := u32 b 16, param := u32 b 20, inAddr := u64 b 24,
    outAddr := u64 b 32, auxAddr := u64 b 40, stride := u32 b 48 }

/-- Tasks reached from a set in one step or more; `n` bounds the rounds. -/
def reachFrom (ts : List Task) : Nat → List Nat → List Nat → List Nat
  | 0, _, seen => seen
  | n + 1, front, seen =>
    let next := ((front.flatMap (fun i => match ts[i]? with | some t => t.succs | none => [])).filter (fun j => !seen.contains j)).eraseDups
    if next.isEmpty then seen else reachFrom ts n next (seen ++ next)

/-- Remove tasks without predecessors until none is left or all have one; `n` bounds the rounds. -/
def peel (ts : List Task) : Nat → List Nat → List Nat
  | 0, left => left
  | n + 1, left =>
    let keep := left.filter (fun i => left.any (fun j => match ts[j]? with | some t => t.succs.contains i | none => false))
    if keep.length = left.length then left else peel ts n keep

/-- The lowest task that lies on a cycle (R79). -/
def cycleAt (ts : List Task) : Option Nat :=
  (peel ts (ts.length + 1) (List.range ts.length)).find? (fun i => (reachFrom ts (ts.length + 1) [i] []).contains i)

/-- The first check of R79 a graph fails, with the lowest task index at which it fails: 1 `crc`, 2 reserved encodings, 3 `task`,
4 `image` and `cmask`, 5 `k`, 6 successor range, 7 list inside the edge table, 8 duplicates, 9 `npred`, 10 a cycle. The list names no check for a value
out of range (`ntasks`, `inst_max`, alignment, `edge_bytes`, `npred`, `nsucc`): it counts as check 2; of several failures the one listed first is
reported (DESIGN CHOICE, assumption log 40). -/
def Gn.graphCheck (g : Gn) (h : List Byte) (raw : List (List Byte)) (edges : List Nat) : Option (Nat × Nat) :=
  let ts := raw.map (fun b => parseTask b edges)
  let n := raw.length
  let first := fun (code : Nat) (bad : List Byte × Nat → Bool) =>
    match raw.zipIdx.find? bad with | some e => some (code, e.2) | none => none
  let mode := u8 h 2
  let im := u8 h 3
  let tk := fun i => ts.getD i (parseTask [] [])
  let hdrResv := decide (16 ≤ u16 h 0) || decide (3 ≤ mode) || decide (im < 1) || decide ((if mode = 2 then 64 else 4) < im)
    || u32 h 4 != n || n == 0 || decide (65536 < n) || u64 h 8 % 64 != 0 || u64 h 16 % 2 != 0 || u32 h 24 != 2 * edges.length
    || decide (2 * 65536 * 1024 < u32 h 24) || (if mode = 1 then decide (8 ≤ u16 h 28) else u16 h 28 != 0) || !zeroBytes h 30 60
  let imgBad := fun i => let t := tk i
    match g.image t.image with
    | none => true
    | some x => popcount 16 t.cmask != x.nlc
  if h.length != 64 || u32 h 60 != crc32c (h.take 60) then some (1, 0)
  else if let some e := first 1 (fun e => e.1.length != 64 || u32 e.1 60 != crc32c (e.1.take 60)) then some e
  else if hdrResv then some (2, 0)
  else if let some e := first 2 (fun e => decide (256 ≤ u16 e.1 2) || decide (2 ≤ u8 e.1 4) || bits (u8 e.1 5) 0 2 == 3 || bits (u8 e.1 5) 4 4 != 0
      || decide (64 < u16 e.1 6) || decide (1024 < u16 e.1 10) || u32 e.1 12 % 2 != 0 || !zeroBytes e.1 52 60) then some e
  else if let some e := first 3 (fun e => u16 e.1 0 != e.2) then some e
  else if let some e := first 4 (fun e => imgBad e.2) then some e
  else if let some e := first 5 (fun e => u32 e.1 16 != 0 && (match g.image (u16 e.1 2) with | some x => x.kVar == 0 | none => true)) then some e
  else if let some e := first 6 (fun e => (tk e.2).succs.any (fun j => decide (n ≤ j))) then some e
  else if let some e := first 7 (fun e => decide (2 * edges.length < u32 e.1 12 + 2 * u16 e.1 10)) then some e
  else if let some e := first 8 (fun e => (tk e.2).succs.eraseDups.length != (tk e.2).succs.length) then some e
  else if let some e := first 9 (fun e => (ts.filter (fun t => t.succs.contains e.2)).length != u16 e.1 6) then some e
  else (cycleAt ts).map (fun i => (10, i))

/-- GRAPH_LOAD: an occupied slot refuses (R79, R342); a failed check rejects the whole with record kind 6 (`p0` check, `p1` task). -/
def Gn.graphLoad (g : Gn) (h : DescHdr) (allTasks : Bool) (hdr : List Byte) (raw : List (List Byte)) (edges : List Nat) : Gn :=
  let slot := u16 hdr 0
  if (g.graph slot).isSome then g.complete 0x06 h stRefused []
  else match g.graphCheck hdr raw edges with
    | some (c, i) => (g.record prodSeq (Config.recCode 6).toNat 4 slot c i 0 0).failed 0x06 h (Config.recCode 6).toNat i
    | none =>
      let ts := raw.map (fun b => parseTask b edges)
      let x : Graph :=
        { slot := slot, mode := u8 hdr 2, instMax := u8 hdr 3, stream := u16 hdr 28, tasks := ts,
          allTasks := allTasks, fn := h.fn, sq := h.sq, enabled := true, halted := false, unload := none, unloading := false,
          winSkip := 0, skipWarn := false, wins := [], next := 0, insts := [] }
      let g := (g.onSq (fun q => { q with graphs := q.graphs ++ [x] })).complete 0x06 h stOk [slot]
      if x.mode = 0 then (g.newInst slot none).afterTask slot else g

def execGraphLoad (h : DescHdr) (allTasks : Bool) (hdr : List Byte) (tasks : List (List Byte)) (edges : List Nat) (s : State) :
    Host.Outcome State Fault Refusal :=
  gnStep s (fun g => g.desc 0x06 ruleS h (fun g => g.graphLoad h allTasks hdr tasks edges))

/-- Unload a graph: as at a halt, then the slot empties (R84). -/
def Gn.unloadGraph (g : Gn) (slot : Nat) (h : Option DescHdr) : Gn :=
  match g.graph slot with
  | none => g
  | some x =>
    let g := g.setGraph { x with unloading := true, unload := h, wins := [] }
    ((g.haltGraph slot).afterTask slot).coreSettle

/-- GRAPH_UNLOAD; an empty slot, or one already unloading, refuses. -/
def Gn.graphUnload (g : Gn) (h : DescHdr) (slot : Nat) : Gn :=
  if 16 ≤ slot then g.complete 0x07 h stInvalid []
  else match g.graph slot with
    | none => g.complete 0x07 h stRefused []
    | some x => if x.unloading then g.complete 0x07 h stRefused [] else g.unloadGraph slot (some h)

/-! ### Launch (R82, R95, R100, R102) -/

/-- A sitting's freeze holds launches and proof control (R173, R178). -/
def Gn.frozen (g : Gn) : Bool := g.sits.any (fun x => x.st == .frozen)

/-- A candidate for launch: slot, instance, index, task, ready stamp. -/
structure Cand where
  slot : Nat
  inst : Nat
  idx : Nat
  t : Task
  stamp : Nat
deriving DecidableEq, Repr

/-- A model task waits at a closed barrier: its instance is not bound to a slot in COMMIT (R102). -/
def Gn.barred (g : Gn) (img : Nat) (i : Inst) : Bool :=
  (g.imgSlots img).any (fun s => (g.ens s).closed && !i.bind.any (fun b => b.1 == s))

/-- Order of R82. -/
def candLe (a b : Cand) : Bool :=
  if a.t.pri ≠ b.t.pri then decide (a.t.pri < b.t.pri)
  else if a.stamp ≠ b.stamp then decide (a.stamp < b.stamp)
  else if a.slot ≠ b.slot then decide (a.slot < b.slot)
  else if a.inst ≠ b.inst then decide (a.inst < b.inst)
  else decide (a.idx ≤ b.idx)

/-- Ready tasks in rank order; one whose release lies in a later cycle is not ready yet (R83). -/
def Gn.cands (g : Gn) : List Cand :=
  (g.sq.graphs.flatMap (fun x => x.insts.flatMap (fun i => i.ts.zipIdx.filterMap (fun e => match e.1 with
    | .ready s => (match x.tasks[e.2]? with
        | some t => if g.barred t.image i || decide (g.now < s) then none else some ⟨x.slot, i.n, e.2, i.bound t, s⟩
        | none => none)
    | _ => none)))).mergeSort candLe

/-- A task's whole footprint in each of its clusters: (cluster, cores, banks). Footprints of running tasks never overlap (R72, R82). -/
def Gn.footprint (g : Gn) (t : Task) : List (Nat × Nat × Nat) :=
  t.clusters.zipIdx.map (fun e => let f := g.foot t.image e.2; (e.1, f.cores, f.sbanks))

/-- Every footprint core of a task is free of running tasks. -/
def Gn.coresFree (g : Gn) (t : Task) : Bool := (g.footprint t).all (fun x => x.2.1 &&& g.busyCores x.1 == 0)

/-- Cores wanted in a cluster: the footprint without pending and withdrawn cores; banks wanted. -/
def Gn.wants (g : Gn) (t : Task) : List (Nat × Nat × Nat) :=
  t.clusters.zipIdx.map (fun e => let f := g.foot t.image e.2; (e.1, f.cores &&& (g.outCores e.1 ^^^ 0xFFFF), f.sbanks))

/-- The task has a plan in each of its clusters now (R76). -/
def Gn.hasPlan (g : Gn) (c : Cand) : Bool := c.t.clusters.zipIdx.all (fun e => (g.planFor e.1 (g.foot c.t.image e.2).cores).isSome)

/-- The task is held at launch already (R76). -/
def Gn.heldAt (g : Gn) (c : Cand) : Bool :=
  match g.graph c.slot with
  | none => false
  | some x => match x.inst c.inst with | some i => i.noPlan.contains c.idx | none => false

/-- The highest-ranked task that can launch without taking what a higher-ranked waiting task wants (R82). One whose resources are free but that has no plan
enters a hold (R76); a held one keeps what it wants. -/
def Gn.pick (g : Gn) : List Cand → List (Nat × Nat × Nat) → Option Cand
  | [], _ => none
  | c :: cs, wanted =>
    let w := g.wants c.t
    let free := g.coresFree c.t && w.all (fun x => x.2.2 &&& g.busyBanks x.1 c.slot c.inst c.idx == 0
      && wanted.all (fun y => y.1 != x.1 || (x.2.1 &&& y.2.1 == 0 && x.2.2 &&& y.2.2 == 0)))
    if free && (g.hasPlan c || !g.heldAt c) then some c else g.pick cs (w ++ wanted)

/-- Enter a hold at launch (R76): one warning record, `nop_hold` in each cluster without a plan. -/
def Gn.holdLaunch (g : Gn) (c : Cand) : Gn :=
  let none' := c.t.clusters.zipIdx.filter (fun e => (g.planFor e.1 (g.foot c.t.image e.2).cores).isNone)
  let g := forEach none' (fun e g => g.inc (F.clPlan_nopHold e.1)) g
  let g := g.record prodSeq (Config.recCode 7).toNat 3 (taskSource c.slot c.idx) c.inst c.t.image 0 0
  match g.graph c.slot with
  | none => g
  | some x => match x.inst c.inst with
    | none => g
    | some i => g.setGraph (x.setInst { i with noPlan := i.noPlan ++ [c.idx] })

/-- Bind an instance to a slot's admitting epoch and raise the counts (R102, R103). -/
def Gn.bindEns (g : Gn) (slot n ens : Nat) (ep : Epoch) : Gn :=
  match g.graph slot with
  | none => g
  | some x => match x.inst n with
    | none => g
    | some i =>
      if i.bind.any (fun b => b.1 == ens) then g
      else
        let model := x.tasks.filter (fun t => t.kind == 0 && (g.imgSlots t.image).contains ens)
        let e := ep.panels.foldl (fun e p => e.addRef ep.epoch p.num (model.filter (fun t => g.walks t.image)).length) (g.ens ens)
        let e := e.addRef ep.epoch 65535 (model.filter (fun t => g.quants t.image)).length
        (g.setEns ens e).setGraph (x.setInst { i with bind := i.bind ++ [(ens, ep.epoch)] })

/-- Boundary values a quantizer record reads: first pool index and count. -/
def qrange (q : Nat) : Nat × Nat := if bits q 0 4 = 2 then (bits q 32 22, bits q 64 16) else (0, 0)

/-- The copy of an epoch's quantizers (R88): its records, then the boundary ranges of its features in feature order. -/
def Gn.quantCopy (g : Gn) (ep : Epoch) : List Byte :=
  ep.qrecs.flatMap (fun q => leBytes 16 q.toNat)
    ++ ep.qrecs.flatMap (fun q => (List.range (qrange q.toNat).2).flatMap (fun i =>
      leBytes 4 (SMap.get (fun _ => (0 : Word32)) g.ts.pool ((qrange q.toNat).1 + i)).toNat))

/-- Bytes of that copy: 16 × nfeat + 4 × Σ count. -/
def Epoch.copyBytes (ep : Epoch) : Nat := 16 * ep.qrecs.length + 4 * (ep.qrecs.map (fun q => (qrange q.toNat).2)).sum

/-- Epochs whose quantizers a task copies, with the offset of each copy in its cores' data region: the slots of its image in order (assumption log 40). -/
def Gn.copies (g : Gn) (slot inst img : Nat) : List (Nat × Epoch × Nat) :=
  ((g.imgSlots img).foldl (fun (acc : List (Nat × Epoch × Nat) × Nat) s => match g.boundEpoch slot inst s with
    | none => acc
    | some ep => (acc.1 ++ [(s, ep, acc.2)], acc.2 + ep.copyBytes)) ([], 0)).1

/-- Why a model task cannot run: the slot has no admitting epoch (record kind 15), a panel has no walking cluster (kind 16), or the quantizer
copies exceed `data_kib` (R88, R95, R100). -/
def Gn.modelFault (g : Gn) (c : Cand) (ens : Nat) : Option (Nat × Nat) :=
  match g.boundEpoch c.slot c.inst ens with
  | none => some (15, ens)
  | some ep =>
    match (if g.walks c.t.image then ep.panels.find? (fun p => c.t.cmask &&& p.cmask == 0) else none) with
    | some p => some (16, p.num)
    | none =>
      let bytes := ((g.copies c.slot c.inst c.t.image).map (fun e => e.2.1.copyBytes)).sum
      let room := (c.t.clusters.zipIdx.map (fun e => (g.foot c.t.image e.2).dataKib * 1024)).foldl min (768 * 1024)
      if g.quants c.t.image && decide (room < bytes) then some (0, ens) else none

/-- Where a task's data region begins in a core's SRAM: after the schedule's (R69; assumption log 40). -/
def footData (f : Foot) : Nat := f.schedKib * 1024

/-- The quantize stage's copies stand in the data region of every core that a task uses (R88). -/
def Gn.placeCopies (g : Gn) (slot inst : Nat) (t : Task) (used : List Nat) : Gn :=
  if !g.quants t.image then g
  else forEach (t.clusters.zip used).zipIdx (fun e g =>
    let base := footData (g.foot t.image e.2)
    forEach (setBits 16 e.1.2) (fun k g => forEach (g.copies slot inst t.image) (fun x g =>
      g.onAr (fun s => { s with mem := SMap.setList (fun _ => (0 : Byte)) s.mem (e.1.1 * 2 ^ 24 + coreAddr k (base + x.2.2)) (g.quantCopy x.2.1) })) g) g) g

/-- A stage takes K from the task's descriptor when the image's `k_var` names it and the descriptor's K is not 0 (R69, R78). -/
def stageFor (kVar : Nat) (t : Task) (st : Stage) : Stage :=
  if t.k ≠ 0 ∧ st.num < 32 ∧ kVar.testBit st.num = true then { st with k := t.k } else st

/-- A matrix stage of the task's image breaks R25, R39 or R60 under the task's K: it is rejected before any product is placed. -/
def Gn.stageBad (g : Gn) (t : Task) : Bool :=
  match g.image t.image with
  | none => false
  | some x => x.stages.any (fun st => !stageOk (stageFor x.kVar t st))

/-- Launch a task on the plans of now (R76, R82); one with a rejected stage runs to its first break point with FAULT_DATA fixed (R25). A model task
whose slot has no admitting epoch completes FAULT_DATA (R100), also while a first staging runs in that slot: R100 names EMPTY only (the model's choice,
log 40). -/
def Gn.launch (g : Gn) (c : Cand) : Gn :=
  let slots := g.imgSlots c.t.image
  let absent := slots.find? (fun s => (g.boundEpoch c.slot c.inst s).isNone && (g.ens s).cur.isNone)
  let g := if absent.isSome then g else forEach slots (fun s g => match (g.ens s).cur with | some ep => g.bindEns c.slot c.inst s ep | none => g) g
  let plans := c.t.clusters.zipIdx.map (fun e => (g.planFor e.1 (g.foot c.t.image e.2).cores).getD (0, 0))
  let r : Run :=
    { plans := plans.map (·.1), used := plans.map (·.2), cyc := plans.map (fun _ => 0), bp := 0, status := b2n (g.stageBad c.t),
      why := if g.stageBad c.t then .shape else .none,
      held := false, launched := g.now, delay := g.now - c.stamp, special := 0, idx := 0, released := [], cancel := false,
      oct := plans.map (fun _ => 0) }
  let g := g.setTst c.slot c.inst c.idx (.running r)
  let g := match g.graph c.slot with
    | some x => (match x.inst c.inst with
        | some i => g.setGraph (x.setInst { i with launchedTasks := i.launchedTasks ++ [c.idx], noPlan := i.noPlan.filter (fun k => k != c.idx) })
        | none => g)
    | none => g
  let sched := (c.t.clusters.zip plans).foldl (fun m e => (setBits 16 e.2.2).foldl
    (fun m k => SMap.set (fun _ => 0) m (e.1 * 16 + k) (c.t.image * 8 + e.2.1 + 1)) m) g.sq.sched
  let g := g.onSq (fun q => { q with sched := sched })
  match (match absent with | some s => some (15, s) | none => slots.findSome? (fun s => g.modelFault c s)) with
  | some (kind, what) =>
    let g := if kind = 0 then g else g.record prodSeq (Config.recCode kind).toNat 4 (taskSource c.slot c.idx) what c.inst c.t.image 0
    g.taskDone c.slot c.inst c.idx 1
  | none =>
    let g := g.placeCopies c.slot c.inst c.t (plans.map (·.2))
    let g := if g.stageBad c.t then g.record prodSeq (Config.recCode 22).toNat 4 (taskSource c.slot c.idx) 2 c.inst c.t.image 0 else g
    match g.graph c.slot with
    | some x => g.settleGraph c.slot (x.waiting + 1)
    | none => g

/-- TASK_LAUNCH: the next launch by rank, or the hold of a task without a plan, when the module runs and no freeze holds launches. -/
def Gn.taskLaunch (g : Gn) : Gn :=
  if !g.alive || g.rg F.pwState_pstate != 0 || g.frozen then g
  else match g.pick g.cands [] with
    | none => g
    | some c => if g.hasPlan c then g.launch c else g.holdLaunch c

/-- The task is running and its pipeline moves: not held, no freeze, module in Run. -/
def Gn.runOf (g : Gn) (slot n idx : Nat) : Option (Task × Run) :=
  match g.graph slot, g.task slot idx, g.tst slot n idx with
  | some x, some t, some (.running r) => some (match x.inst n with | some i => i.bound t | none => t, r)
  | _, _, _ => none

/-- Pipelines move. -/
def Gn.moving (g : Gn) : Bool := g.alive && g.rg F.pwState_pstate == 0 && !g.frozen

/-- TASK_COMPLETE (R84): the end of the task is a break point; it completes with its own status. -/
def Gn.taskComplete (g : Gn) (slot n idx : Nat) : Gn :=
  match g.runOf slot n idx with
  | some (_, r) => if g.moving && !r.held then g.taskDone slot n idx r.status else g
  | none => g

/-- Plans of a task's clusters now. -/
def Gn.plansNow (g : Gn) (t : Task) : List (Option (Nat × Nat)) :=
  t.clusters.zipIdx.map (fun e => g.planFor e.1 (g.foot t.image e.2).cores)

/-- BREAK_POINT (R73, R74, R76, R77, R84): a faulted task stops here, a cancelled one is CANCELLED; plans are chosen again. The manual says when a
SCHEDULE_FAULT stops (R73), of FAULT_DATA and FAULT_MEM only that the task faults: they stop at the next break point, or the end, too. `plan_sw` counts a
change of the plan or of the cores under the same plan (both reload, R77), here and at the resume from a hold (DESIGN CHOICES, assumption log 40). -/
def Gn.breakPoint (g : Gn) (slot n idx : Nat) : Gn :=
  match g.runOf slot n idx with
  | none => g
  | some (t, r) =>
    if !g.moving || r.held then g
    else if r.status ≠ 0 then g.taskDone slot n idx r.status
    else if r.cancel then g.taskDone slot n idx 6
    else
      let ps := g.plansNow t
      let zero := r.cyc.map (fun _ => 0)
      if ps.all (·.isSome) then
        let new := ps.map (fun p => p.getD (0, 0))
        let sw := (t.clusters.zip (r.plans.zip r.used |>.zip new)).filter (fun e => e.2.1 != e.2.2)
        let g := forEach sw (fun e g => g.inc (F.clPlan_planSw e.1)) g
        let r := { r with plans := new.map (·.1), used := new.map (·.2), cyc := zero, bp := r.bp + 1 }
        let g := if sw.isEmpty then g else g.placeCopies slot n t r.used
        (g.setTst slot n idx (.running r)).coreSettle
      else
        let none' := (t.clusters.zip ps).filter (fun e => e.2.isNone)
        let g := forEach none' (fun e g => g.inc (F.clPlan_nopHold e.1)) g
        let g := g.record prodSeq (Config.recCode 7).toNat 3 (taskSource slot idx) n t.image 0 0
        (g.setTst slot n idx (.running { r with held := true, cyc := zero, bp := r.bp + 1 })).coreSettle

/-- HOLD_RESUME (R76): a held task resumes once every cluster has a plan and its cores are free; a cancelled one is CANCELLED. -/
def Gn.holdResume (g : Gn) (slot n idx : Nat) : Gn :=
  match g.runOf slot n idx with
  | none => g
  | some (t, r) =>
    if !g.moving || !r.held then g
    else if r.cancel then g.taskDone slot n idx 6
    else
      let ps := g.plansNow t
      if ps.all (·.isSome) && g.coresFree t then
        let new := ps.map (fun p => p.getD (0, 0))
        let sw := (t.clusters.zip (r.plans.zip r.used |>.zip new)).filter (fun e => e.2.1 != e.2.2)
        let g := forEach sw (fun e g => g.inc (F.clPlan_planSw e.1)) g
        (g.placeCopies slot n t (new.map (·.2))).setTst slot n idx (.running { r with plans := new.map (·.1), used := new.map (·.2), held := false })
      else g

/-- Core reset (R74, R285) of cores 16 × cluster + core: their SRAM, their engines' tally files and arrays, walkers and schedules. -/
def Gn.coreReset (g : Gn) (keys : List Nat) : Gn :=
  let inMem := fun k => keys.contains (k / 2 ^ 24 * 16 + k % 2 ^ 24 / coreBytes) && decide (k % 2 ^ 24 < sramBytes)
  let inWord := fun k => keys.contains (k / 2 ^ 21 * 16 + k % 2 ^ 21 * 8 / coreBytes) && decide (k % 2 ^ 21 * 8 < sramBytes)
  let core := fun e => if e < 64 then e / 4 else e - 64
  let inTally := fun k => keys.contains (k / 131072 * 16 + core (k % 131072 / 1024))
  let inEng := fun k => keys.contains (k / 128 * 16 + core (k % 128))
  let g := g.onSq (fun q => { q with sched := q.sched.filter (fun e => !keys.contains e.1), tallies := q.tallies.filter (fun e => !inTally e.1) })
  let g := g.onAr (fun a => { a with
    mem := a.mem.filter (fun e => !inMem e.1), tags := a.tags.filter (fun e => !inWord e.1), flips := a.flips.filter (fun e => !inWord e.1),
    tflips := a.tflips.filter (fun e => !inTally e.1), engs := a.engs.filter (fun e => !inEng e.1), sparse := a.sparse.filter (fun e => !inEng e.1),
    codes := a.codes.filter (fun e => !keys.contains (e.1 / 2 ^ 14)), loads := a.loads.filter (fun e => !keys.contains e.1),
    vecs := a.vecs.filter (fun e => !keys.contains e.1), chunks := a.chunks.filter (fun e => !keys.contains e.1) })
  { g with ts := { g.ts with walks := g.ts.walks.filter (fun e => !keys.contains (e.1 / 32)) } }

/-- BP_WATCHDOG (R74): a cluster's count has reached bp_max + 1,024; every footprint core is reset, the task completes HANG. -/
def Gn.bpWatchdog (g : Gn) (slot n idx : Nat) : Gn :=
  match g.runOf slot n idx with
  | none => g
  | some (t, r) =>
    let m := match g.image t.image with | some x => x.bpMax | none => 0
    if !g.alive || r.held || !r.cyc.any (fun c => decide (m + 1024 ≤ c)) then g
    else
      let keys := t.clusters.zipIdx.flatMap (fun e => (setBits 16 (g.foot t.image e.2).cores).map (fun k => e.1 * 16 + k))
      ((g.coreReset keys).record prodSeq (Config.recCode 11).toNat 4 (taskSource slot idx) n t.image 0 0).taskDone slot n idx 4

/-- Running tasks on a cluster complete with a status (cluster reset: HANG). -/
def Gn.killOn (g : Gn) (c status : Nat) : Gn :=
  forEach (g.running.filter (fun e => e.2.2.2.1.clusters.contains c)) (fun e g => g.taskDone e.1 e.2.1 e.2.2.1 status) g

/-- A batch instance ends early: ready tasks, and those that only wait for the instance before, are CANCELLED, running ones at their next break point
(R127). -/
def Gn.cancelInst (g : Gn) (slot n : Nat) : Gn :=
  match g.graph slot with
  | none => g
  | some x => match x.inst n with
    | none => g
    | some i =>
      let stop := fun (t : TSt) => match t with | .running r => .running { r with cancel := true } | _ => t
      let g := g.setGraph (x.setInst { i with ts := i.ts.map stop, ended := true })
      let okNow := fun (p : Nat) => match i.ts[p]? with | some (.done 0) => true | _ => false
      let ready := i.ts.zipIdx.filter (fun e => match e.1 with
        | .ready _ => true
        | .waiting => (x.tasks.zipIdx.filter (fun k => k.1.succs.contains e.2)).all (fun k => okNow k.2)
        | _ => false)
      (forEach ready (fun e g => g.finishTask slot n e.2 6) g).afterTask slot

/-! ### Windows for graphs (R80) -/

/-- A window closed on a stream: every mode-1 graph of the stream takes it, or it waits; a 17th waiting window skips the oldest. -/
def Gn.windowToGraphs (g : Gn) (stream start : Nat) : Gn :=
  forEach ((g.sq.graphs.filter (fun x => x.mode == 1 && x.stream == stream && x.creates)).map (·.slot)) (fun slot g =>
    match g.graph slot with
    | none => g
    | some x =>
      let ws := x.wins ++ [start]
      let y := if 16 < ws.length ∧ x.instMax ≤ x.insts.length then { x with wins := ws.drop 1, winSkip := x.winSkip + 1, skipWarn := true }
        else { x with wins := ws }
      (g.setGraph y).afterTask slot) g

/-- WIN_SKIP_WARNING: one record per second while skips continue (R80), kind 13. -/
def Gn.winSkipWarning (g : Gn) (slot : Nat) : Gn :=
  match g.graph slot with
  | none => g
  | some x => if x.skipWarn then
      (g.setGraph { x with skipWarn := false }).record prodSeq (Config.recCode 13).toNat 3 slot x.winSkip 0 0 0 else g

def execWinSkipWarning (slot : Nat) (s : State) : Host.Outcome State Fault Refusal := gnStep s (fun g => g.winSkipWarning slot)

end Sys2Proof.Machine
end

