-- ==== Sys2Proof/Machine/Engine.lean ====
section
/-! DEFINITION. The engines of a cluster in one island cycle (chapters 02 and 03): anchor passes, tiles moving down the rows, structured sparsity, drains and
add-ins. -/

namespace Sys2Proof.Machine

/-- Take the next free value (assumption log 3). -/
def Gn.draw (g : Gn) : Gn × Nat := ({ g with free := g.free + 1 }, (Config.freeValue g.free).toNat)

/-- Where one island cycle runs: graph slot, instance, task index, cluster, its logical number, task and footprint. -/
structure Site where
  slot : Nat
  inst : Nat
  idx : Nat
  c : Nat
  lc : Nat
  t : Task
  f : Foot
deriving DecidableEq, Repr

/-- Change the run-time state of the task. -/
def Gn.onRun (g : Gn) (x : Site) (f : Run → Run) : Gn :=
  match g.tst x.slot x.inst x.idx with
  | some (.running r) => g.setTst x.slot x.inst x.idx (.running (f r))
  | _ => g

/-- The task faults. A collision or footprint violation makes it SCHEDULE_FAULT whatever came before (R73); of two other faults the manual names no winner,
and the first fixes the status (DESIGN CHOICE, assumption log 40). -/
def Gn.taskFault (g : Gn) (x : Site) (status : Nat) (why : Why) : Gn :=
  g.onRun x (fun r => if r.status = 0 ∨ (status = 3 ∧ r.status < 3) then { r with status := status, why := why } else r)

/-- Error record of a task, of an opaque kind: `p0` detail, `p1` instance, `p2` image. -/
def Gn.taskRecord (g : Gn) (x : Site) (kind what : Nat) : Gn :=
  g.recordIsl x.c (Config.recCode kind).toNat 4 (taskSource x.slot x.idx) what x.inst x.t.image 0

/-- A requester of this cycle's task. -/
def Site.port (x : Site) (req : Nat) : MemPort := ⟨x.c, x.f, req⟩

/-- Requester index of an engine, or of a core's walker (64 + core) (R73). -/
def engReq (eng : Nat) : Nat := if eng % 128 < 64 then eng % 128 / 4 * 8 + eng % 4 else eng % 16 * 8 + 4

/-- Core of an engine or walker. -/
def engCore (eng : Nat) : Nat := if eng % 128 < 64 then eng % 128 / 4 else eng % 16

/-! ### Tallies (R28, R52) -/

/-- Key of a tally: cluster, engine (64 + core for a walker's file), index. -/
def tallyKey (c eng idx : Nat) : Nat := c * 131072 + (eng % 80) * 1024 + idx % 1024

/-- A tally; one that no anchor pass has started holds nothing and no anchor (assumption log 8). -/
def Gn.tally (g : Gn) (c eng idx : Nat) : Tally := (SMap.get (fun _ => none) g.sq.tallies (tallyKey c eng idx)).getD (Tally.empty noAnchor)

def Gn.setTally (g : Gn) (c eng idx : Nat) (y : Tally) : Gn :=
  g.onSq (fun q => { q with tallies := SMap.set (fun _ => none) q.tallies (tallyKey c eng idx) (some y) })

/-- Accumulate in a tally: the cycle's collision watch notes it (R34). -/
def Gn.accumulate (g : Gn) (c eng idx : Nat) (y : Tally) : Gn :=
  (g.setTally c eng idx y).onAr (fun s => { s with wrote := s.wrote ++ [tallyKey c eng idx] })

/-- Clear a tally to an anchor, a signed 16-bit field (R28): its parity is fresh. -/
def Gn.clearTally (g : Gn) (c eng idx : Nat) (a : Int) : Gn :=
  (g.setTally c eng idx (Tally.empty (sext 16 (BitVec.ofInt 16 a).toNat))).onAr (fun s => { s with tflips := s.tflips.filter (fun e => e.1 != tallyKey c eng idx) })

/-- An upset flips a bit of a tally or of its parity. -/
def Gn.tallyUpset (g : Gn) (c eng idx bit : Nat) : Gn :=
  let k := tallyKey c eng idx
  let y := g.tally c eng idx
  let g := if bit < 192 then g.setTally c eng idx { y with t := y.t ^^^ BitVec.ofNat 192 (2 ^ bit) } else g
  g.onAr (fun s => { s with tflips := SMap.set (fun _ => 0) s.tflips k (SMap.get (fun _ => 0) s.tflips k ^^^ 2 ^ (bit % 196)) })

/-- A quarter's parity disagrees with its 48 bits (R52). -/
def parityBad (m : Nat) : Bool := (List.range 4).any (fun q => (popcount 48 (m >>> (48 * q)) + b2n (m.testBit (192 + q))) % 2 == 1)

/-- Read a tally out (R52): parity is checked, and a readout in the cycle of an accumulation is a collision whose value is not used (R34): none. -/
def Gn.readout (g : Gn) (x : Site) (eng idx : Nat) : Gn × Option Tally :=
  let k := tallyKey x.c eng idx
  let g := g.onAr (fun s => { s with read := s.read ++ [k] })
  let g := if parityBad (SMap.get (fun _ => 0) g.ar.tflips k) then
      let what := (eng % 64) * 1024 + idx % 1024
      (g.inc (F.clMem_ueCount x.c)).onAr (fun s => { s with ues := s.ues ++ [(engCore eng, what, 3)] })
    else g
  (g, if g.ar.wrote.contains k then none else some (g.tally x.c eng idx))

/-- Add a task's saturated special outputs (R41). -/
def Gn.addSpecial (g : Gn) (x : Site) (n : Nat) : Gn :=
  (g.addSat (F.clArith_specialSat x.c) n).onRun x (fun r => { r with special := r.special + n })

/-- Read out a run of tallies. -/
def Gn.readouts (g : Gn) (x : Site) (eng idx n : Nat) : Gn × List (Option Tally) :=
  (List.range n).foldl (fun (acc : Gn × List (Option Tally)) i => match acc.1.readout x eng (idx + i) with | (g, y) => (g, acc.2 ++ [y])) (g, [])

/-- Convert a row of tallies to an output format and write it to the core's SRAM (R38 to R42, R51, R52): an MX row is one block with its tag. -/
def Gn.convertRow (g : Gn) (x : Site) (eng fmt out : Nat) (ys : List Tally) : Gn :=
  let p := x.port (engReq eng)
  let a := coreAddr (engCore eng) out
  if isMx fmt then
    let b := mxBlock fmt ys
    let g := ((g.addSat (F.clArith_satClamp x.c) b.2.2.1).addSpecial x b.2.2.2)
    let g := g.poke p a (packElems fmt b.2.1)
    if p.blocked a (blockBytes fmt) then g else g.setTag x.c a (blockTag fmt b.1 b.2.1)
  else
    let cs := ys.map (fun y => y.toFp fmt)
    let g := g.addSat (F.clArith_ovfInf x.c) (cs.map (·.2)).sum
    g.poke p a (packElems fmt (cs.map (·.1)))

/-- Converted drain of 32 tallies from `idx` on (R52). -/
def Gn.drainRow (g : Gn) (x : Site) (eng idx n fmt out : Nat) : Gn :=
  match g.readouts x eng idx n with
  | (g, ys) => if ys.all (·.isSome) then g.convertRow x eng fmt out (ys.filterMap id) else g

/-- Raw drain of tallies from `idx` on (R35, R52). -/
def Gn.drainRaw (g : Gn) (x : Site) (eng idx n out : Nat) : Gn :=
  match g.readouts x eng idx n with
  | (g, ys) =>
    if ys.all (·.isSome) then
      let rs := (ys.filterMap id).map Tally.raw
      g.poke (x.port (engReq eng)) (coreAddr (engCore eng) out) rs.flatten
    else g

/-- Add in a raw record (R35, R36); a refused merge is a task fault. -/
def Gn.addIn (g : Gn) (x : Site) (eng idx : Nat) (raw : List Byte) : Gn :=
  match Tally.ofRaw raw with
  | none => (g.taskRecord x 22 1).taskFault x 1 .merge
  | some y => match (g.tally x.c eng idx).merge y with
    | none => (g.taskRecord x 22 1).taskFault x 1 .merge
    | some z => g.accumulate x.c eng idx z

/-! ### Engines -/

def engEmpty : EngSt :=
  { stage := none, passes := [], ready := none, tiles := [], wait := 0, moved := false, rows := [], liveA := 0, liveB := 0, bad := false, drain := none, add := none }

def Gn.eng (g : Gn) (c eng : Nat) : EngSt := SMap.get (fun _ => engEmpty) g.ar.engs (c * 128 + eng % 80)

def Gn.setEng (g : Gn) (c eng : Nat) (e : EngSt) : Gn :=
  g.onAr (fun s => { s with engs := SMap.set (fun _ => engEmpty) s.engs (c * 128 + eng % 80) e })

/-- An engine takes up a stage; one that breaks R25, R39 or R60 faults the task and places nothing. -/
def Gn.stageStart (g : Gn) (x : Site) (eng : Nat) (st : Stage) : Gn :=
  let st := stageFor (match g.image x.t.image with | some i => i.kVar | none => 0) x.t st
  if stageOk st then g.setEng x.c eng { g.eng x.c eng with stage := some st }
  else ((g.setEng x.c eng { g.eng x.c eng with stage := none }).taskRecord x 22 2).taskFault x 1 .shape

/-- K that one lane consumes in a step, and the cycles of a step: R46; a group of 8 takes 2 cycles (R60). -/
def stageStep (st : Stage) : Nat :=
  if st.pattern ≠ 0 then groupLen st.pattern else if st.fmtA = 6 then 1 else if st.fmtA = 0 ∧ st.fmtB = 0 then 4 else 2

def stageCycles (st : Stage) : Nat := if st.pattern = 2 then 2 else 1

/-- Declared extent along K: positions from it on are padding (R63). -/
def stageExt (st : Stage) : Nat := if st.pattern = 0 ∧ st.sparse = false then st.k else st.kExt

/-- Start of the block of row (or column) `r` at position `k` of an operand: the 32 blocks of one K block stand one after the other (assumption log 40). -/
def blockAt (base bb r k : Nat) : Nat := base + (k / 32 * 32 + r) * bb

/-- Codes of `n` elements of a row from position `k` on. -/
def Gn.codes (g : Gn) (p : MemPort) (core base fmt r k n : Nat) : List Nat :=
  let w := elemBits fmt
  let off := k % 32 * w
  let b := g.peek p (coreAddr core (blockAt base (blockBytes fmt) r k + off / 8)) ((off % 8 + n * w + 7) / 8)
  (List.range n).map (fun i => bits (leNat b) (off % 8 + i * w) w)

/-- Block scale of a row at position `k`; BF16 has none. -/
def Gn.scaleAt (g : Gn) (c core base fmt bb r k : Nat) : Nat :=
  if isMx fmt then bits (g.tag c (coreAddr core (blockAt base bb r k))) 0 8 else 0

/-- Dense values of the 32 rows of A, or of the 32 columns of a dense B. -/
def Gn.denseVals (g : Gn) (p : MemPort) (core base fmt k n : Nat) : List (List KVal) :=
  (List.range 32).map (fun r =>
    let s := g.scaleAt p.c core base fmt (blockBytes fmt) r k
    (g.codes p core base fmt r k n).zipIdx.map (fun e => ⟨k + e.2, e.1, s⟩))

/-- One access of an engine port to the bank of an address, by one of requesters that share their accesses, with the words of the (address, bytes) read
checked (R48, R56). -/
def Gn.portWords (g : Gn) (reqs : List Nat) (p : MemPort) (core a : Nat) (rs : List (Nat × Nat)) : Gn :=
  let a := coreAddr core a
  let g := g.noteFor reqs p (bankOf a)
  if p.blocked a 1 then g
  else forEach ((rs.flatMap (fun r => wordsOf (coreAddr core r.1) r.2)).eraseDups) (fun w g => g.eccRead p.c w) g

/-- One access of an engine port to `n` bytes at offset `off` of each of the 32 blocks of a K block. -/
def Gn.portRead (g : Gn) (reqs : List Nat) (p : MemPort) (core base bb k off n : Nat) : Gn :=
  g.portWords reqs p core (blockAt base bb 0 k) ((List.range 32).map (fun r => (blockAt base bb r k + off, n)))

/-- What the sparse front end makes of a group in declared form (R62): two slots, or, with three or more non-zeros, every element, a density violation.
Padding holds zeros. With fewer than two non-zeros the lowest positions that hold zeros take the free slots, and a zero without a slot places no product,
also against an Inf or NaN of A: R27 and R61 leave both open (DESIGN CHOICE, assumption log 40). -/
def frontEnd (fmt ext : Nat) (vs : List KVal) : List KVal × Bool :=
  let vs := vs.map (fun v => if v.pos < ext then v else { v with code := 0 })
  let nz := vs.filter (fun v => nonZero fmt v.code)
  if 3 ≤ nz.length then (vs, true) else ((nz ++ vs.filter (fun v => !nonZero fmt v.code)).take 2, false)

/-- A stored compressed group: slot values it feeds and its index-range events. -/
def Gn.compGroup (g : Gn) (p : MemPort) (core : Nat) (st : Stage) (vals md gi base ext : Nat) : List (Nat × Nat) × Nat :=
  let v := g.peek p (coreAddr core (vals + 2 * gi)) 2
  let m := g.peek p (coreAddr core md) 4
  groupSlots st.fmtB st.pattern (groupMd st.pattern m gi) (u8 v 0) (u8 v 1) base ext

/-- Values of one column of a compressed B in the group at position `k`, and index-range events (R61, R63). -/
def Gn.compVals (g : Gn) (p : MemPort) (core : Nat) (st : Stage) (t : Tile) (j k : Nat) : List KVal × Nat :=
  let cb := compBytes st.pattern
  let r := g.compGroup p core st (blockAt t.b cb j k) (blockAt t.md 4 j k) (k % 32 / groupLen st.pattern) k (stageExt st)
  let s := g.scaleAt p.c core t.b st.fmtB cb j k
  (r.1.map (fun e => ⟨e.1, e.2, s⟩), r.2)

/-- One row of a B stored compressed along the other axis (R64): the 32 values at position `k` of the reduction, each with the scale of the stored block. -/
def Gn.crossRow (g : Gn) (p : MemPort) (core : Nat) (st : Stage) (t : Tile) (k : Nat) : List (Nat × Nat) × Nat :=
  let cb := compBytes st.pattern
  let gs := (List.range (32 / groupLen st.pattern)).map (fun gi =>
    g.compGroup p core st (blockAt t.b cb (k % 32) k) (blockAt t.md 4 (k % 32) k) gi (gi * groupLen st.pattern) 32)
  (gs.flatMap (·.1), (gs.map (·.2)).sum)

/-- The 32 columns' values at positions k .. k + n - 1, columns that violate density, index-range events: by the form of B (R60 to R64). -/
def Gn.bVals (g : Gn) (p : MemPort) (core : Nat) (st : Stage) (t : Tile) (k n : Nat) : List (List KVal) × Nat × Nat :=
  if st.pattern = 0 then (g.denseVals p core t.b st.fmtB k n, 0, 0)
  else match st.form with
    | .declared =>
      let cs := (g.denseVals p core t.b st.fmtB k n).map (frontEnd st.fmtB (stageExt st))
      (cs.map (·.1), (cs.filter (·.2)).length, 0)
    | .compressed =>
      let cs := (List.range 32).map (fun j => g.compVals p core st t j k)
      (cs.map (·.1), 0, (cs.map (·.2)).sum)
    | .transposed =>
      let rows := (List.range n).map (fun i => (k + i, g.crossRow p core st t (k + i)))
      let cs := (List.range 32).map (fun j => frontEnd st.fmtB (stageExt st) (rows.map (fun r =>
        ⟨r.1, match r.2.1.find? (fun e => e.1 == j) with | some e => e.2 | none => 0,
          g.scaleAt p.c core t.b st.fmtB (compBytes st.pattern) (r.1 % 32) r.1⟩)))
      (cs.map (·.1), (cs.filter (·.2)).length, (rows.map (fun r => r.2.2)).sum)

/-! ### The anchor pass (R29, R30, R50) -/

/-- An MX tag contributes: its scale exponent when live. -/
def tagExp (t : Nat) : Option Int := if bit t 8 then some ((bits t 0 8 : Nat) - 127) else none

/-- A BF16 word contributes: e′ when finite and not zero (R30). -/
def wordExp (w : Nat) : Option Int := if finiteNz 6 w then some (ePrime 6 w) else none

/-- Maximum of what is present. -/
def maxList (l : List (Option Int)) : Option Int := l.foldl (fun acc x => match x with | none => acc | some v => maxOpt acc v) none

/-- Fold one index of a pass into the running maxima of the 32 × 32 outputs. -/
def passFold (acc as bs : List (Option Int)) : List (Option Int) :=
  (List.range 1024).map (fun i =>
    let old := acc.getD i none
    match as.getD (i / 32) none, bs.getD (i % 32) none with
    | some a, some b => maxOpt old (a + b)
    | _, _ => old)

/-- The anchor of a maximum (R29, R30). -/
def anchorOf (st : Stage) (m : Option Int) : Int :=
  match m with
  | none => noAnchor
  | some v => if isMx st.fmtA then v + (fmtBound st.fmtA + fmtBound st.fmtB - 1) + 1 else v + 2

/-- What one index of a pass reads: 32 tags or words of A and of B. A transposed B has one tag for each position of the reduction. -/
def Gn.passRead (g : Gn) (p : MemPort) (core : Nat) (st : Stage) (q : Pass) : List (Option Int) × List (Option Int) :=
  if isMx st.fmtA then
    let k := 32 * q.next
    let bb := if st.pattern ≠ 0 ∧ st.form ≠ .declared then compBytes st.pattern else blockBytes st.fmtB
    let bt := (List.range 32).map (fun j => tagExp (g.tag p.c (coreAddr core (blockAt q.b bb j k))))
    ((List.range 32).map (fun r => tagExp (g.tag p.c (coreAddr core (blockAt q.a (blockBytes st.fmtA) r k)))),
     if st.pattern ≠ 0 ∧ st.form = .transposed then List.replicate 32 (maxList bt) else bt)
  else
    ((List.range 32).map (fun r => wordExp ((g.codes p core q.a 6 r q.next 1).headD 0)),
     (List.range 32).map (fun r => wordExp ((g.codes p core q.b 6 r q.next 1).headD 0)))

/-- Indices of a pass: block pairs, or k for BF16. -/
def passLen (st : Stage) (k : Nat) : Nat := if isMx st.fmtA then k / 32 else k

/-- One cycle of an engine's anchor unit: one index of the first pass waiting; complete, its anchors are ready for the next tile once the tile before has
taken its own. -/
def Gn.passStep (g : Gn) (x : Site) (eng : Nat) : Gn :=
  let e := g.eng x.c eng
  match e.passes with
  | q :: qs =>
    let st := q.st
    let p := x.port (engReq eng)
    let core := engCore eng
    let g := if passLen st q.k ≤ q.next ∨ isMx st.fmtA = true then g
      else (g.portRead [] p core q.a 64 q.next (2 * (q.next % 32)) 2).portRead [] p core q.b 64 q.next (2 * (q.next % 32)) 2
    let q := if passLen st q.k ≤ q.next then q
      else match g.passRead p core st q with
        | (as, bs) => { q with next := q.next + 1, acc := passFold q.acc as bs }
    if passLen st q.k ≤ q.next ∧ e.ready.isNone = true then
      g.setEng x.c eng { e with passes := qs, ready := some ((List.range 1024).map (fun i => anchorOf st (q.acc.getD i none))) }
    else g.setEng x.c eng { e with passes := q :: qs }
  | [] => g

/-! ### Tiles (R49 to R51, R62, R63) -/

/-- Mask of the rows that hold a finite non-zero value before the declared extent. -/
def liveMask (fmt ext : Nat) (vs : List (List KVal)) : Nat :=
  maskOf ((vs.zipIdx.filter (fun e => e.1.any (fun v => decide (v.pos < ext) && finiteNz fmt v.code))).map (·.2))

/-- Rows whose recomputed liveness differs from the `live` of their tag. -/
def liveDiffers (mask : Nat) (tags : List Nat) : Bool :=
  tags.zipIdx.any (fun e => (mask.testBit e.2 && bits e.1 0 8 != 0xFF) != bit e.1 8)

/-- Tags of the 32 blocks at position `k` of an operand. -/
def Gn.tagsAt (g : Gn) (c core base bb k : Nat) : List Nat := (List.range 32).map (fun r => g.tag c (coreAddr core (blockAt base bb r k)))

/-- The lane feed's check at the end of a K block (R51): A and B rows of the block at position `k`. A transposed B is checked as each position's 32 values
stream. -/
def Gn.feedCheck (g : Gn) (c core : Nat) (st : Stage) (t : Tile) (la lb k : Nat) : Bool :=
  let bb := if st.pattern ≠ 0 ∧ st.form ≠ .declared then compBytes st.pattern else blockBytes st.fmtB
  isMx st.fmtA && (liveDiffers la (g.tagsAt c core t.a (blockBytes st.fmtA) k) || liveDiffers lb (g.tagsAt c core t.b bb k))

/-- Mask that the lane feed gathers for B: by column, or for a transposed B by position of the reduction. -/
def maskB (st : Stage) (vs : List (List KVal)) : Nat :=
  if st.pattern ≠ 0 ∧ st.form = .transposed then
    maskOf ((vs.flatMap (fun c => c.filter (fun v => finiteNz st.fmtB v.code))).map (fun v => v.pos % 32))
  else liveMask st.fmtB (stageExt st) vs

/-- Port B's read for the slice at position `k` (R48): `n` positions of a dense B; of a compressed one its values and, with them, its metadata. A transposed
read takes whole stored blocks. -/
def Gn.readB (g : Gn) (p : MemPort) (core : Nat) (st : Stage) (t : Tile) (k n : Nat) : Gn :=
  let cb := compBytes st.pattern
  let gi := k % 32 / groupLen st.pattern
  let w := elemBits st.fmtB
  let both := fun (vs ms : List (Nat × Nat)) =>
    (g.portWords [] p core (blockAt t.b cb 0 k) vs).portWords [p.req] p core (blockAt t.md 4 0 k) ms
  if st.pattern = 0 ∨ st.form = .declared then g.portRead [] p core t.b (blockBytes st.fmtB) k (k % 32 * w / 8) ((n * w + 7) / 8)
  else if st.form = .compressed then
    both ((List.range 32).map (fun r => (blockAt t.b cb r k + 2 * gi, 2)))
      ((List.range 32).map (fun r => (blockAt t.md 4 r k + (if st.pattern = 1 then gi / 2 else gi), 1)))
  else both ((List.range n).map (fun i => (blockAt t.b cb ((k + i) % 32) k, cb))) ((List.range n).map (fun i => (blockAt t.md 4 ((k + i) % 32) k, 4)))

/-- The next slice of a tile enters row 0. -/
def Gn.feed (g : Gn) (x : Site) (eng : Nat) (st : Stage) (t : Tile) : Gn :=
  let e := g.eng x.c eng
  let p := x.port (engReq eng)
  let core := engCore eng
  let k := t.k0 + t.done
  let n := stageStep st
  let as := g.denseVals p core t.a st.fmtA k n
  match g.bVals p core st t k n with
  | (bs, viol, idx) =>
    let wA := elemBits st.fmtA
    let g := (g.portRead [] p core t.a (blockBytes st.fmtA) k (k % 32 * wA / 8) ((n * wA + 7) / 8)).readB p core st t k n
    let g := if 0 < viol ∨ 0 < idx then g.onAr (fun s => { s with evs := s.evs ++ [(core, eng % 4, viol, idx)] }) else g
    let g := if 0 < idx ∧ (st.strict || x.t.strict) = true then g.taskFault x 1 .index else g
    let fresh := k % 32 = 0 ∨ t.done = 0
    let la := (if fresh then 0 else e.liveA) ||| liveMask st.fmtA (stageExt st) as
    let lb := (if fresh then 0 else e.liveB) ||| maskB st bs
    let whole := (k + n) % 32 = 0 ∧ t.k0 ≤ k / 32 * 32
    let bad := whole ∧ g.feedCheck x.c core st t la lb k = true
    let g := if bad then (g.taskRecord x 9 (blockAt t.a (blockBytes st.fmtA) 0 k)).taskFault x 1 .tag else g
    let first := if t.done = 0 then e.ready else none
    let t' := { t with done := t.done + n }
    let tiles := if t.kn ≤ t'.done ∧ t.raw = true then e.tiles.drop 1 else t' :: e.tiles.drop 1
    g.setEng x.c eng
      { e with tiles := tiles, ready := if t.done = 0 then none else e.ready, wait := stageCycles st * (if 0 < viol then 2 else 1) - 1,
               rows := (Beat.feed st.fmtA st.fmtB first as bs :: e.rows).take 32, liveA := la, liveB := lb,
               bad := (if t.done = 0 then false else e.bad) || decide bad }

/-- What enters row 0 in a cycle: the next slice of the first tile, once its anchors are ready; after its last slice one cycle of draining; else nothing. -/
def Gn.rowIn (g : Gn) (x : Site) (eng : Nat) : Gn :=
  let e := g.eng x.c eng
  let push := fun (b : Beat) (ts : List Tile) => g.setEng x.c eng { e with rows := (b :: e.rows).take 32, tiles := ts }
  match e.tiles with
  | t :: ts =>
    if t.kn ≤ t.done then push (.drain (!e.bad) t.st.fmtOut t.out) ts
    else if t.done = 0 ∧ e.ready.isNone = true then push .idle e.tiles
    else g.feed x eng t.st t
  | [] => push .idle e.tiles

/-- One row works on a slice: every lane places the products of the positions that its A and B values share (R33, R49). -/
def Gn.rowFeed (g : Gn) (x : Site) (eng r fmtA fmtB : Nat) (first : Option (List Int)) (as bs : List (List KVal)) : Gn :=
  forEach (List.range 32) (fun j g =>
    let i := r * 32 + j
    let g := match first with | some an => g.clearTally x.c eng i (an.getD i noAnchor) | none => g
    let y := (bs.getD j []).foldl (fun y b => match (as.getD r []).find? (fun a => a.pos == b.pos) with
      | some a => y.product fmtA a.code a.scale fmtB b.code b.scale
      | none => y) (g.tally x.c eng i)
    g.accumulate x.c eng i y) g

/-- One cycle of an engine's array: a group that takes more cycles holds the whole engine; else every slice moves down one row. -/
def Gn.arrayStep (g : Gn) (x : Site) (eng : Nat) : Gn :=
  let e := g.eng x.c eng
  if 0 < e.wait then g.setEng x.c eng { e with wait := e.wait - 1, moved := false }
  else
    let g := (g.setEng x.c eng { e with moved := true }).rowIn x eng
    forEach (g.eng x.c eng).rows.zipIdx (fun b g => match b.1 with
      | .feed fmtA fmtB first as bs => g.rowFeed x eng b.2 fmtA fmtB first as bs
      | _ => g) g

/-! ### Drains and add-ins (R52) -/

/-- A drain of a tile's or a chunk's tallies starts, unless one runs; an MX output takes whole blocks of 32, else it is rejected as R25 states (R39). -/
def Gn.drainStart (g : Gn) (x : Site) (eng n : Nat) (raw : Bool) (fmt out : Nat) : Gn :=
  let e := g.eng x.c eng
  let n := min n 1024
  if e.drain.isSome ∨ n = 0 ∨ 8 ≤ fmt then g
  else if raw = false ∧ isMx fmt = true ∧ n % 32 ≠ 0 then (g.taskRecord x 22 2).taskFault x 1 .shape
  else g.setEng x.c eng { e with drain := some ⟨raw, !e.bad, fmt, 0, n, out⟩ }

/-- Rows that drain in this cycle, and the engine's drain in progress: 32 conversions or 4 raw records a cycle. Outputs of a tile whose block tag
differed are not written. -/
def Gn.drainStep (g : Gn) (x : Site) (eng : Nat) : Gn :=
  let e := g.eng x.c eng
  let g := forEach (if e.moved then e.rows.zipIdx else []) (fun b g => match b.1 with
    | .drain true fmt out => g.drainRow x eng (b.2 * 32) 32 fmt (out + b.2 * blockBytes fmt)
    | _ => g) g
  match e.drain with
  | none => g
  | some d =>
    let n := min (if d.raw then 4 else 32) (d.n - d.next)
    let g := if !d.ok then g
      else if d.raw then g.drainRaw x eng d.next n (d.out + 32 * d.next)
      else g.drainRow x eng d.next n d.fmt (d.out + d.next / 32 * blockBytes d.fmt)
    g.setEng x.c eng { g.eng x.c eng with drain := if d.next + n < d.n then some { d with next := d.next + n } else none }

/-- Four records of an engine's add-in. -/
def Gn.addStep (g : Gn) (x : Site) (eng : Nat) : Gn :=
  let e := g.eng x.c eng
  match e.add with
  | none => g
  | some d =>
    let p := x.port (engReq eng)
    let n := min 4 (d.n - d.next)
    let a := coreAddr (engCore eng) (d.src + 32 * d.next)
    let b := g.peek p a (32 * n)
    let g := g.touch p a (32 * n)
    let g := forEach (List.range n) (fun i g => g.addIn x eng (d.next + i) ((b.drop (32 * i)).take 32)) g
    g.setEng x.c eng { g.eng x.c eng with add := if d.next + n < d.n then some { d with next := d.next + n } else none }

/-- Engines and walkers of the footprint's cores that have something to do. -/
def Gn.busyEngs (g : Gn) (x : Site) : List Nat :=
  (List.range 80).filter (fun e => x.f.cores.testBit (engCore e) && g.eng x.c e != engEmpty)

end Sys2Proof.Machine
end

