-- ==== Sys2Proof/Machine/Sparse.lean ====
section
/-! DEFINITION. The unstructured sparse mode (R65 to R67): sparse rows split into segments, the anchor pass with its partial maxima, the queues of the
lane groups with the rotations of issue and of service, partial rows drained and added in. -/

namespace Sys2Proof.Machine

/-! ### Sparse rows (R65) -/

/-- An 8-byte entry: column, BF16 code, or MX code with its block scale. -/
def parseEntry (mx : Bool) (b : List Byte) : Nat × Nat × Nat := if mx then (u32 b 0, u8 b 4, u8 b 5) else (u32 b 0, u16 b 4, 0)

/-- Two consecutive entries of a row fit (R65): columns rise, one scale per 32-element block of an MX format. -/
def pairOk (mx : Bool) (a b : Nat × Nat × Nat) : Bool := decide (a.1 < b.1) && (!mx || a.1 / 32 != b.1 / 32 || a.2.2 == b.2.2)

/-- The segments of a row of `nnz` entries from address `a` (R67): at most 512 entries each, numbered from `num` on. A row of no entry has none, and no output
of it is written: R67 gives it no lane group (DESIGN CHOICE, assumption log 40). -/
def segmentsOf (num row a nnz : Nat) : List Seg :=
  (List.range ((nnz + 511) / 512)).map (fun j =>
    { num := num + j, head := num, row := row, addr := a + 4096 * j, n := min 512 (nnz - 512 * j), scanned := 0, part := List.replicate 32 none, anch := none,
      queued := 0, placed := 0, busy := 0, done := false })

/-! ### State of a stage -/

def Gn.spStage (g : Gn) (c eng : Nat) : Option SpStage := SMap.get (fun _ => none) g.ar.sparse (c * 128 + eng)

def Gn.setSparse (g : Gn) (c eng : Nat) (s : Option SpStage) : Gn :=
  g.onAr (fun a => { a with sparse := SMap.set (fun _ => none) a.sparse (c * 128 + eng) s })

/-- Position of a segment's engine in the stage's list, and its lane group (R67). -/
def SpStage.place (s : SpStage) (num : Nat) : Nat × Nat := (num % s.engs.length, num / s.engs.length % 32)

/-- The engine at a position. -/
def SpStage.engAt (s : SpStage) (pos : Nat) : Nat := s.engs.getD pos 0

/-- Requesters of the stage: its reads of one bank in one cycle are one access, since its queues make them depend on data that no image can place (DESIGN
CHOICE, assumption log 40). -/
def SpStage.reqs (s : SpStage) : List Nat := s.engs.map engReq

/-- Replace a segment. -/
def SpStage.put (s : SpStage) (y : Seg) : SpStage := { s with segs := s.segs.map (fun z => if z.num = y.num then y else z) }

/-- The segment that a lane group works on: the first of its segments not done. -/
def SpStage.active (s : SpStage) (pos lg : Nat) : Option Seg := s.segs.find? (fun y => !y.done && s.place y.num == (pos, lg))

/-- Queue of a lane group: (column, code, scale), oldest first. -/
def SpStage.queue (s : SpStage) (pos lg : Nat) : List (Nat × Nat × Nat) := SMap.get (fun _ => []) s.queues (pos * 32 + lg)

def SpStage.setQueue (s : SpStage) (pos lg : Nat) (q : List (Nat × Nat × Nat)) : SpStage :=
  { s with queues := SMap.set (fun _ => []) s.queues (pos * 32 + lg) q }

/-- An unstructured stage starts on its engines: `n` sparse rows from an address that is the same in the SRAM of each engine's core (R48, R65). -/
def Gn.sparseStart (g : Gn) (x : Site) (st : Stage) (engs : List Nat) (rows n b out : Nat) : Gn :=
  let st := stageFor (match g.image x.t.image with | some i => i.kVar | none => 0) x.t st
  if !stageOk st || !st.sparse then (g.taskRecord x 22 2).taskFault x 1 .shape
  else if engs = [] then g
  else g.setSparse x.c (engs.headD 0) (some
    { st := st, engs := engs, next := rows, left := n, b := b, out := out, segs := [], queues := [], issueRot := [], serveRot := [], parts := [] })

/-- The next row header: 16 bytes through port A of the first engine. -/
def Gn.headStep (g : Gn) (x : Site) (s : SpStage) : Gn × SpStage :=
  if s.left = 0 then (g, s)
  else
    let p := x.port (engReq (s.engAt 0))
    let a := coreAddr (engCore (s.engAt 0)) s.next
    let h := g.peek p a 16
    let nnz := min (u32 h 4) (coreBytes / 8)
    (g.touchFor s.reqs p a 16,
     { s with next := s.next + 16 + 8 * nnz, left := s.left - 1, segs := s.segs ++ segmentsOf s.segs.length (u32 h 0) (s.next + 16) nnz })

/-- Entry `i` of a segment as an engine's core holds it. -/
def Gn.entry (g : Gn) (x : Site) (s : SpStage) (eng : Nat) (y : Seg) (i : Nat) : Nat × Nat × Nat :=
  parseEntry (isMx s.st.fmtA) (g.peek (x.port (engReq eng)) (coreAddr (engCore eng) (y.addr + 8 * i)) 8)

/-! ### The anchor pass (R65, R66) -/

/-- What an entry adds to the anchors of the strip's 32 outputs: nothing when zero, at or beyond `k_ext`, or not live. An Inf or NaN adds nothing of its own:
where its A block is live, a finite entry of the block has the same scale and the same tags of B. -/
def Gn.entryExps (g : Gn) (x : Site) (s : SpStage) (eng : Nat) (e : Nat × Nat × Nat) : List (Option Int) :=
  let core := engCore eng
  if s.st.kExt ≤ e.1 ∨ finiteNz s.st.fmtA e.2.1 = false ∨ (isMx s.st.fmtA = true ∧ e.2.2 = 0xFF) then []
  else if isMx s.st.fmtA then
    (g.tagsAt x.c core s.b (blockBytes s.st.fmtB) e.1).map (fun t => (tagExp t).map (fun v => v + ((e.2.2 : Int) - 127)))
  else match wordExp e.2.1 with
    | none => []
    | some v => (List.range 32).map (fun j => (wordExp ((g.codes (x.port (engReq eng)) core s.b 6 j e.1 1).headD 0)).map (fun w => w + v))

/-- One entry of the anchor pass of an engine's first segment not yet read: port A brings it, the tag port the words of a BF16 B. One that breaks R65 faults the
task and ends the stage; one at or beyond `k_ext` is an index-range event (R63). -/
def Gn.scanOne (g : Gn) (x : Site) (pos : Nat) (s : SpStage) : Gn × SpStage :=
  match s.segs.find? (fun y => y.num % s.engs.length == pos && decide (y.scanned < y.n)) with
  | none => (g, s)
  | some y =>
    let eng := s.engAt pos
    let p := x.port (engReq eng)
    let mx := isMx s.st.fmtA
    let e := g.entry x s eng y y.scanned
    let first := y.num = y.head ∧ y.scanned = 0
    let bad := !decide first && !pairOk mx (parseEntry mx (g.peek p (coreAddr (engCore eng) (y.addr + 8 * y.scanned - 8)) 8)) e
    let far := decide (s.st.kExt ≤ e.1)
    let xs := g.entryExps x s eng e
    let g := g.touchFor s.reqs p (coreAddr (engCore eng) (y.addr + 8 * y.scanned)) 8
    let g := if mx || far then g else g.portRead s.reqs p (engCore eng) s.b 64 e.1 (2 * (e.1 % 32)) 2
    let g := if far then g.onAr (fun a => { a with evs := a.evs ++ [(engCore eng, eng % 4, 0, 1)] }) else g
    let g := if far ∧ (s.st.strict || x.t.strict) = true then g.taskFault x 1 .index else g
    if bad then ((g.taskRecord x 12 0).taskFault x 1 .index, { s with left := 0, segs := [], queues := [] })
    else (g, s.put { y with scanned := y.scanned + 1, part := (List.range 32).map (fun j => maxList [y.part.getD j none, xs.getD j none]) })

/-- Once every segment of a row has been read, the issue stage of the engine with the row's first segment combines the partial maxima and returns the anchor
to each (R32, R67). -/
def SpStage.combine (s : SpStage) : SpStage :=
  let ready := fun (h : Nat) => s.segs.all (fun z => z.head != h || z.scanned == z.n)
  let anchors := fun (h : Nat) => (List.range 32).map (fun j =>
    anchorOf s.st (maxList ((s.segs.filter (fun z => z.head == h)).map (fun z => z.part.getD j none))))
  { s with segs := s.segs.map (fun y => if y.anch.isNone && ready y.head then { y with anch := some (anchors y.head) } else y) }

/-! ### Issue, lanes (R66) -/

/-- Clear the 32 tallies of a segment's lane group to its anchors. -/
def Gn.openSeg (g : Gn) (x : Site) (s : SpStage) (y : Seg) : Gn :=
  let pl := s.place y.num
  forEach (List.range 32) (fun j g => g.clearTally x.c (s.engAt pl.1) (pl.2 * 32 + j) ((y.anch.getD []).getD j noAnchor)) g

/-- Entries that a queue can take now: up to 16, those left of its segment, its room, and those of one line of 128 bytes. -/
def SpStage.refill (s : SpStage) (pos lg : Nat) : Option (Seg × Nat) :=
  match s.active pos lg with
  | none => none
  | some y =>
    let n := min (min 16 (y.n - y.queued)) (min (64 - (s.queue pos lg).length) ((128 - (y.addr + 8 * y.queued) % 128 + 7) / 8))
    if y.anch.isSome && decide (0 < n) then some (y, n) else none

/-- One engine's issue in a cycle: the next queue of the rotation that has room takes up to 16 entries from core SRAM through port A. -/
def Gn.issue (g : Gn) (x : Site) (pos : Nat) (s : SpStage) : Gn × SpStage :=
  let rot := SMap.get (fun _ => 0) s.issueRot pos
  match ((List.range 32).map (fun i => (rot + i) % 32)).find? (fun lg => (s.refill pos lg).isSome) with
  | none => (g, s)
  | some lg => match s.refill pos lg with
    | none => (g, s)
    | some (y, n) =>
      let eng := s.engAt pos
      let es := (List.range n).map (fun i => g.entry x s eng y (y.queued + i))
      let g := g.touchFor s.reqs (x.port (engReq eng)) (coreAddr (engCore eng) (y.addr + 8 * y.queued)) (8 * n)
      let g := if y.queued = 0 then g.openSeg x s y else g
      let s := (s.put { y with queued := y.queued + n }).setQueue pos lg (s.queue pos lg ++ es)
      (g, { s with issueRot := SMap.set (fun _ => 0) s.issueRot pos ((lg + 1) % 32) })

/-- An entry places 32 products, one in each tally of its lane group; one at or beyond `k_ext` none (R65). -/
def Gn.placeEntry (g : Gn) (x : Site) (s : SpStage) (pos lg : Nat) (e : Nat × Nat × Nat) : Gn :=
  let eng := s.engAt pos
  let core := engCore eng
  let p := x.port (engReq eng)
  if s.st.kExt ≤ e.1 then g
  else
    let g := g.portRead s.reqs p core s.b (blockBytes s.st.fmtB) e.1 (e.1 % 32 * elemBits s.st.fmtB / 8) ((elemBits s.st.fmtB + 7) / 8)
    forEach (List.range 32) (fun j g =>
      let code := (g.codes p core s.b s.st.fmtB j e.1 1).headD 0
      let scale := g.scaleAt x.c core s.b s.st.fmtB (blockBytes s.st.fmtB) j e.1
      g.accumulate x.c eng (lg * 32 + j) ((g.tally x.c eng (lg * 32 + j)).product s.st.fmtA e.2.1 e.2.2 s.st.fmtB code scale)) g

/-- One engine's lanes in a cycle: two queue heads from different lane groups, in a rotation that starts after the last one served. -/
def Gn.serve (g : Gn) (x : Site) (pos : Nat) (s : SpStage) : Gn × SpStage :=
  let rot := SMap.get (fun _ => 0) s.serveRot pos
  let lgs := ((List.range 32).map (fun i => (rot + i) % 32)).filter (fun lg => s.queue pos lg != [])
  (lgs.take 2).foldl (fun (acc : Gn × SpStage) lg =>
    match acc.2.queue pos lg, acc.2.active pos lg with
    | e :: q, some y =>
      let s := (acc.2.setQueue pos lg q).put { y with placed := y.placed + 1 }
      (acc.1.placeEntry x s pos lg e, { s with serveRot := SMap.set (fun _ => 0) s.serveRot pos ((lg + 1) % 32) })
    | _, _ => acc) (g, s)

/-! ### Partials (R67) -/

/-- The segment in whose lane group a row closes: its last one in the place of its first. An earlier one there leaves a partial. -/
def SpStage.closes (s : SpStage) (y : Seg) : Bool :=
  s.place y.num == s.place y.head && s.segs.all (fun z => z.head != y.head || decide (z.num ≤ y.num) || s.place z.num != s.place y.head)

/-- Segments of a row that leave a partial. -/
def SpStage.others (s : SpStage) (y : Seg) : List Seg := s.segs.filter (fun z => z.head == y.head && z.num != y.num)

/-- The add-in of a row has reached its end: 8 cycles for each partial. -/
def SpStage.summed (s : SpStage) (y : Seg) : Bool := decide (y.busy = 8 * (s.others y).length + 1)

/-- The start of a cycle: a segment whose entries all are placed leaves its lanes, and a row with every partial added in goes on to its drain. -/
def SpStage.settle (s : SpStage) : SpStage :=
  { s with segs := s.segs.map (fun y =>
      if y.done || y.placed != y.n then y
      else if y.busy = 0 then { y with busy := 1 }
      else if s.closes y && s.summed y && (s.others y).all (·.done) then { y with busy := y.busy + 1 }
      else y) }

/-- The first segment of an engine that meets a test: an engine drains one partial, adds one in and converts one row at a time (R52). -/
def SpStage.turn (s : SpStage) (pos : Nat) (f : Seg → Bool) : Option Seg :=
  s.segs.find? (fun y => !y.done && decide (y.num % s.engs.length = pos) && decide (0 < y.busy) && f y)

/-- Four records of the add-in of a row, partials in segment order. -/
def Gn.addPart (g : Gn) (x : Site) (pos : Nat) (s : SpStage) : Gn × SpStage :=
  match s.turn pos (fun y => s.closes y && decide (y.busy ≤ 8 * (s.others y).length) && (s.others y).all (·.done)) with
  | none => (g, s)
  | some y =>
    let parts := s.parts.filter (fun q => (s.others y).any (fun z => z.num == q.1))
    let i := (y.busy - 1) % 8 * 4
    let ts := (((parts[(y.busy - 1) / 8]?).map (·.2)).getD []).drop i
    (forEach (ts.take 4).zipIdx (fun e g => g.addIn x (s.engAt pos) ((s.place y.num).2 * 32 + i + e.2) e.1.raw) g, s.put { y with busy := y.busy + 1 })

/-- Append tallies to the partial of a segment; partials stand in segment order. -/
def addTallies (parts : List (Nat × List Tally)) (num : Nat) (ts : List Tally) : List (Nat × List Tally) :=
  if parts.any (fun q => q.1 == num) then parts.map (fun q => if q.1 = num then (q.1, q.2 ++ ts) else q)
  else (parts ++ [(num, ts)]).mergeSort (fun a b => decide (a.1 ≤ b.1))

/-- Four records of a partial's raw drain. -/
def Gn.drainPart (g : Gn) (x : Site) (pos : Nat) (s : SpStage) : Gn × SpStage :=
  match s.turn pos (fun y => !s.closes y) with
  | none => (g, s)
  | some y => match g.readouts x (s.engAt pos) ((s.place y.num).2 * 32 + 4 * (y.busy - 1)) 4 with
    | (g, ys) => (g, { s.put { y with busy := y.busy + 1, done := decide (8 ≤ y.busy) } with parts := addTallies s.parts y.num (ys.filterMap id) })

/-- The converted drain of a row that has every partial. -/
def Gn.drainClosed (g : Gn) (x : Site) (pos : Nat) (s : SpStage) : Gn × SpStage :=
  match s.turn pos (fun y => s.closes y && decide (8 * (s.others y).length + 1 < y.busy)) with
  | none => (g, s)
  | some y => (g.drainRow x (s.engAt pos) ((s.place y.num).2 * 32) 32 s.st.fmtOut (s.out + y.row * blockBytes s.st.fmtOut), s.put { y with done := true })

/-- One part of a stage's cycle on each of its engines. -/
def perEngine (f : Gn → Nat → SpStage → Gn × SpStage) (r : Gn × SpStage) : Gn × SpStage :=
  (List.range r.2.engs.length).foldl (fun (acc : Gn × SpStage) pos => f acc.1 pos acc.2) r

/-- The accumulations of one cycle of an unstructured stage: a row header, two entries of the anchor pass per engine, the combined anchors, issue, lanes,
add-ins (R66, R67). -/
def Gn.sparseStep (g : Gn) (x : Site) (eng : Nat) : Gn :=
  match g.spStage x.c eng with
  | none => g
  | some s =>
    let r := g.headStep x s.settle
    let r := perEngine (fun g pos s => g.scanOne x pos s) (perEngine (fun g pos s => g.scanOne x pos s) r)
    let r := perEngine (fun g pos s => match g.issue x pos s with | (g, s) => g.serve x pos s) (r.1, r.2.combine)
    let r := perEngine (fun g pos s => g.addPart x pos s) r
    r.1.setSparse x.c eng (some r.2)

/-- Its readouts: raw drains of partials and the drains of closed rows. The stage is over when every row is. -/
def Gn.sparseDrain (g : Gn) (x : Site) (eng : Nat) : Gn :=
  match g.spStage x.c eng with
  | none => g
  | some s =>
    let r := perEngine (fun g pos s => g.drainClosed x pos s) (perEngine (fun g pos s => g.drainPart x pos s) (g, s))
    r.1.setSparse x.c eng (if decide (r.2.left = 0) && r.2.segs.all (·.done) then none else some r.2)

/-- First engines of the unstructured stages of a cluster that run on the footprint's cores. -/
def Gn.sparseEngs (g : Gn) (x : Site) : List Nat :=
  (List.range 64).filter (fun e => x.f.cores.testBit (engCore e) && (g.spStage x.c e).isSome)

end Sys2Proof.Machine
end

