-- ==== Sys2Proof/Machine/Walker.lean ====
section
/-! DEFINITION. The tree walkers at run time (R90 to R98): code buffers, chunks, panels in order, walk slots, node and set reads with their ECC. -/

namespace Sys2Proof.Machine

/-- Requester of a core's walker (R73). -/
def walkReq (core : Nat) : Nat := core % 16 * 8 + 4

/-- Walking cluster of a panel (R95). -/
def walkCluster (t : Task) (p : Panel) : Option Nat :=
  let cs := setBits 16 (t.cmask &&& p.cmask)
  if cs = [] then none else cs[p.num % cs.length]?

/-- Rows of a chunk at most (R97). -/
def Epoch.chunkRows (ep : Epoch) : Nat := min (1024 / max 1 ep.nout) (16384 / max 1 ep.nfeat)

/-- Panels that a cluster walks for a task, in ascending number (R95). -/
def Epoch.mine (ep : Epoch) (x : Site) : List Nat :=
  ((ep.panels.filter (fun p => walkCluster x.t p == some x.c)).map (·.num)).mergeSort

/-! ### Code buffer and chunks (R97) -/

/-- Key of a code in a walker's buffer: code of feature f of row r stands at r × nfeat + f (assumption log 40). -/
def codeKey (c core i : Nat) : Nat := c * 2 ^ 18 + core % 16 * 2 ^ 14 + i % 2 ^ 14

/-- Loads of a walker's code buffer that wait or run: (source, index, codes left). -/
def Gn.loads (g : Gn) (c core : Nat) : List (Nat × Nat × Nat) := SMap.get (fun _ => []) g.ar.loads (c * 16 + core % 16)

def Gn.setLoads (g : Gn) (c core : Nat) (l : List (Nat × Nat × Nat)) : Gn :=
  g.onAr (fun s => { s with loads := SMap.set (fun _ => []) s.loads (c * 16 + core % 16) l })

/-- A load of a walker's code buffer is given to it. -/
def Gn.codeLoad (g : Gn) (x : Site) (core src idx n : Nat) : Gn :=
  let n := min n (16384 - idx)
  if n = 0 then g else g.setLoads x.c core (g.loads x.c core ++ [(src, idx, n)])

/-- Codes stream from core SRAM into the walker's code buffer, 128 bytes in a cycle. -/
def Gn.loadStep (g : Gn) (x : Site) (core : Nat) : Gn :=
  match g.loads x.c core with
  | [] => g
  | (src, idx, left) :: ls =>
    let p := x.port (walkReq core)
    let n := min left 64
    let a := coreAddr core src
    let b := g.peek p a (2 * n)
    let g := (g.touch p a (2 * n)).setLoads x.c core (if n < left then (src + 2 * n, idx + n, left - n) :: ls else ls)
    if p.blocked a (2 * n) then g
    else g.onAr (fun s => { s with codes := SMap.setList (fun _ => 0) s.codes (codeKey x.c core idx) ((List.range n).map (fun i => u16 b (2 * i))) })

/-- The chunk of a walker. -/
def Gn.chunkOf (g : Gn) (c core : Nat) : Option WalkChunk := SMap.get (fun _ => none) g.ar.chunks (c * 16 + core % 16)

def Gn.setChunk (g : Gn) (c core : Nat) (k : Option WalkChunk) : Gn :=
  g.onAr (fun s => { s with chunks := SMap.set (fun _ => none) s.chunks (c * 16 + core % 16) k })

/-- The chunk belongs to the task of this cycle. -/
def WalkChunk.of (k : WalkChunk) (x : Site) : Bool := k.slot == x.slot && k.inst == x.inst && k.idx == x.idx

/-- Key of a walk: cluster, core, bank, first or second of an HBM panel. -/
def walkKey (c core bank i : Nat) : Nat := c * 512 + core % 16 * 32 + bank % 16 * 2 + i % 2

def Gn.walkAt (g : Gn) (c core bank i : Nat) : Option Walk := SMap.get (fun _ => none) g.ts.walks (walkKey c core bank i)

def Gn.setWalk (g : Gn) (c core bank i : Nat) (w : Option Walk) : Gn :=
  { g with ts := { g.ts with walks := SMap.set (fun _ => none) g.ts.walks (walkKey c core bank i) w } }

/-- A chunk of rows starts on a walker (R95, R97): its tallies are cleared to the epoch's anchor, its panels wait in ascending number. While a chunk of the
task still walks there, none starts. -/
def Gn.chunkStart (g : Gn) (x : Site) (core ens rows : Nat) : Gn :=
  match g.boundEpoch x.slot x.inst ens with
  | none => g
  | some ep =>
    if !g.walks x.t.image || (match g.chunkOf x.c core with | some k => k.of x | none => false) then g
    else
      let n := min rows ep.chunkRows
      let g := forEach (List.range (n * ep.nout)) (fun i g => g.clearTally x.c (64 + core % 16) i ep.anchor) g
      let g := forEach (List.range 32) (fun i g => g.setWalk x.c core (i / 2) (i % 2) none) g
      let ps := ep.mine x
      if n = 0 ∨ ps = [] then g.setChunk x.c core none
      else g.setChunk x.c core (some
        { slot := x.slot, inst := x.inst, idx := x.idx, ens := ens, epoch := ep.epoch, rows := n, panels := ps, next := List.replicate 16 0 })

/-! ### Node and set reads (R89 to R91, R94, R98) -/

/-- The node word of a panel at a panel-relative index. -/
def Gn.nodeAt (g : Gn) (c : Nat) (p : Panel) (n : Nat) : Nat :=
  let bank := bits n 20 4
  let row := bits n 0 20
  (if p.hbm then SMap.get (fun _ => (0 : Word)) g.ts.beyond (p.rowBase + bank * p.rows + row)
   else SMap.get (fun _ => (0 : Word)) g.ts.store (nodeKey c bank ((p.rowBase + row) % 65536))).toNat

/-- Bit `cat` of a category set. -/
def Gn.setBit (g : Gn) (c : Nat) (p : Panel) (bank set cat : Nat) : Bool :=
  (SMap.get (fun _ => (0 : BitVec 256)) g.ts.sets (setKey c bank ((p.setBase + set) % 256))).toNat.testBit cat

/-- The ECC of one word that a walker reads: the word is used unless it is uncorrectable, which faults the task. -/
def Gn.walkEcc (g : Gn) (x : Site) (bank row : Nat) (isSet : Bool) (quarter : Nat) : Gn × Bool :=
  let n := popcount 72 (g.flipsAt x.c bank row isSet quarter)
  if n = 0 then (g, true)
  else if n = 1 then (g.nodeErr x.c bank row isSet quarter false false, true)
  else (((g.nodeErr x.c bank row isSet quarter true false).nodeRecord x.c bank row isSet false).taskFault x 2 .other, false)

/-- The child a walk takes at a split: right or not; none when the set quarter it reads is uncorrectable. -/
def Gn.goRight (g : Gn) (x : Site) (p : Panel) (bank n code : Nat) : Gn × Option Bool :=
  if code = 0xFFFF then (g.inc (F.clWalk_dfltTaken x.c), some (bit n 61))
  else if bits n 62 2 = 0 then (g, some (decide (bits n 32 16 ≤ code)))
  else if 255 < code then (g, some false)
  else match g.walkEcc x bank ((p.setBase + bits n 0 8) % 256) true (code / 64) with
    | (g, true) => (g, some (g.setBit x.c p bank (bits n 0 8) code))
    | (g, false) => (g, none)

/-- One visit of a walk (R90, R97): none when it has ended, at a leaf, by a fault, or by an uncorrectable word. -/
def Gn.visit (g : Gn) (x : Site) (core : Nat) (ep : Epoch) (p : Panel) (w : Walk) : Gn × Option Walk :=
  let bank := bits w.node 20 4
  let g := g.addWrap (F.clWalk_visits x.c) 1
  match (if p.hbm then (g, true) else g.walkEcc x bank ((p.rowBase + bits w.node 0 20) % 65536) false 0) with
  | (g, false) => (g, none)
  | (g, true) =>
    let n := g.nodeAt x.c p w.node
    let kind := bits n 62 2
    if kind = 2 then
      let i := w.row * ep.nout + bits n 32 8
      (g.accumulate x.c (64 + core % 16) i ((g.tally x.c (64 + core % 16) i).addend (bits n 0 32)), none)
    else if kind = 3 ∨ 32 ≤ w.depth then (g.taskFault x 1 .other, none)
    else
      let code := SMap.get (fun _ => 0) g.ar.codes (codeKey x.c core (w.row * ep.nfeat + bits n 48 13))
      match g.goRight x p bank n code with
      | (g, none) => (g, none)
      | (g, some r) => (g, some { w with node := bits n 8 24 + b2n r, depth := w.depth + 1 })

/-! ### Slots (R93, R94, R96) -/

/-- Slots of a bank: one walk of a slice panel, two of an HBM panel. -/
def Panel.ways (p : Panel) : Nat := if p.hbm then 2 else 1

/-- A free slot takes the next (tree, row) pair of its bank: trees by root row, each over every row of the chunk. A walk that enters a damaged replica
faults the task (R98). -/
def Gn.slotFill (g : Gn) (x : Site) (core bank i : Nat) (k : WalkChunk) (p : Panel) : Gn :=
  let q := k.next.getD bank 0
  let k' := { k with next := k.next.set bank (q + 1) }
  if (g.walkAt x.c core bank i).isSome || decide (p.trees.getD bank 0 * k.rows ≤ q) then g
  else if (g.ens k.ens).damaged.contains (k.epoch, x.c, p.num) then (g.setChunk x.c core (some k')).taskFault x 2 .other
  else (g.setChunk x.c core (some k')).setWalk x.c core bank i
    (some { panel := p.num, node := bank * 2 ^ 20 + q / k.rows, depth := 0, row := q % k.rows })

/-- The walk of a slot makes its visit. -/
def Gn.slotVisit (g : Gn) (x : Site) (core bank i : Nat) (ep : Epoch) (p : Panel) : Gn :=
  match g.walkAt x.c core bank i with
  | none => g
  | some w => match g.visit x core ep p w with | (g, w) => g.setWalk x.c core bank i w

/-- The epoch and the panel that a chunk walks now. -/
def Gn.chunkPanel (g : Gn) (k : WalkChunk) : Option (Epoch × Panel) :=
  match (g.ens k.ens).find k.epoch with
  | none => none
  | some ep => (ep.panels.find? (fun p => k.panels.head? == some p.num)).map (fun p => (ep, p))

/-- Every (tree, row) pair of the panel has been walked: no pair is left and no slot is busy. -/
def Gn.panelOver (g : Gn) (x : Site) (core : Nat) (k : WalkChunk) (p : Panel) : Bool :=
  (List.range 16).all (fun b => decide (p.trees.getD b 0 * k.rows ≤ k.next.getD b 0)
    && (g.walkAt x.c core b 0).isNone && (g.walkAt x.c core b 1).isNone)

/-- A chunk goes on to its next panel; past its last it is over. -/
def Gn.nextPanel (g : Gn) (x : Site) (core : Nat) : Gn :=
  match g.chunkOf x.c core with
  | none => g
  | some k => match g.chunkPanel k with
    | none => g
    | some (_, p) =>
      if !g.panelOver x core k p then g
      else if k.panels.length ≤ 1 then g.setChunk x.c core none
      else g.setChunk x.c core (some { k with panels := k.panels.drop 1, next := List.replicate 16 0 })

/-- The island cycle of a cluster, and the tasks that have run in it. -/
def Gn.islCycle (g : Gn) (c : Nat) : Nat × List (Nat × Nat × Nat) := SMap.get (fun _ => (0, [])) g.ar.cyc c

/-- A task runs its next cycle: in the cluster's island cycle, or, where it has run in that one, in the next. So the tasks of a cluster share one count
(R93; DESIGN CHOICE, assumption log 40). -/
def Gn.nextIsl (g : Gn) (x : Site) : Gn :=
  let t := (x.slot, x.inst, x.idx)
  let y := g.islCycle x.c
  let y' := if y.2.contains t then (y.1 + 1, [t]) else (y.1, y.2 ++ [t])
  g.onAr (fun s => { s with cyc := SMap.set (fun _ => (0, [])) s.cyc x.c y' })

/-- One cycle of a core's walker: it faces bank (w + t) mod 16 (R93). Walks of an HBM panel wait there for their nodes (R96). -/
def Gn.walkStep (g : Gn) (x : Site) (core : Nat) : Gn :=
  match g.chunkOf x.c core with
  | none => g
  | some k =>
    if !k.of x then g
    else match g.chunkPanel k with
      | none => g.setChunk x.c core none
      | some (ep, p) =>
        let bank := (core + (g.islCycle x.c).1) % 16
        let g := forEach (List.range p.ways) (fun i g => match g.chunkOf x.c core with
          | some k => g.slotFill x core bank i k p
          | none => g) g
        let g := if p.hbm then g else g.slotVisit x core bank 0 ep p
        g.nextPanel x core

/-- HBM returns the node that a walk waits for (R96). -/
def Gn.hbmNode (g : Gn) (x : Site) (core bank i : Nat) : Gn :=
  match g.chunkOf x.c core with
  | none => g
  | some k => match g.chunkPanel k with
    | some (ep, p) => if k.of x && p.hbm then (g.slotVisit x core (bank % 16) (i % 2) ep p).nextPanel x core else g
    | none => g

/-- A walker of the task still has a panel before it (R103). -/
def Gn.stillWalks (g : Gn) (x : Site) (ens panel : Nat) : Bool :=
  (List.range 16).any (fun core => match g.chunkOf x.c core with
    | some k => k.of x && k.ens == ens && k.panels.contains panel
    | none => false)

/-- The last chunk of this cluster has passed a panel it walks: its count falls by this task's hold (R103). -/
def Gn.panelPassed (g : Gn) (x : Site) (ens panel : Nat) : Gn :=
  match g.boundEpoch x.slot x.inst ens, g.tst x.slot x.inst x.idx with
  | some ep, some (.running r) =>
    if !(ep.mine x).contains panel || !g.walks x.t.image || r.released.contains (ens, panel) || g.stillWalks x ens panel then g
    else
      let g := g.onRun x (fun r => { r with released := r.released ++ [(ens, panel)] })
      (g.setEns ens ((g.ens ens).subRef ep.epoch panel 1)).ensSettle ens
  | _, _ => g

end Sys2Proof.Machine
end

