-- ==== Sys2Proof/Machine/Vector.lean ====
section
/-! DEFINITION. The vector unit of a core (R44, R53): lane operations, MX encode, ordinal quantization from the copy of R88. -/

namespace Sys2Proof.Machine

/-! ### Vector unit (R44, R53) -/

/-- A result that is a NaN: the manual names no payload, so sign and payload are free (assumption log 3). -/
def Gn.nanResult (g : Gn) (v : Nat) : Gn × Nat :=
  if v = fpNan then
    let (g, f) := g.draw
    (g, 0x7FC00000 + f % 2 ^ 22 + (if bit f 63 then 2 ^ 31 else 0))
  else (g, v)

/-- min or max: free where the operands are unordered, or zeros of two signs (IEEE 754 defines several operations). -/
def Gn.minMax (g : Gn) (isMax : Bool) (a b : Nat) : Gn × Nat :=
  match fpLt a b, fpLt b a with
  | some true, _ => (g, if isMax then b else a)
  | _, some true => (g, if isMax then a else b)
  | some false, some false => if a = b then (g, a) else
      let (g, f) := g.draw
      (g, if bit f 0 then a else b)
  | _, _ => let (g, f) := g.draw
            (g, f % 2 ^ 32)

/-- A shift; an amount of 32 or more has no stated result. -/
def Gn.shift (g : Gn) (b v : Nat) : Gn × Nat :=
  if b < 32 then (g, v % 2 ^ 32) else
  let (g, f) := g.draw
  (g, f % 2 ^ 32)

/-- One vector operation on one lane (R53): 0 fused multiply-add, 1 add, 2 multiply, 3 min, 4 max, 5 compare (less than), 6 reciprocal, 7 square
root, 8 exp2, 9 log2, 10 integer add, 11 subtract, 12 shift left, 13 shift right, 14 arithmetic shift right, 15 signed compare, 16 unsigned
compare, 17 and, 18 or, 19 exclusive or. The table of R53 has no other. It says compare and not which: the model's compares test less than and
answer 1 or 0, 0 when unordered (DESIGN CHOICE, assumption log 40). -/
def Gn.vecOp (g : Gn) (op a b c : Nat) : Gn × Nat :=
  let a := a % 2 ^ 32
  let b := b % 2 ^ 32
  let c := c % 2 ^ 32
  match op with
  | 0 => g.nanResult (fpFma a b c)
  | 1 => g.nanResult (fpAdd a b)
  | 2 => g.nanResult (fpMul a b)
  | 3 => g.minMax false a b
  | 4 => g.minMax true a b
  | 5 => (g, b2n (fpLt a b == some true))
  | 6 => g.nanResult (fpRecip a)
  | 7 => g.nanResult (fpSqrt a)
  | 8 => g.nanResult (fpExp2 a)
  | 9 => g.nanResult (fpLog2 a)
  | 10 => (g, (a + b) % 2 ^ 32)
  | 11 => (g, (a + 2 ^ 32 - b) % 2 ^ 32)
  | 12 => g.shift b (if b < 32 then a <<< b else 0)
  | 13 => g.shift b (if b < 32 then a >>> b else 0)
  | 14 => g.shift b (if b < 32 then ((sext 32 a / ((2 ^ b : Nat) : Int)) % 2 ^ 32).toNat else 0)
  | 15 => (g, b2n (decide (sext 32 a < sext 32 b)))
  | 16 => (g, b2n (decide (a < b)))
  | 17 => (g, a &&& b)
  | 18 => (g, a ||| b)
  | _ => (g, a ^^^ b)

/-- A binary32 value as a tally, exactly: the input of an MX encode (R53, R39). -/
def fpTally (x : Nat) : Tally :=
  let d := decodeElem 7 x
  match d.1 with
  | .finite => { t := BitVec.ofInt 192 d.2.1, g := d.2.2 + 151, st := .finite, cnt := 1 }
  | s => { t := 0, g := 0, st := s, cnt := 1 }

/-- Requester of a core's vector unit (R73). -/
def vecReq (core : Nat) : Nat := core % 16 * 8 + 5

/-- Read `n` bytes of a core's SRAM by its vector unit. -/
def Gn.vecRead (g : Gn) (x : Site) (core a n : Nat) : Gn × List Byte :=
  (g.touch (x.port (vecReq core)) (coreAddr core a) n, g.peek (x.port (vecReq core)) (coreAddr core a) n)

/-- Operands of an operation. -/
def vecArity (op : Nat) : Nat := if op = 0 then 3 else if 6 ≤ op ∧ op ≤ 9 then 1 else 2

/-- One cycle of a vector operation on up to 64 lanes: the read path brings 256 bytes, as many of its operands as that holds; with the last of them the result
goes to core SRAM. True when it is over. -/
def Gn.vecLanes (g : Gn) (x : Site) (core op n a b c dst : Nat) (got : List (List Byte)) : Gn × Option VecJob :=
  let now := (([a, b, c].take (vecArity op)).drop got.length).take (64 / max 1 n)
  let r := now.foldl (fun (acc : Gn × List (List Byte)) a => match acc.1.vecRead x core a (4 * n) with | (g, v) => (g, acc.2 ++ [v])) (g, got)
  if r.2.length < vecArity op then (r.1, some (.lanes op n a b c dst r.2))
  else
    let at_ := fun (k i : Nat) => u32 (r.2.getD k []) (4 * i)
    let y := (List.range n).foldl (fun (acc : Gn × List Byte) i => match acc.1.vecOp op (at_ 0 i) (at_ 1 i) (at_ 2 i) with
      | (g, v) => (g, acc.2 ++ leBytes 4 v)) (r.1, [])
    (y.1.poke (x.port (vecReq core)) (coreAddr core dst) y.2, none)

/-- MX encode of 32 FP32 values into a block with its tag (R39, R51, R53). -/
def Gn.mxEncode (g : Gn) (x : Site) (core fmt src dst : Nat) : Gn :=
  if !isMx fmt then g
  else match g.vecRead x core src 128 with
    | (g, b) =>
      let y := mxBlock fmt ((List.range 32).map (fun i => fpTally (u32 b (4 * i))))
      let p := x.port (vecReq core)
      let a := coreAddr core dst
      let g := ((g.addSat (F.clArith_satClamp x.c) y.2.2.1).addSpecial x y.2.2.2).poke p a (packElems fmt y.2.1)
      if p.blocked a (blockBytes fmt) then g else g.setTag x.c a (blockTag fmt y.1 y.2.1)

/-- Boundaries of the features before one, in the copy of R88. -/
def Epoch.edgesBefore (ep : Epoch) (feat : Nat) : Nat := ((ep.qrecs.take feat).map (fun q => (qrange q.toNat).2)).sum

/-- Read for a quantization: its lookups in one cycle share the banks they reach. -/
def Gn.lookup (g : Gn) (x : Site) (core a n : Nat) : Gn × List Byte :=
  (g.touchFor [vecReq core] (x.port (vecReq core)) (coreAddr core a) n, g.peek (x.port (vecReq core)) (coreAddr core a) n)

/-- Quantize one feature from the copy in the core's data region (R88): its code is written as two bytes. -/
def Gn.quantizeAt (g : Gn) (x : Site) (core ens feat src dst : Nat) : Gn :=
  match (if g.quants x.t.image then (g.copies x.slot x.inst x.t.image).find? (fun e => e.1 == ens) else none) with
  | none => g
  | some (_, ep, off) =>
    if ep.qrecs.length ≤ feat then g
    else
      let base := footData x.f + off
      match g.lookup x core src 4 with
      | (g, v) => match g.lookup x core (base + 16 * feat) 16 with
        | (g, q) =>
          let q := leNat q
          match g.lookup x core (base + 16 * ep.qrecs.length + 4 * ep.edgesBefore feat) (4 * (qrange q).2) with
          | (g, es) => g.poke (x.port (vecReq core)) (coreAddr core dst)
              (leBytes 2 (quantize q (fun i => u32 es (4 * (i - (qrange q).1))) (u32 v 0)))

/-! ### Jobs of a vector unit -/

def Gn.vecJobs (g : Gn) (c core : Nat) : List VecJob := SMap.get (fun _ => []) g.ar.vecs (c * 16 + core % 16)

def Gn.setVecJobs (g : Gn) (c core : Nat) (l : List VecJob) : Gn :=
  g.onAr (fun s => { s with vecs := SMap.set (fun _ => []) s.vecs (c * 16 + core % 16) l })

/-- A job is given to a core's vector unit. -/
def Gn.vecJob (g : Gn) (x : Site) (core : Nat) (j : VecJob) : Gn := g.setVecJobs x.c core (g.vecJobs x.c core ++ [j])

/-- One cycle of a core's vector unit: its oldest job, in order. -/
def Gn.vecStep (g : Gn) (x : Site) (core : Nat) : Gn :=
  match g.vecJobs x.c core with
  | [] => g
  | j :: js =>
    let g := g.setVecJobs x.c core js
    match j with
    | .lanes op n a b c dst got => (match g.vecLanes x core op n a b c dst got with
      | (g, none) => g
      | (g, some j) => g.setVecJobs x.c core (j :: js))
    | .encode fmt src dst => g.mxEncode x core fmt src dst
    | .quantize ens feat src dst => g.quantizeAt x core ens feat src dst

end Sys2Proof.Machine
end

