-- ==== Sys2Proof/Machine/Pipeline.lean ====
section
/-! DEFINITION. One island cycle of a running pipeline (chapters 02 to 05): crossings and the I/O side, the operations of the cycle, engines and walkers,
collisions, memory errors, sparsity counters. -/

namespace Sys2Proof.Machine

/-! ### HBM addresses of a task (R78) -/

/-- Address of a transfer: `in_addr` or `out_addr` + (i mod `inst_max`) × `inst_stride`; `aux_addr` is the same for every instance. -/
def Gn.hbmAddr (g : Gn) (x : Site) : HbmRef → Nat
  | .input off => x.t.inAddr + x.inst % max 1 (match g.graph x.slot with | some y => y.instMax | none => 1) * x.t.stride + off
  | .output off => x.t.outAddr + x.inst % max 1 (match g.graph x.slot with | some y => y.instMax | none => 1) * x.t.stride + off
  | .aux off => x.t.auxAddr + off
  | .addr a => a

/-! ### Crossings (R59) -/

/-- Entries of a crossing: way 0 to the I/O region, way 1 to the cluster. -/
def Gn.crossing (g : Gn) (c way : Nat) : List XEnt := SMap.get (fun _ => []) g.ar.cross (c * 2 + way)

def Gn.setCrossing (g : Gn) (c way : Nat) (l : List XEnt) : Gn :=
  g.onAr (fun s => { s with cross := SMap.set (fun _ => []) s.cross (c * 2 + way) l })

/-- What the I/O side still has to push into a cluster's incoming crossing. -/
def Gn.toPush (g : Gn) (c : Nat) : List XEnt := SMap.get (fun _ => []) g.ar.pend (c * 2 + 1)

def Gn.setToPush (g : Gn) (c : Nat) (l : List XEnt) : Gn :=
  g.onAr (fun s => { s with pend := SMap.set (fun _ => []) s.pend (c * 2 + 1) l })

/-- Entries go into a cluster's incoming crossing as far as its 16 places reach; the rest waits in the I/O region. -/
def Gn.fillCrossing (g : Gn) (c : Nat) : Gn :=
  let l := g.crossing c 1
  let w := g.toPush c
  (g.setCrossing c 1 (l ++ w.take (16 - l.length))).setToPush c (w.drop (16 - l.length))

/-- Something to push into a cluster: dropped, and a gated touch of requester 2, while the cluster is gated (R59, R305). The manual gives no cluster-window
offset for a data entry: `addr` takes a free value (assumption log 3). -/
def Gn.pushTo (g : Gn) (c : Nat) (e : XEnt) : Gn :=
  if g.flag (F.pwIsl_gated c) then (let (g, v) := g.draw
                                    g.gatedAccess 2 0 (v % 2 ^ 32))
  else (g.setToPush c (g.toPush c ++ [e])).fillCrossing c

/-- The I/O side takes the oldest entry of a cluster's outgoing crossing: to HBM with grants (R201), to another cluster, to the event ring (R59, R168). -/
def Gn.ioOut (g : Gn) (x : Site) : Gn :=
  match g.crossing x.c 0 with
  | [] => g
  | e :: es =>
    match e with
    | .event r held => (g.setCrossing x.c 0 es).submitIsl x.c r held
    | .data b s (.hbm d q) _ =>
      g.viaHbm x.c (g.hbmAddr x d) b.length (fun g => g.viaHbm x.c (g.hbmAddr x q) s.length (fun g =>
        ((g.setCrossing x.c 0 es).hbmWrite (g.hbmAddr x d) b).hbmWrite (g.hbmAddr x q) s))
    | .data b s (.cluster c) _ => (g.setCrossing x.c 0 es).pushTo (c % 16) (.data b s (.cluster c) none)

/-- The I/O side brings bytes and block scales of HBM to the incoming crossing. -/
def Gn.ioIn (g : Gn) (x : Site) (data : HbmRef) (n : Nat) (scales : HbmRef) (ns : Nat) : Gn :=
  g.viaHbm x.c (g.hbmAddr x data) (min n 256) (fun g => g.viaHbm x.c (g.hbmAddr x scales) (min ns 256) (fun g =>
    g.pushTo x.c (XEnt.data (g.hbmRead (g.hbmAddr x data) (min n 256)) (g.hbmRead (g.hbmAddr x scales) (min ns 256)) (.cluster x.c) none)))

/-- The pipeline stalls this cycle (R59): it pushes more than its outgoing crossing has room for, or reads more than its incoming one holds. -/
def Gn.stalls (g : Gn) (c : Nat) (ops : List CycleOp) : Bool :=
  let out := (ops.filter (fun o => match o with | .crossOut _ _ _ _ | .record _ => true | _ => false)).length
  let inn := (ops.filter (fun o => match o with | .crossIn _ _ => true | _ => false)).length
  (decide (0 < out) && decide (16 < (g.crossing c 0).length + out)) || decide ((g.crossing c 1).length < inn)

/-- A stage reads an entry of the incoming crossing (requester 128); the generator writes the tags of its MX blocks. -/
def Gn.crossIn (g : Gn) (x : Site) (dst : Nat) (blocks : Option Blocks) : Gn :=
  match g.crossing x.c 1 with
  | .data b s _ _ :: es =>
    let g := g.setCrossing x.c 1 es
    (match blocks with
     | none => g.poke (x.port 128) dst b
     | some y => g.landBlocks (x.port 128) dst y b s)
  | _ => g

/-- A stage pushes bytes of the cluster (requester 129), with the scales of their MX blocks. -/
def Gn.crossOut (g : Gn) (x : Site) (src n : Nat) (fmt : Option Nat) (dst : XDst) : Gn :=
  let p := x.port 129
  let n := min n 256
  let b := g.peek p src n
  let s := match fmt with
    | none => []
    | some f => (List.range (n / blockBytes f)).map (fun i => BitVec.ofNat 8 (g.tag x.c (src + i * blockBytes f)))
  let g := g.touch p src n
  if p.blocked src n then g else g.setCrossing x.c 0 (g.crossing x.c 0 ++ [.data b s dst none])

/-! ### Evidence (R246, R247) -/

/-- Add evidence of the open window for a die: points and a cause bit. -/
def Gn.evidence (g : Gn) (site pts cause : Nat) : Gn :=
  { g with hl := { g.hl with evid := g.hl.evid ++ [(g.now, site, pts, cause)] } }

/-- Anomaly evidence where the score reaches the task's `anom_thr`, at most once per `ev_gap_s` per cause (R245, R246). -/
def Gn.anomaly (g : Gn) (thr score site cause : Nat) : Gn :=
  let key := site * 8 + cause
  let gap := g.rg F.hlJob_evGapS * 1000000000
  let due := match g.hl.anomHt.find? (fun e => e.1 == key) with | some e => decide (e.2 + gap ≤ g.now) | none => true
  if due && (cause == 3 || cause == 4) && fpLt score thr == some false then
    let g := { g with hl := { g.hl with anomHt := g.hl.anomHt.filter (fun (e : Nat × Nat) => e.1 != key) ++ [(key, g.now)] } }
    g.evidence site 16 cause
  else g

/-! ### The operations of a cycle -/

/-- An operation of a core runs when the core lies in the footprint; else it is a footprint violation (R72). -/
def Gn.onCore (g : Gn) (x : Site) (req : Nat) (f : Gn → Gn) : Gn :=
  if x.f.cores.testBit (req / 8) then f g else g.note (x.port req) 511

/-- Change one engine. -/
def Gn.onEng (g : Gn) (x : Site) (eng : Nat) (f : EngSt → EngSt) : Gn := g.setEng x.c eng (f (g.eng x.c eng))

/-- What one operation of the schedule, of the I/O side or of chance does. -/
def Gn.cycleOp (g : Gn) (x : Site) : CycleOp → Gn
  | .access req res => g.note (x.port req) res
  | .crossIn dst blocks => g.crossIn x dst blocks
  | .crossOut src n fmt dst => g.crossOut x src n fmt dst
  | .ioIn data n scales ns => g.ioIn x data n scales ns
  | .ioOut => g.ioOut x
  | .move core src dst n => g.onCore x (core % 16 * 8 + 6) (fun g => g.moveBytes (x.port (core % 16 * 8 + 6)) src dst n)
  | .stageStart eng st => g.onCore x (engReq eng) (fun g => g.stageStart x eng st)
  | .anchorPass eng a b => g.onCore x (engReq eng) (fun g => g.onEng x eng (fun e => match e.stage with
      | some st => { e with passes := e.passes ++ [⟨st, a, b, st.k, 0, List.replicate 1024 none⟩] }
      | none => e))
  | .tile eng a b md k0 kn raw out => g.onCore x (engReq eng) (fun g => g.onEng x eng (fun e => match e.stage with
      | some st => { e with tiles := e.tiles ++ [⟨st, a, b, md, k0, min kn (st.k - k0), 0, raw, out⟩] }
      | none => e))
  | .drain eng n raw fmt out => g.onCore x (engReq eng) (fun g => g.drainStart x eng n raw fmt out)
  | .addIn eng n src => g.onCore x (engReq eng) (fun g => g.onEng x eng (fun e =>
      if e.add.isSome || decide (n = 0) then e else { e with add := some ⟨0, min n 1024, src⟩ }))
  | .sparseStart st engs rows n b out => g.onCore x (engReq (engs.headD 0)) (fun g => g.sparseStart x st engs rows n b out)
  | .vec core op n a b c dst => g.onCore x (vecReq core) (fun g => g.vecJob x core (.lanes op (min n 64) a b c dst []))
  | .mxEncode core fmt src dst => g.onCore x (vecReq core) (fun g => g.vecJob x core (.encode fmt src dst))
  | .quantize core ens feat src dst => g.onCore x (vecReq core) (fun g => g.vecJob x core (.quantize ens feat src dst))
  | .codeLoad core src idx n => g.onCore x (walkReq core) (fun g => g.codeLoad x core src idx n)
  | .chunk core ens rows => g.onCore x (walkReq core) (fun g => g.chunkStart x core ens rows)
  | .hbmNode core bank i => g.hbmNode x core bank i
  | .panelPassed ens panel => g.panelPassed x ens panel
  | .upset word b => g.memUpset (x.c * 2 ^ 21 + word % 2 ^ 21) b
  | .tallyUpset eng idx b => g.tallyUpset x.c eng idx b
  | .nodeUpset bank row isSet quarter b => g.nodeUpset x.c bank row isSet quarter b
  | .record r => g.setCrossing x.c 0 (g.crossing x.c 0 ++ [.event r none])
  | .anomaly core site cause src => g.onCore x (vecReq core) (fun g =>
      let r := g.vecRead x core src 4
      if (x.port (vecReq core)).blocked (coreAddr core src) 4 then r.1 else r.1.anomaly x.t.param (leNat r.2) site cause)

/-- Operations that do not wait for the pipeline: the I/O side, HBM, upsets. -/
def ioOp : CycleOp → Bool
  | .ioIn _ _ _ _ | .ioOut | .hbmNode _ _ _ | .upset _ _ | .tallyUpset _ _ _ | .nodeUpset _ _ _ _ _ => true
  | _ => false

/-! ### Collisions, errors, counters of the cycle -/

/-- Requesters of one resource, ascending. -/
def requesters (acc : List (Nat × Nat)) (res : Nat) : List Nat := ((acc.filter (fun a => a.2 == res)).map (·.1)).mergeSort

/-- Count and record one collision or footprint violation: GN_CL_COLL, a fatal record of kind 8 (`p0` loser × 256 + winner, `p1` resource,
`p2` graph, `p3` task), SCHEDULE_FAULT. -/
def Gn.collide (g : Gn) (x : Site) (win lose res : Nat) : Gn :=
  let g := g.inc (F.clColl_collCount x.c)
  let g := if g.flag (F.clColl_valid x.c) then g
    else ((((((g.wr (F.clColl_winPort x.c) win).wr (F.clColl_losePort x.c) lose).wr (F.clColl_resource x.c) res).wr (F.clColl_graph x.c) x.slot).wr
      (F.clColl_task x.c) x.idx).put (F.clColl_valid x.c) true)
  (g.recordIsl x.c (Config.recCode 8).toNat 6 x.c (win + 256 * lose) res x.slot x.idx).taskFault x 3 .other

/-- The banks that two or more accesses of the cycle reach. -/
def Gn.crowded (g : Gn) : List Nat :=
  ((g.ar.acc.map (·.2)).eraseDups).filter (fun r => decide (r < 448) && decide (2 ≤ (requesters g.ar.acc r).length))

/-- Tallies read out and accumulated in the cycle (R34): a collision of their engine or walker with itself. The manual numbers no resource for a tally file: a
free value (assumption log 3). -/
def Gn.tallyClash (g : Gn) (x : Site) : Gn :=
  forEach (((g.ar.read.filter (fun k => g.ar.wrote.contains k)).map (fun k => k % 131072 / 1024)).eraseDups) (fun e g =>
    let (g, v) := g.draw
    g.collide x (engReq e) (engReq e) (v % 512)) g

/-- Every collision and footprint violation of the cycle. The manual does not order several events of a cycle: footprint violations come first, then the
collisions of banks, then those of tallies, each in the order of their accesses (DESIGN CHOICE, assumption log 40). -/
def Gn.watchAccess (g : Gn) (x : Site) : Gn :=
  let g := forEach g.ar.bad (fun b g => g.collide x b.1 b.1 b.2) g
  let g := forEach g.crowded (fun res g => match requesters g.ar.acc res with
    | w :: l :: _ => g.collide x w l res
    | _ => g) g
  g.tallyClash x

/-- Cycles that collisions add: the longest queue at one bank. -/
def Gn.addedCycles (g : Gn) : Nat := (g.crowded.map (fun r => (requesters g.ar.acc r).length - 1)).foldl max 0

/-- Uncorrectable errors of the cycle (R52, R56): a record of kind 10 each (`p0` location, `p1` where, `p2` graph, `p3` task), FAULT_MEM; `ue_addr` and
`ue_where` take the error of lowest core index, the shared buffer after all cores. -/
def Gn.memErrors (g : Gn) (x : Site) : Gn :=
  let es := g.ar.ues
  let g := forEach es (fun e g => (g.recordIsl x.c (Config.recCode 10).toNat 4 x.c e.2.1 e.2.2 x.slot x.idx).taskFault x 2 .other) g
  match es.foldl (fun acc e => match acc with
      | none => some e
      | some o => if e.1 < o.1 then some e else some o) (none : Option (Nat × Nat × Nat)) with
  | none => g
  | some e => (g.wr (F.clMem_ueAddr x.c) e.2.1).wr (F.clMem_ueWhere x.c) e.2.2

/-- Count the sparsity events of the cycle (R68); the latest-event fields take the lowest core and engine of it. Of an engine that counts both kinds in one
cycle, `ev_kind` shows the index-range event (DESIGN CHOICE, assumption log 40). -/
def Gn.sparsity (g : Gn) (x : Site) : Gn :=
  let es := g.ar.evs
  match es.foldl (fun acc e => match acc with
      | none => some e
      | some o => if e.1 < o.1 ∨ (e.1 = o.1 ∧ e.2.1 < o.2.1) then some e else some o) (none : Option (Nat × Nat × Nat × Nat)) with
  | none => g
  | some e =>
    let idx : Nat := (es.map (·.2.2.2)).sum
    let both := es.any (fun o => o.1 == e.1 && o.2.1 == e.2.1 && decide (0 < o.2.2.2))
    let g := (g.addSat (F.clSparse_densViol x.c) (es.map (·.2.2.1)).sum).addSat (F.clSparse_idxRange x.c) idx
    let g := (((g.wr (F.clSparse_evCore x.c) e.1).wr (F.clSparse_evEng x.c) e.2.1).put (F.clSparse_evKind x.c) both).put (F.clSparse_evValid x.c) true
    g.onRun x (fun r => { r with idx := r.idx + idx })

/-- Nothing has happened yet in the cycle. -/
def Gn.freshCycle (g : Gn) : Gn := g.onAr (fun s => { s with acc := [], bad := [], read := [], wrote := [], ues := [], evs := [] })

/-- The engines, walkers, sparse stages and vector units of the footprint's cores in one cycle: everything that accumulates in a tally, then everything that reads
one out, anchor passes, code loads, vector units. -/
def Gn.engines (g : Gn) (x : Site) : Gn :=
  let es := g.busyEngs x
  let cores := setBits 16 x.f.cores
  let g := forEach es (fun e g => g.arrayStep x e) g
  let g := forEach cores (fun k g => g.walkStep x k) g
  let g := forEach (g.sparseEngs x) (fun e g => g.sparseStep x e) g
  let g := forEach es (fun e g => g.addStep x e) g
  let g := forEach (g.sparseEngs x) (fun e g => g.sparseDrain x e) g
  let g := forEach es (fun e g => g.drainStep x e) g
  let g := forEach es (fun e g => g.passStep x e) g
  let g := forEach cores (fun k g => g.loadStep x k) g
  forEach cores (fun k g => g.vecStep x k) g

/-- Cycles of a task's run pass in one of its clusters. -/
def Gn.passCycles (g : Gn) (x : Site) (n : Nat) : Gn :=
  g.onRun x (fun r => { r with cyc := r.cyc.zipIdx.map (fun (e : Nat × Nat) => if e.2 = x.lc then e.1 + n else e.1) })

/-- The cycle is one of the `thr` of every 8 in which a throttled island stalls (R307): the first of each 8 (DESIGN CHOICE, assumption log 40). -/
def Gn.throttled (g : Gn) (x : Site) (r : Run) : Bool := decide (r.oct.getD x.lc 0 < g.rg (F.pwIsl_thr x.c))

/-- The next island cycle of the 8 in one of its clusters. -/
def Gn.nextOct (g : Gn) (x : Site) : Gn :=
  g.onRun x (fun r => { r with oct := r.oct.zipIdx.map (fun (e : Nat × Nat) => if e.2 = x.lc then (e.1 + 1) % 8 else e.1) })

/-- PIPELINE_CYCLE: one island cycle of a running task in one of its clusters. In a stalled cycle only the I/O side moves; the watchdog counts a crossing's
stall and no throttle stall (R59, R74, R307). -/
def Gn.pipelineCycle (g : Gn) (slot n idx c : Nat) (ops : List CycleOp) : Gn :=
  match g.runOf slot n idx with
  | none => g
  | some (t, r) => match t.clusters.findIdx? (· == c) with
    | none => g
    | some lc =>
      if !g.moving || r.held || g.flag (F.pwIsl_gated c) || (g.isl c).stoppedAt.isSome then g
      else
        let x : Site := { slot := slot, inst := n, idx := idx, c := c, lc := lc, t := t, f := g.foot t.image lc }
        let thr := g.throttled x r
        let g := ((g.nextOct x).nextIsl x).freshCycle
        if thr then (forEach (ops.filter ioOp) (fun o g => g.cycleOp x o) (g.fillCrossing c)).freshCycle
        else if g.stalls c ops then (forEach (ops.filter ioOp) (fun o g => g.cycleOp x o) (g.fillCrossing c)).freshCycle.passCycles x 1
        else
          let g := (forEach ops (fun o g => g.cycleOp x o) g).engines x
          ((((g.passCycles x (1 + g.addedCycles)).watchAccess x).memErrors x).sparsity x).freshCycle.fillCrossing c

def execPipelineCycle (slot inst task cluster : Nat) (ops : List CycleOp) (s : State) : Host.Outcome State Fault Refusal :=
  gnStep s (fun g => g.pipelineCycle slot inst task cluster ops)

end Sys2Proof.Machine
end

