-- ==== Sys2Proof/Machine/Proof.lean ====
section
/-! DEFINITION. Proofing (chapter 06): plans, seeds, weight capture, export acceptance, dispatch, decisions, verdicts, deadlines; and the task
commands at which a proof graph can be lost. -/

namespace Sys2Proof.Machine

def Gn.onPf (g : Gn) (f : PfSt → PfSt) : Gn := { g with pf := f g.pf }

/-! ### Plans and seeds (R109, R110) -/

/-- Parse a plan. -/
def parsePlan (h : List Byte) (ts : List (List Byte)) : Plan :=
  { fromEpoch := u32 h 0, k := u8 h 4, dblAll := bit (u8 h 5) 0, deadlineUs := u16 h 6, gatherUs := u16 h 8, batchMax := u8 h 10,
    pool := u16 h 12,
    tensors := ts.map (fun b =>
      { ops := u8 b 0, fmtW := u8 b 1, fmtF := u8 b 2, fmtB := u8 b 3, sparse := u8 b 4, graphF := bits (u8 b 5) 0 4,
        graphB := bits (u8 b 5) 4 4, kdim := u32 b 8, ndim := u32 b 12, wBytes := u64 b 16 }) }

/-- The plan that governs an epoch. -/
def Gn.planOf (g : Gn) (epoch : Nat) : Option Plan :=
  g.pf.plans.foldl (fun acc p => if p.fromEpoch ≤ epoch then (match acc with
    | none => some p
    | some q => if q.fromEpoch < p.fromEpoch then some p else some q) else acc) none

/-- A slot holds a mode-2 graph whose images all have one logical cluster and whose tasks all have 1 KiB of stride (R109). -/
def Gn.proofGraph (g : Gn) (slot : Nat) : Bool :=
  match g.graph slot with
  | none => false
  | some x => x.mode == 2 && x.tasks.all (fun t => (match g.image t.image with | some i => i.nlc == 1 | none => false) && decide (1024 ≤ t.stride))

/-- The slot's proof graph is valid still: neither halted nor unloading (R116, R122). -/
def Gn.proofLive (g : Gn) (slot : Nat) : Bool := g.proofGraph slot && (match g.graph slot with | some x => x.creates | none => false)

/-- First failing field of a plan header by offset. -/
def planHdrBad (h : List Byte) (ts : List (List Byte)) : Option Nat :=
  let k := u8 h 4
  let checks : List (Nat × Bool) :=
    [(0, h.length == 64), (4, k == 0 || (decide (3 ≤ k) && decide (k ≤ 20))), (5, decide (u8 h 5 < 2)),
     (6, decide (500 ≤ u16 h 6) && decide (u16 h 6 ≤ 64000)), (8, decide (4 * u16 h 8 ≤ u16 h 6)),
     (10, decide (1 ≤ u8 h 10) && decide (u8 h 10 ≤ 32)), (11, u8 h 11 == 0), (12, decide (2 ≤ popcount 16 (u16 h 12))),
     (14, decide (1 ≤ u16 h 14) && decide (u16 h 14 ≤ 4096) && u16 h 14 == ts.length), (16, u64 h 16 % 32 == 0),
     (24, u32 h 24 == crc32c ts.flatten), (28, zeroBytes h 28 60), (60, u32 h 60 == crc32c (h.take 60))]
  (checks.find? (fun c => !c.2)).map (·.1)

/-- The stage of an operation of a tensor entry: 0 FWD, 1 BWD_DATA. -/
def Tensor.stage (t : Tensor) (op : Nat) : Stage :=
  let f := if op = 0 then t.fmtF else t.fmtB
  let k := if op = 0 then t.kdim else t.ndim
  { num := 0, fmtA := bits f 0 4, fmtB := t.fmtW, fmtOut := bits f 4 4, blk := 32, e8m0 := true, k := k, n := if op = 0 then t.ndim else t.kdim,
    pattern := t.sparse, form := .declared, onA := false, kExt := k, sparse := false, strict := true }

/-- First failing field of a tensor entry by offset. -/
def Gn.tensorBad (g : Gn) (b : List Byte) (t : Tensor) : Option Nat :=
  let perm := fun op : Nat => t.ops.testBit op
  let fOk := fun op : Nat => let s := t.stage op
    !perm op || (decide (s.fmtA ≤ 6) && decide (s.fmtB ≤ 6) && isMx s.fmtA == isMx s.fmtB)
  let resv := fun f : Nat => decide (bits f 0 4 ≤ 7) && decide (bits f 4 4 ≤ 7)
  let spOk := fun op : Nat => let s := t.stage op
    !perm op || t.sparse == 0 || stageOk { s with k := 32, kExt := 32, n := 32 }
  let dim := fun op : Nat => let s := t.stage op
    !perm op || !isMx s.fmtA || s.k % 32 == 0
  let out := fun op : Nat => let s := t.stage op
    !perm op || !isMx s.fmtOut || s.n % 32 == 0
  let checks : List (Nat × Bool) :=
    [(0, b.length == 32 && decide (t.ops < 4)), (1, decide (t.fmtW ≤ 6)), (2, resv t.fmtF && fOk 0), (3, resv t.fmtB && fOk 1),
     (4, decide (t.sparse ≤ 2) && spOk 0 && spOk 1 && !(t.sparse == 2 && perm 1)),
     (5, (!perm 0 || g.proofGraph t.graphF) && (!perm 1 || g.proofGraph t.graphB)), (6, zeroBytes b 6 8),
     (8, dim 0 && out 1), (12, out 0 && dim 1), (24, zeroBytes b 24 32)]
  (checks.find? (fun c => !c.2)).map (·.1)

/-- Body of a seed frame. -/
def seedBody (s : Seed) (p : Plan) : List Byte :=
  leBytes 4 s.epoch ++ leBytes 2 p.deadlineUs ++ leBytes 10 (p.k % 256) ++ leBytes 16 s.seed.toNat

/-- Send seed frames for every held seed whose governing plan's `k` and `deadline_us` have not been forwarded (R110). -/
def Gn.forwardSeeds (g : Gn) : Gn :=
  forEach g.pf.seeds (fun s g => match g.planOf s.epoch with
    | none => g
    | some p =>
      if s.sent = some (p.k, p.deadlineUs) then g
      else
        let g := forEach g.sites (fun x g => g.sendSite x 0x22 (seedBody s p)) g
        g.onPf (fun q => { q with seeds := q.seeds.map (fun y => if y.epoch = s.epoch then { y with sent := some (p.k, p.deadlineUs) } else y) })) g

/-- Seed frames to one die at a link start (R110). -/
def Gn.seedsTo (g : Gn) (site : Nat) : Gn :=
  forEach g.pf.seeds (fun s g => match g.planOf s.epoch with
    | none => g
    | some p => g.sendSite site 0x22 (seedBody s p)) g

/-! ### Verdicts (R124 to R127, R373) -/

/-- Fields of an export's header; 0 when it never arrived intact. -/
def Exp.epoch (e : Exp) : Nat := u32 e.hdr 8
def Exp.tensor (e : Exp) : Nat := u16 e.hdr 16
def Exp.op (e : Exp) : Nat := u8 e.hdr 18
def Exp.attempt (e : Exp) : Nat := u8 e.hdr 49
def Exp.lenA (e : Exp) : Nat := u32 e.hdr 40
def Exp.lenE (e : Exp) : Nat := u32 e.hdr 44
def Exp.htDone (e : Exp) : Nat := if e.hdr = [] then 2 ^ 64 - 1 else u64 e.hdr 0
def Exp.ident (e : Exp) : Nat := e.tensor + e.op % 256 * 2 ^ 16 + e.attempt * 2 ^ 24
/-- The engine's output stream E. -/
def Exp.eng (e : Exp) : List Byte := (e.data.drop e.lenA).take e.lenE
/-- The output of a role's run. -/
def Exp.run (e : Exp) (role : Nat) : Option PRun := e.runs.find? (fun r => r.role == role)
def Exp.clOf (e : Exp) (role : Nat) : Nat := match e.run role with | some r => r.cl | none => 0

/-- An export of which nothing but its `seq` is known. -/
def Exp.blank (site seq : Nat) : Exp :=
  { site := site, seq := seq, hdr := [], nparts := 0, next := 0, data := [], st := .arriving, dbl := false, runs := [], faults := [],
    inFlight := [], cls := [], base := 0, slot := none, plan := none, re := false }

/-- Differing bytes of two streams and the offset of the first. -/
def diffOf (a b : List Byte) : Nat × Nat :=
  let n := max a.length b.length
  let ds := (List.range n).filter (fun i => a[i]? != b[i]?)
  (ds.length, ds.headD 0xFFFFFFFF)

/-- `source` of a verdict record (R124). The cluster of a run that was assigned and has not finished reads 0 (the model's choice, log 42). -/
def Exp.source (e : Exp) (reason : Nat) : Nat :=
  e.site + 2 ^ 8 * reason + 2 ^ 16 * e.clOf 0 + 2 ^ 20 * e.clOf 1 + 2 ^ 24 * e.clOf 2

/-- Cluster given to a role, whether or not its run has ended. -/
def Exp.clGiven (e : Exp) (role : Nat) : Nat := match e.cls.find? (fun c => c.1 == role) with | some c => c.2 | none => 0

/-- Bytes of a verdict record (R125): `cl_p`, `cl_c` and `cl_t` are 0 below 1, 2 and 3 finished runs. -/
def verdictBytes (e : Exp) (ht code reason ndiff first : Nat) : List Byte :=
  let cl := fun (role : Nat) => if role < e.runs.length then e.clGiven role else 0
  leBytes 8 ht ++ leBytes 8 e.htDone ++ leBytes 4 e.seq ++ leBytes 1 (code + 8 * e.runs.length) ++ leBytes 1 reason
    ++ leBytes 1 (cl 0 + 16 * cl 1) ++ leBytes 1 (cl 2) ++ leBytes 4 ndiff ++ leBytes 4 first

/-- Count a verdict and write its record; `d` is the deciding run's output of an ENGINE_FAULT. -/
def Gn.verdictRecord (g : Gn) (e : Exp) (code reason : Nat) (vb d : List Byte) (first : Nat) : Gn :=
  let src := e.source reason
  let std := fun (g : Gn) (c sev : Nat) => g.recordRank prodProof c sev src (g.siteRank e.site) e.seq e.epoch e.ident (u32 e.hdr 20)
  match code with
  | 0 => g.addWrap F.pfVcnt_match 1
  | 1 => g.inc F.pfVcnt_matchCp
  | 2 =>
    let at32 := first / 32 * 32
    let pay := vb ++ ((e.eng.drop at32).take 32) ++ ((d.drop at32).take 32)
    let it : RecItem := { r := g.mkRec 0x0601 4 src 0 0 0 0, studio := g.studioOf (g.siteRank e.site), rank := 0x1FFFF, var := some pay }
    ((g.inc F.pfFcnt_engFault).submit prodProof it).evidence e.site 256 0
  | 3 =>
    std (g.inc F.pfFcnt_transport) 0x0604 3
  | 4 => std (g.inc F.pfFcnt_late) 0x0605 3
  | 5 => (std (g.inc F.pfVcnt_unresolved) 0x0603 7).evidence e.site 64 1
  | _ => std (g.inc F.pfFcnt_unchk) 0x0606 2

/-- An ENGINE_FAULT or UNRESOLVED verdict opens the die's replay-flagged range, or moves its closing condition (R22). -/
def Gn.openReplay (g : Gn) (site : Nat) : Gn :=
  let l := g.rd.flagged
  let never := 2 ^ 64
  let now := g.now
  let isOpen := l.any (fun e => e.1 == site && e.2.2.2 == never)
  let l := if isOpen then l.map (fun e => if e.1 = site then (e.1, e.2.1, now, e.2.2.2) else e)
    else l ++ [(site, now, now, never)]
  { g with rd := { g.rd with flagged := l } }

/-- The same export. -/
def Exp.same (a b : Exp) : Bool := a.site == b.site && a.seq == b.seq

/-- Batch instances whose row-blocks all have verdicts end (R127); their runs are forgotten. -/
def Gn.endRuns (g : Gn) : Gn :=
  let live := fun (r : PfRun) => r.rbs.any (fun b => g.pf.exps.any (fun e => e.site == b.1 && e.seq == b.2 && e.st == .running))
  let beyond := g.pf.runs.filter (fun r => !live r)
  let g := g.onPf (fun q => { q with runs := q.runs.filter live })
  let used := fun (c : Capture) => g.pf.exps.any (fun e => e.st == .running && e.epoch == c.epoch && e.tensor == c.tensor)
  let g := g.onPf (fun q => { q with caps := q.caps.filter (fun c => !c.freed || used c) })
  forEach beyond (fun r g => g.cancelInst r.slot r.inst) g

/-- Issue a verdict (R124): frame to the block, counter, record, replay range. -/
def Gn.giveVerdict (g : Gn) (e : Exp) (code reason ndiff first : Nat) (d : List Byte) : Gn :=
  let vb := verdictBytes e g.now code reason ndiff first
  let g := g.sendSite e.site 0x21 vb
  let g := (g.verdictRecord e code reason vb d first).count 3 0
  let g := if code = 2 ∨ code = 5 then g.openReplay e.site else g
  g.onPf (fun q => { q with verdicts := q.verdicts + 1 })

/-- The verdict of an export that is held: it leaves the landing area; while its parts still arrive it is kept as answered. -/
def Gn.answer (g : Gn) (e : Exp) (code reason ndiff first : Nat) (d : List Byte) : Gn :=
  let g := g.giveVerdict e code reason ndiff first d
  let arriving := e.st == .arriving && decide (e.next < e.nparts)
  let rest := g.pf.exps.filter (fun x => !x.same e)
  let keep : Exp := { e with st := .answered, data := [], inFlight := [] }
  (g.onPf (fun q => { q with exps := if arriving then rest ++ [keep] else rest })).endRuns

/-- UNCHECKABLE with a reason. -/
def Gn.uncheckable (g : Gn) (e : Exp) (reason : Nat) : Gn := g.answer e 6 reason 0 0xFFFFFFFF []

/-- TRANSPORT. -/
def Gn.transport (g : Gn) (e : Exp) : Gn := g.answer e 3 0 0 0xFFFFFFFF []

/-- The plan an export is judged under: the one that governs its epoch now, else the one that did at its acceptance. -/
def Gn.expPlan (g : Gn) (e : Exp) : Option Plan := match g.planOf e.epoch with | some p => some p | none => e.plan

/-- Plan, entry and graph slot of an export; the slot its batch is bound to once it has one. -/
def Gn.expEntry (g : Gn) (e : Exp) : Option (Plan × Tensor × Nat) :=
  match g.expPlan e with
  | none => none
  | some p => match p.tensors[e.tensor]? with
    | none => none
    | some t => some (p, t, e.slot.getD (if e.op = 1 then t.graphB else t.graphF))

/-- The capture of a tensor of an epoch, not freed. -/
def Gn.capture (g : Gn) (epoch tensor : Nat) : Option Capture := g.pf.caps.find? (fun c => c.epoch == epoch && c.tensor == tensor && !c.freed)

/-- The capture that a running proof uses: it keeps one that was freed (R118). -/
def Gn.captureOf (g : Gn) (e : Exp) : Option Capture :=
  match g.capture e.epoch e.tensor with
  | some c => some c
  | none => g.pf.caps.find? (fun c => c.epoch == e.epoch && c.tensor == e.tensor)

/-- All bytes of a capture have arrived. -/
def Capture.complete (c : Capture) : Bool := c.bytes.length == c.size

/-- Why a waiting export cannot be proved against its capture (R116 step 8): 0 nothing, 12 still arriving. -/
def Gn.capState (g : Gn) (e : Exp) : Nat :=
  match g.capture e.epoch e.tensor with
  | none => 4
  | some c => if c.damaged then 5 else if !c.complete then 12 else if e.op = 1 && !c.transposable then 6 else 0

/-- Row-blocks that cannot be proved any more are answered at once: the proof graph of a waiting one, or the one a running batch is bound to, is lost
(R122); the capture of a waiting one is lost, or that of any is damaged (R116, R117). HANG and SCHEDULE_FAULT halt the graph (R84) as well as fault the run:
the halt answers NO_PLAN at once and the run is not repeated (the model's choice between R122's first and last bullets, log 42). -/
def Gn.proofSettle (g : Gn) : Gn :=
  forEach g.pf.exps (fun e g => match e.st with
    | .waiting _ =>
      if (g.planOf e.epoch).isNone || (match g.expEntry e with | none => true | some x => !g.proofLive x.2.2) then g.uncheckable e 1
      else
        let c := g.capState e
        if c = 0 ∨ c = 12 then g else g.uncheckable e c
    | .running =>
      if (match e.slot with | some s => !g.proofLive s | none => false) then g.uncheckable e 1
      else if (match g.captureOf e with | some c => c.damaged | none => false) then g.uncheckable e 5
      else g
    | _ => g) g

/-! ### Tracking of first exports (R115) -/

/-- seq a is ahead of b, modulo 2^32 over a window of 2^31. -/
def seqAhead (a b : Nat) : Bool := let d := (a + 2 ^ 32 - b % 2 ^ 32) % 2 ^ 32; decide (0 < d) && decide (d < 2 ^ 31)

def trackInit (_ : Nat) : Track := { base := none, seen := [], awaitBase := false }

/-! ### Commands of plan and seed -/

/-- PLAN: held, or refused as a whole with 0x0607. -/
def Gn.plan (g : Gn) (h : DescHdr) (hdr : List Byte) (ts : List (List Byte)) : Gn :=
  let p := parsePlan hdr ts
  let refuse := fun (tensor isEntry off : Nat) =>
    (g.record prodProof 0x0607 4 tensor isEntry off p.fromEpoch 0).failed 0x0A h 0x0607 tensor
  match planHdrBad hdr ts with
  | some off => refuse 0xFFFF 0 off
  | none =>
    let bad := ((ts.zip p.tensors).zipIdx.filterMap (fun e => (g.tensorBad e.1.1 e.1.2).map (fun o => (e.2, o))))
    match bad with
    | (i, off) :: _ => refuse i 1 off
    | [] =>
      let same := g.pf.plans.any (fun q => q.fromEpoch == p.fromEpoch)
      let low := g.pf.plans.foldl (fun m q => min m q.fromEpoch) (2 ^ 32)
      let kept := if same then g.pf.plans.filter (fun q => q.fromEpoch != p.fromEpoch)
        else if g.pf.plans.length < 2 then g.pf.plans else g.pf.plans.filter (fun q => q.fromEpoch != low)
      let g := (g.onPf (fun q => { q with plans := kept ++ [p] })).forwardSeeds
      (g.complete 0x0A h stOk []).proofSettle

def execPlan (h : DescHdr) (hdr : List Byte) (tensors : List (List Byte)) (s : State) : Host.Outcome State Fault Refusal :=
  gnStep s (fun g => g.desc 0x0A ruleS h (fun g => g.plan h hdr tensors))

/-- SEED: stored and forwarded; a seed of an epoch that has ended is discarded and its descriptor REFUSED. -/
def Gn.seed (g : Gn) (h : DescHdr) (epoch : Nat) (sd : BitVec 128) : Gn :=
  if epoch < g.pf.epoch then g.complete 0x0B h stRefused []
  else
    let all := g.pf.seeds.filter (fun s => s.epoch != epoch) ++ [{ epoch := epoch, seed := sd, sent := none }]
    let low := all.foldl (fun m s => min m s.epoch) epoch
    let kept := if 3 < all.length then all.filter (fun s => s.epoch != low) else all
    (g.onPf (fun q => { q with seeds := kept })).forwardSeeds.complete 0x0B h stOk []

def execSeed (h : DescHdr) (epoch : Nat) (sd : BitVec 128) (s : State) : Host.Outcome State Fault Refusal :=
  gnStep s (fun g => g.desc 0x0B ruleS h (fun g => g.seed h epoch sd))

/-! ### Dispatch (R120, R121) -/

/-- A cluster is in the eligible pool of a plan (R121, R126). -/
def Gn.eligible (g : Gn) (p : Plan) (c : Nat) : Bool :=
  p.pool.testBit c && !g.pf.quar.any (fun q => q.1 == c) && !g.pf.barred.contains c

/-- The next eligible cluster in ascending cyclic order after `c`, none of `excl`. -/
def Gn.nextCluster (g : Gn) (p : Plan) (c : Nat) (excl : List Nat) : Option Nat :=
  ((List.range 16).map (fun i => (c + 1 + i) % 16)).find? (fun x => g.eligible p x && !excl.contains x)

/-- A core of the cluster is pending or withdrawn for self-test. -/
def Gn.inTest (g : Gn) (c : Nat) : Bool := g.hg.testing.any (fun k => k / 16 == c)

/-- A proof graph has a free instance. -/
def Gn.freeInst (g : Gn) (slot : Nat) : Bool :=
  match g.graph slot with | some x => x.creates && decide (x.insts.length < x.instMax) | none => false

/-- The binding block of a run (R120): the capture base, the count, `op` and `fmt`; per row-block the address of A and the address that receives P. -/
def Gn.bindingBlock (g : Gn) (run : Nat) (es : List Exp) : List Byte :=
  match es with
  | [] => []
  | e :: _ =>
    leBytes 8 (match g.captureOf e with | some c => c.base | none => 0) ++ leBytes 4 es.length ++ leBytes 1 e.op ++ leBytes 1 (u8 e.hdr 19) ++ leBytes 2 0
      ++ es.zipIdx.flatMap (fun x => leBytes 8 x.1.base ++ leBytes 8 (Config.proofOut run x.2 % hbmSize))

/-- Write the binding block to the input slot of every task of the graph. -/
def Gn.writeBinding (g : Gn) (slot n run : Nat) (es : List Exp) : Gn :=
  match g.graph slot with
  | none => g
  | some x => forEach (x.tasks.filter (fun t => t.kind == 0)) (fun t g => g.hbmWrite (t.inAddr + n % max 1 x.instMax * t.stride) (g.bindingBlock run es)) g

/-- Start a run of some row-blocks on a cluster: the binding block is written, then the instance is created (R120). -/
def Gn.startRun (g : Gn) (slot cl role : Nat) (es : List Exp) : Gn :=
  let n := match g.graph slot with | some x => x.next | none => 0
  let id := g.pf.nextRun
  let r : PfRun :=
    { id := id, slot := slot, inst := n, cl := cl, role := role, rbs := es.map (fun e => (e.site, e.seq)), suspect := false, bad := none, ended := false }
  let upd := fun (e : Exp) => if es.any (fun x => x.same e) then
      { e with st := .running, inFlight := e.inFlight ++ [(id, role)], cls := e.cls.filter (fun c => c.1 != role) ++ [(role, cl)], slot := some slot } else e
  let g := (g.writeBinding slot n id es).onPf (fun q => { q with runs := q.runs ++ [r], nextRun := id + 1, exps := q.exps.map upd })
  (g.newInst slot (some cl)).afterTask slot

/-- Batch key of an export: plan, epoch, tensor, operation. -/
def Gn.batchKey (g : Gn) (e : Exp) : Nat × Nat × Nat × Nat :=
  ((match g.planOf e.epoch with | some p => p.fromEpoch | none => 0), e.epoch, e.tensor, e.op)

/-- When a waiting export became complete. -/
def Exp.since (e : Exp) : Nat := match e.st with | .waiting t => t | _ => 0

/-- Exports that a batch may take, oldest first. -/
def Gn.batchable (g : Gn) : List Exp :=
  (g.pf.exps.filter (fun e => (match e.st with | .waiting _ => true | _ => false) && g.capState e == 0)).mergeSort (fun a b => decide (a.since ≤ b.since))

/-- A first run goes to a cluster; double coverage sends its counterproof with it (R121), unless the batch has a counterproof already or no instance is free
for it, when the decision asks for it later. -/
def Gn.firstRun (g : Gn) (p : Plan) (slot cl : Nat) (es : List Exp) : Gn :=
  let dbl := p.dblAll || g.inTest cl
  let g := (g.onPf (fun q => { q with pointer := cl })).startRun slot cl 0 es
  if dbl then
    let g := g.onPf (fun q => { q with exps := q.exps.map (fun e => if es.any (fun x => x.same e) then { e with dbl := true } else e) })
    match g.nextCluster p cl [cl] with
    | some c2 => if g.freeInst slot && es.all (fun e => !e.cls.any (fun c => c.1 == 1)) then g.startRun slot c2 1 es else g
    | none => g
  else g

/-- Dispatch a batch's first run. -/
def Gn.dispatch (g : Gn) (p : Plan) (slot : Nat) (es : List Exp) : Gn :=
  match g.nextCluster p g.pf.pointer [] with
  | none => forEach es (fun e g => g.uncheckable e 11) g
  | some cl => g.firstRun p slot cl es

/-- Dispatch the first batch that satisfies a test on (its exports, its plan). -/
def Gn.dispatchWhen (g : Gn) (test : Plan → List Exp → Bool) : Gn :=
  if !g.alive || g.frozen || !g.isTray then g
  else
    let all := g.batchable
    let keys := (all.map g.batchKey).eraseDups
    let pick := keys.findSome? (fun k =>
      let es := all.filter (fun e => g.batchKey e == k)
      match es with
      | [] => none
      | e :: _ => match g.expEntry e with
        | none => none
        | some (p, _, slot) => if test p es && g.freeInst slot then some (p, slot, es.take p.batchMax) else none)
    match pick with
    | none => g
    | some (p, slot, es) => g.dispatch p slot es

/-! ### Decision (R125) -/

/-- What the decision routine says of a row-block now. -/
inductive Dec where
  | wait
  /-- A run of this role is needed. -/
  | need (role : Nat)
  /-- A verdict, the roles whose clusters are quarantined, the role whose run decided. -/
  | done (code : Nat) (quar : List Nat) (by_ : Nat)
deriving DecidableEq, Repr

/-- The decision routine over the outputs there are. -/
def Exp.decide_ (e : Exp) : Dec :=
  let ask := fun role : Nat => if e.inFlight.any (fun r => r.2 == role) then Dec.wait else .need role
  let eng := e.eng
  match e.run 0 with
  | none =>
    if ask 0 = .wait ∧ e.dbl = true ∧ (e.run 1).isNone = true ∧ ask 1 = .need 1 then .need 1 else ask 0
  | some p =>
    let third := fun (c : PRun) => match e.run 2 with
      | none => ask 2
      | some t =>
        if p.out = eng then (if t.out = eng then .done 0 [1] 0 else .done 5 [] 0)
        else if t.out = p.out then .done 2 [1] 0
        else if t.out = c.out then .done 2 [0] 1
        else if t.out = eng then .done 1 [0, 1] 0
        else .done 5 [] 0
    if e.dbl then
      match e.run 1 with
      | none => ask 1
      | some c =>
        if p.out = eng then (if c.out = eng then .done 0 [] 0 else third c)
        else if c.out = p.out then .done 2 [] 0
        else if c.out = eng then .done 1 [0] 0
        else third c
    else if p.out = eng then .done 0 [] 0
    else match e.run 1 with
      | none => ask 1
      | some c => if c.out = p.out then .done 2 [] 0 else if c.out = eng then .done 1 [0] 0 else third c

/-- Quarantine the cluster of a role's run (R126): out of the pool, its runs in flight suspect, record 0x0602; a second time within 24 hours it
stays out until released. A second row-block of the batch that quarantines a cluster already in quarantine counts as such a second time (the model's choice,
log 42). Firmware tests its cores from now on, one at a time. -/
def Gn.quarantine (g : Gn) (e : Exp) (role : Nat) : Gn :=
  let c := e.clOf role
  let d := diffOf (match e.run role with | some r => r.out | none => []) e.eng
  let day := 86400000000000
  let again := g.pf.lastQuar.any (fun q => q.1 == c && decide (g.now < q.2 + day))
  let g := g.onPf (fun q => { q with
    quar := q.quar.filter (fun x => x.1 != c) ++ [(c, g.now, [])],
    barred := if again && !q.barred.contains c then q.barred ++ [c] else q.barred,
    lastQuar := q.lastQuar.filter (fun x => x.1 != c) ++ [(c, g.now)],
    runs := q.runs.map (fun r => if r.cl = c then { r with suspect := true } else r) })
  (g.recordRank prodProof 0x0602 4 (e.source 0) (g.siteRank e.site) c d.1 d.2 e.seq).testNext c

/-- Give the verdict of a decision. -/
def Gn.decided (g : Gn) (e : Exp) (code : Nat) (quar : List Nat) (byRole : Nat) : Gn :=
  let out := match e.run byRole with | some r => r.out | none => []
  let d := if (code = 2 ∨ code = 5) ∧ (e.run byRole).isSome = true then diffOf out e.eng else (0, 0xFFFFFFFF)
  let g := g.answer e code 0 d.1 d.2 out
  forEach (quar.map e.clOf).eraseDups (fun c g => match quar.find? (fun r => e.clOf r == c) with
    | some r => g.quarantine e r
    | none => g) g

/-- Where a run of a role may go: after the last cluster that was to follow, on none already used (R121, R122). A faulted first run whose only other eligible
cluster holds the counterproof of double coverage goes nowhere: UNCHECKABLE, POOL (the model's choice, log 42). -/
def Gn.roleCluster (g : Gn) (p : Plan) (e : Exp) (role : Nat) : Option Nat :=
  let last := match e.cls.find? (fun c => c.1 == role) with
    | some c => some c.2
    | none => if role = 0 then none else some (e.clGiven (role - 1))
  g.nextCluster p (last.getD g.pf.pointer) (e.cls.map (·.2))

/-- Decide what can be decided and dispatch the runs that are needed, batched by (batch, role, clusters used); `n` bounds the rounds. A row-block whose
counterproof has nowhere to go is UNRESOLVED once its first run has ended (R125). -/
def Gn.proofPump (g : Gn) : Nat → Gn
  | 0 => g
  | n + 1 =>
    if g.frozen then g
    else
      let live := g.pf.exps.filter (fun e => e.st == .running)
      let act : Option (Exp × Dec) := live.findSome? (fun e => match e.decide_ with
        | .wait => none
        | .done c q b => some (e, Dec.done c q b)
        | .need r => match g.expEntry e with
          | none => none
          | some (p, _, slot) => match g.roleCluster p e r with
            | none => if r = 0 then some (e, .done 6 [] 0) else if (e.run 0).isSome then some (e, .done 5 [] 0) else none
            | some _ => if g.freeInst slot then some (e, .need r) else none)
      match act with
      | none => g
      | some (e, .done 6 _ _) => (g.uncheckable e 11).proofPump n
      | some (e, .done c q b) => (g.decided e c q b).proofPump n
      | some (e, .need r) =>
        let key := fun (x : Exp) => (g.batchKey x, x.slot, x.cls)
        (match g.expEntry e with
         | some (p, _, slot) => (match g.roleCluster p e r with
            | some cl =>
              let es := (live.filter (fun x => x.decide_ == .need r && key x == key e)).take p.batchMax
              (if r = 0 then g.firstRun p slot cl es else g.startRun slot cl r es).proofPump n
            | none => g)
         | none => g)
      | some (_, .wait) => g

/-- Rounds that suffice: every held export is decided once and asks for three roles twice at most. -/
def Gn.pumpAll (g : Gn) : Gn := g.proofPump (8 * g.pf.exps.length + 1)

/-- BATCH_DISPATCH: a batch that holds `batch_max` row-blocks. -/
def Gn.batchDispatch (g : Gn) : Gn := (g.dispatchWhen (fun p es => decide (p.batchMax ≤ es.length))).pumpAll

def execBatchDispatch (s : State) : Host.Outcome State Fault Refusal := gnStep s Gn.batchDispatch

/-- GATHER_EXPIRY: a batch whose oldest row-block has waited `gather_us`. -/
def Gn.gatherExpiry (g : Gn) : Gn :=
  (g.dispatchWhen (fun p es => match es with
    | e :: _ => decide (e.since + p.gatherUs * 1000 ≤ g.now)
    | [] => false)).pumpAll

def execGatherExpiry (s : State) : Host.Outcome State Fault Refusal := gnStep s Gn.gatherExpiry

/-- Roles move one up: the output of a suspect run becomes a first run that needs a counterproof, which the runs before it give (R126). -/
def Exp.asFirst (e : Exp) (role : Nat) (res : PRun) : Exp :=
  let up := fun (k : Nat) => if k < role then k + 1 else k
  { e with dbl := true, runs := e.runs.map (fun r => { r with role := up r.role }) ++ [{ res with role := 0 }],
           inFlight := e.inFlight.map (fun x => (x.1, up x.2)),
           cls := (e.cls.filter (fun c => c.1 != role)).map (fun c => (up c.1, c.2)) ++ [(0, res.cl)] }

/-- The outcome of one row-block of a run, the `i`-th of its batch (R122): its output P, or what the run's first fault makes of it. The rule names no outcome for
FAULT_DATA of another cause (an ensemble's, a corrupted node's): it counts as a fault of Ginath's own (DESIGN CHOICE, assumption log 40). -/
def Gn.runOutcome (g : Gn) (r : PfRun) (i : Nat) (b : Nat × Nat) : Gn :=
  match g.pf.exps.find? (fun e => e.site == b.1 && e.seq == b.2 && e.st == .running && e.inFlight.any (fun x => x.1 == r.id)) with
  | none => g
  | some e =>
    let role := match e.inFlight.find? (fun x => x.1 == r.id) with | some x => x.2 | none => r.role
    let e1 := { e with inFlight := e.inFlight.filter (fun x => x.1 != r.id) }
    let put := fun (x : Exp) => g.onPf (fun q => { q with exps := q.exps.map (fun y => if y.same x then x else y) })
    match r.bad with
    | none =>
      let res : PRun := { role := role, cl := r.cl, out := g.hbmRead (Config.proofOut r.id i % hbmSize) e.lenE }
      if r.suspect then put (e1.asFirst role res) else put { e1 with runs := e1.runs ++ [res] }
    | some (1, .index) => (put e1).uncheckable e1 7
    | some (1, .merge) => (put e1).uncheckable e1 8
    | some (1, .shape) => (put e1).uncheckable e1 2
    | some _ => if e.faults.contains role then (put e1).uncheckable e1 10 else put { e1 with faults := e1.faults ++ [role] }

/-- PROOF_RUN_DONE: the instance of a run has ended; its outputs are compared, in the order of its row-blocks. During a freeze no comparison is made. -/
def Gn.proofRunDone (g : Gn) (slot inst : Nat) : Gn :=
  if !g.alive || g.frozen then g
  else match g.pf.runs.find? (fun r => r.slot == slot && r.inst == inst && r.ended) with
    | none => g
    | some r =>
      let g := forEach r.rbs.zipIdx (fun x g => g.runOutcome r x.2 x.1) g
      (g.onPf (fun q => { q with runs := q.runs.filter (fun x => x.id != r.id) })).pumpAll

def execProofRunDone (slot inst : Nat) (s : State) : Host.Outcome State Fault Refusal :=
  gnStep s (fun g => g.proofRunDone slot inst)

/-- An export's header is whole (R113, R116 step 1). -/
def expHdrOk (h : List Byte) : Bool := h.length == 64 && u32 h 60 == crc32c (h.take 60)

/-- Parts of an export that a freeze has parked. -/
def parkedPart (site seq : Nat) : Parked → Option (Nat × Nat × List Byte)
  | .part s q p n b => if s = site ∧ q = seq then some (p, n, b) else none
  | _ => none

/-- An export that a freeze has parked from its first part on, with its header whole. -/
def Gn.parkedExp (g : Gn) (site seq : Nat) : Option Exp :=
  let ps := g.parked.filterMap (parkedPart site seq)
  match ps.find? (fun p => p.1 == 0 && expHdrOk (p.2.2.take 64) && u32 p.2.2 52 == seq) with
  | none => none
  | some p => some { Exp.blank site seq with hdr := p.2.2.take 64, nparts := p.2.1, next := (ps.map (·.1)).foldl max 0 + 1, re := u8 p.2.2 49 == 1 }

/-- Note that a first export's seq was received or answered (R115). -/
def Gn.noteSeq (g : Gn) (site seq : Nat) : Gn :=
  let x := SMap.get trackInit g.pf.tracks site
  match x.base with
  | none => g
  | some b => if seqAhead seq b && !x.seen.contains seq then
      g.onPf (fun q => { q with tracks := SMap.set trackInit q.tracks site { x with seen := x.seen ++ [seq] } }) else g

/-- PROOF_DEADLINE (R127): LATE for an export without a verdict, during a freeze too; one whose parts the freeze has parked is answered from its header and
its parts are dropped. -/
def Gn.proofDeadline (g : Gn) (site seq : Nat) : Gn :=
  match g.pf.exps.find? (fun e => e.site == site && e.seq == seq && e.st != .answered) with
  | none => (match g.parkedExp site seq with
    | none => g
    | some e => match g.planOf e.epoch with
      | none => g
      | some p => if e.htDone + p.deadlineUs * 1000 ≤ g.now then
          (({ g with parked := g.parked.filter (fun x => (parkedPart site seq x).isNone) } : Gn).noteSeq site seq).answer e 4 0 0 0xFFFFFFFF []
        else g)
  | some e => match g.expPlan e with
    | none => g
    | some p => if e.htDone + p.deadlineUs * 1000 ≤ g.now then g.answer e 4 0 0 0xFFFFFFFF [] else g

def execProofDeadline (site seq : Nat) (s : State) : Host.Outcome State Fault Refusal := gnStep s (fun g => g.proofDeadline site seq)

/-- POOL_RELEASE (R126): a cluster quarantined twice returns to the pool; any other cluster refuses. -/
def Gn.poolRelease (g : Gn) (h : DescHdr) (c : Nat) : Gn :=
  if 16 ≤ c then g.complete 0x12 h stInvalid []
  else if g.pf.barred.contains c then
    (g.onPf (fun q => { q with barred := q.barred.filter (fun x => x != c), quar := q.quar.filter (fun x => x.1 != c) })).complete 0x12 h stOk []
  else g.complete 0x12 h stRefused []

def execPoolRelease (h : DescHdr) (cluster : Nat) (s : State) : Host.Outcome State Fault Refusal :=
  gnStep s (fun g => g.desc 0x12 ruleS h (fun g => g.poolRelease h cluster))

/-! ### Weight capture (R20, R117 to R119, R194) -/

/-- Mark a capture damaged, with one record 0x0609 per capture. -/
def Gn.damage (g : Gn) (epoch tensor chunk : Nat) : Gn :=
  match g.capture epoch tensor with
  | none => g
  | some c =>
    if c.damaged then g
    else
      let g := g.onPf (fun q => { q with caps := q.caps.map (fun x => if x.epoch = epoch ∧ x.tensor = tensor then { x with damaged := true } else x) })
      g.record prodProof 0x0609 4 0 epoch tensor chunk 0

/-- A proof that runs keeps the capture until it ends (R118). -/
def Gn.captureUsed (g : Gn) (c : Capture) : Bool := g.pf.exps.any (fun e => e.st == .running && e.epoch == c.epoch && e.tensor == c.tensor)

/-- Free the captures that a test names: those a running proof uses are kept until it ends. -/
def Gn.freeCaps (g : Gn) (test : Capture → Bool) : Gn :=
  let caps := (g.pf.caps.filter (fun c => !test c || g.captureUsed c)).map (fun c => if test c then { c with freed := true } else c)
  g.onPf (fun q => { q with caps := caps })

/-- The tap has begun no epoch yet. -/
def Gn.noEpoch (g : Gn) : Bool := g.rd.epochs.isEmpty

/-- The tap begins an epoch (R20, R118) at the hall time stamped on the frame: captures below the one before it are freed; a missing seed is warned of once
(R110). A first frame that carries epoch 0 changes no epoch: 0 is active from reset. -/
def Gn.beginEpoch (g : Gn) (ht epoch : Nat) : Gn :=
  let was := g.pf.epoch
  let g := (g.freeCaps (fun c => decide (c.epoch + 1 < epoch))).onPf (fun q =>
    { q with epoch := epoch, refused := q.refused.filter (fun r => decide (epoch ≤ r.1 + 1)) })
  let g := if epoch = was then g else { g with rd := { g.rd with epochs := g.rd.epochs ++ [(ht, epoch)] } }
  if g.pf.seeds.any (fun s => s.epoch == epoch) || g.pf.seedWarned.contains epoch then g
  else (g.onPf (fun q => { q with seedWarned := q.seedWarned ++ [epoch] })).record prodProof 0x0608 3 0 epoch 0 0 0

/-- Bytes of the tap-capture region in use. -/
def Gn.capUsed (g : Gn) : Nat := (g.pf.caps.map (·.size)).sum

/-- Where `need` bytes fit in the tap-capture region. -/
def Gn.capRoom (g : Gn) (need : Nat) : Option Nat := firstFit 0 (48 * 2 ^ 30) need (g.pf.caps.map (fun c => (c.base, c.size)))

/-- Free captures of epoch `e`, highest tensor first, until `need` bytes fit; `n` bounds them. -/
def Gn.evict (g : Gn) (e need : Nat) : Nat → Gn
  | 0 => g
  | n + 1 =>
    if (g.capRoom need).isSome then g
    else match (g.pf.caps.filter (fun c => c.epoch == e && !c.freed)).foldl (fun acc c => match acc with
        | none => some c.tensor
        | some t => some (max t c.tensor)) none with
      | none => g
      | some t =>
        ((g.freeCaps (fun c => c.epoch == e && c.tensor == t)).inc F.pfCap_evict).evict e need n

/-- Room for a new capture, or none (R118): a tensor refused for lack of space is counted once and stays without a capture. -/
def Gn.newCapture (g : Gn) (epoch tensor size : Nat) : Gn :=
  if (g.capture epoch tensor).isSome || g.pf.refused.contains (epoch, tensor) then g
  else
    let g := if epoch = 0 then g else g.evict (epoch - 1) size g.pf.caps.length
    match g.capRoom size with
    | some base =>
      let c : Capture :=
        { epoch := epoch, tensor := tensor, size := size, base := base, bytes := [], crcs := [], rep := [], damaged := false, transposable := true,
          freed := false }
      g.onPf (fun q => { q with caps := q.caps ++ [c] })
    | none => (g.inc F.pfCap_evict).onPf (fun q => { q with refused := q.refused ++ [(epoch, tensor)] })

/-- The tensor entry of a planned (epoch, tensor) whose capture a damaged frame names: of the active epoch or the one before it (R118). A frame that failed its
check begins no epoch (DEDUCED, log 42). -/
def Gn.planned (g : Gn) (epoch tensor : Nat) : Option Tensor :=
  if epoch + 1 < g.pf.epoch ∨ g.pf.epoch < epoch then none
  else match g.planOf epoch with
    | none => none
    | some p => p.tensors[tensor]?

/-- Bounds of a chunk of 64 KiB. -/
def Capture.chunk (c : Capture) (i : Nat) : Nat × Nat := (i * 65536, min 65536 (c.size - i * 65536))

/-- A map of byte + 1 covers a chunk. -/
def coversChunk (m : SMap Nat) (lo n : Nat) : Bool := (m.filter (fun e => decide (lo ≤ e.1) && decide (e.1 < lo + n))).length == n

/-- CRC-32C of a covered chunk. -/
def chunkCrc (m : SMap Nat) (lo n : Nat) : Nat :=
  crc32c ((m.filter (fun e => decide (lo ≤ e.1) && decide (e.1 < lo + n))).map (fun e => BitVec.ofNat 8 (e.2 - 1)))

/-- Write one arriving byte: first arrivals fill holes; bytes of chunks with a stored CRC gather for the comparison of a repeat (R117). -/
def Capture.put (c : Capture) (off : Nat) (b : Byte) : Capture :=
  let zero := fun _ : Nat => (0 : Nat)
  if SMap.get zero c.bytes off = 0 then { c with bytes := SMap.set zero c.bytes off (b.toNat + 1) }
  else if c.crcs.any (fun x => x.1 == off / 65536) then { c with rep := SMap.set zero c.rep off (b.toNat + 1) }
  else c

/-- After a frame's bytes, one chunk: its CRC is stored when it is whole, a covered repeat is compared. The flag: the repeat differs. -/
def Capture.chunkDone (c : Capture) (i : Nat) : Capture × Bool :=
  let (lo, n) := c.chunk i
  match c.crcs.find? (fun x => x.1 == i) with
  | none => if coversChunk c.bytes lo n then ({ c with crcs := c.crcs ++ [(i, chunkCrc c.bytes lo n)] }, false) else (c, false)
  | some x =>
    if coversChunk c.rep lo n then
      ({ c with rep := c.rep.filter (fun e => !(decide (lo ≤ e.1) && decide (e.1 < lo + n))) }, chunkCrc c.rep lo n != x.2)
    else (c, false)

/-- Every 4 × 4 block of a mask, at multiples of 4 along K and N, has at most 2 non-zeros in each row and in each column (R64). -/
def maskOk (kdim ndim : Nat) (nz : Nat → Nat → Bool) : Bool :=
  (List.range (ceilDiv kdim 4)).all (fun kb => (List.range (ceilDiv ndim 4)).all (fun nb =>
    let at_ := fun (i j : Nat) => decide (4 * kb + i < kdim) && decide (4 * nb + j < ndim) && nz (4 * kb + i) (4 * nb + j)
    (List.range 4).all (fun i => decide (((List.range 4).filter (fun j => at_ i j)).length ≤ 2) && decide (((List.range 4).filter (fun j => at_ j i)).length ≤ 2))))

/-- The mask of the bytes of a capture so far is transposable (R119); elements whose bytes have not arrived count as zeros. -/
def Capture.maskOk (c : Capture) (t : Tensor) : Bool :=
  let bytes := c.bytes.map (fun e => (e.1, e.2 - 1))
  Machine.maskOk t.kdim t.ndim (fun k n => match Config.weightCode t.kdim t.ndim t.fmtW bytes k n with | some x => nonZero t.fmtW x | none => false)

/-- A weight frame that passed its checks. Only an epoch number above the active one changes the active epoch: a lower one not seen before does not (the
model's choice, log 42: R20 says only `the new epoch number`). -/
def Gn.weightGood (g : Gn) (ht epoch tensor off : Nat) (data : List Byte) : Gn :=
  let g := if g.noEpoch || decide (g.pf.epoch < epoch) then g.beginEpoch ht epoch else g
  match g.planOf epoch with
  | none => g.inc F.lkTap_tapUnpl
  | some p => match p.tensors[tensor]? with
    | none => g.inc F.lkTap_tapUnpl
    | some t =>
      if epoch + 1 < g.pf.epoch then g
      else
        let g := g.newCapture epoch tensor t.wBytes
        match g.capture epoch tensor with
        | none => g
        | some c =>
          if c.size < off + data.length then g.damage epoch tensor (off / 65536)
          else
            let c := data.zipIdx.foldl (fun c e => c.put (off + e.2) e.1) c
            let chunks := (List.range (data.length + 1)).map (fun i => (off + i) / 65536)
            let r := (chunks.eraseDups.filter (fun i => decide (i * 65536 < c.size))).foldl
              (fun (acc : Capture × List Nat) i => let d := acc.1.chunkDone i; (d.1, if d.2 then acc.2 ++ [i] else acc.2)) (c, [])
            let c := r.1
            let c := if t.sparse == 1 && t.ops.testBit 1 then { c with transposable := c.transposable && c.maskOk t } else c
            let g := g.onPf (fun q => { q with caps := q.caps.map (fun x => if x.epoch = epoch ∧ x.tensor = tensor ∧ x.freed = false then c else x) })
            match r.2 with
            | i :: _ => g.damage epoch tensor i
            | [] => g

/-- WEIGHT_FRAME: a whole frame leaves the tap's receive buffer for its capture (R193); a frame damaged without a readable header marks every incomplete capture of the active epoch (R194). -/
def Gn.weight (g : Gn) (w : WeightIn) : Gn :=
  let g := match w with
    | .good ht e t o d => ({ g with lk := { g.lk with tapFill := g.lk.tapFill - 64 * ceilDiv (36 + d.length) 64 } } : Gn).weightGood ht e t o d
    | .damagedHdr e t o => (match g.planned e t with
        | some x => (g.newCapture e t x.wBytes).damage e t (o / 65536)
        | none => g)
    | .damagedNoHdr => forEach (g.pf.caps.filter (fun (c : Capture) => c.epoch == g.pf.epoch && !c.complete)) (fun (c : Capture) g => g.damage c.epoch c.tensor 0xFFFFFFFF) g
  g.proofSettle

/-- Park an arrival while a freeze holds (R173). -/
def Gn.park (g : Gn) (x : Parked) : Gn := { g with parked := g.parked ++ [x] }

/-- The module takes what its links bring: it runs and is not in Deep idle (R301, R310). -/
def Gn.takes (g : Gn) : Bool := g.alive && g.rg F.pwState_pstate != 2

/-- What the tap brings: to a tray only (R18); parked while a freeze holds. -/
def Gn.weightIn (g : Gn) (w : WeightIn) : Gn :=
  if !g.takes || !g.isTray then g else if g.frozen then g.park (.weight w)
  else match w with
    | .good _ e t o d => g.viaHbm 16 (match g.capture e t with | some c => c.base + o | none => 0) d.length (fun g => g.weight w)
    | _ => g.weight w

def execWeightFrame (w : WeightIn) (s : State) : Host.Outcome State Fault Refusal := gnStep s (fun g => g.weightIn w)

/-! ### Export acceptance (R113 to R116) -/

def Gn.track (g : Gn) (site : Nat) : Track := SMap.get trackInit g.pf.tracks site

def Gn.setTrack (g : Gn) (site : Nat) (x : Track) : Gn := g.onPf (fun q => { q with tracks := SMap.set trackInit q.tracks site x })

/-- Every first export above the base and below `upto` (counted inclusive when `incl`) that never arrived is answered TRANSPORT; the base moves up. -/
def Gn.missing (g : Gn) (site upto : Nat) (incl : Bool) : Gn :=
  let x := g.track site
  match x.base with
  | none => g
  | some b =>
    if seqAhead upto b then
      let n := (upto + 2 ^ 32 - b) % 2 ^ 32
      let all := (List.range n).map (fun i => (b + 1 + i) % 2 ^ 32)
      let lost := all.filter (fun s => !x.seen.contains s && (incl || s != upto))
      let g := g.setTrack site { x with base := some upto, seen := x.seen.filter (fun s => seqAhead s upto) }
      forEach lost (fun s g => g.transport (Exp.blank site s)) g
    else g

/-- A seq of the site has been received or answered before: its next export is a re-export. -/
def Gn.knownSeq (g : Gn) (site seq : Nat) : Bool :=
  let x := g.track site
  match x.base with
  | none => false
  | some b => !seqAhead seq b || x.seen.contains seq

/-- Row length of a format (R114): elements, then a scale byte per 32 for an MX format. -/
def rowBytes (f c : Nat) : Nat :=
  let w := if f = 0 then 4 else if f = 1 ∨ f = 2 then 6 else if f ≤ 5 then 8 else if f = 6 then 16 else 32
  c * w / 8 + (if isMx f then c / 32 else 0)

/-- Where `n` bytes fit in the landing area (R116 step 6). -/
def Gn.landRoom (g : Gn) (n : Nat) : Option Nat :=
  firstFit hbmLanding (2 ^ 30) n ((g.pf.exps.filter (fun e => e.st != .answered)).map (fun e => (e.base, e.lenA + e.lenE)))

/-- Steps 3 to 6 of R116: 0 passes, else the UNCHECKABLE reason. -/
def Gn.accept_ (g : Gn) (e : Exp) : Nat :=
  let h := e.hdr
  match g.expEntry e with
  | none => 1
  | some (p, t, slot) =>
    let f := if e.op = 1 then t.fmtB else t.fmtF
    let kred := if e.op = 1 then t.ndim else t.kdim
    let nout := if e.op = 1 then t.kdim else t.ndim
    let id : RbIdent := { epoch := e.epoch, step := u32 h 12, rb := u32 h 20, tensor := e.tensor, op := e.op }
    if !g.proofLive slot then 1
    else if decide (2 ≤ e.op) || !t.ops.testBit e.op || decide (2 ≤ e.attempt) || !zeroBytes h 50 52 || !zeroBytes h 56 60 || u8 h 19 != f
        || u32 h 24 != kred || u32 h 28 != nout || e.lenA != 32 * rowBytes (bits f 0 4) kred || e.lenE != 32 * rowBytes (bits f 4 4) nout then 2
    else match g.pf.seeds.find? (fun s => s.epoch == e.epoch) with
      | none => 3
      | some s =>
        if p.k = 0 || !selected s.seed p.k id (u8 h 48) then 3
        else if (g.landRoom (e.lenA + e.lenE)).isNone then 9 else 0

/-- Replace a held export. -/
def Gn.putExp (g : Gn) (e : Exp) : Gn := g.onPf (fun q => { q with exps := q.exps.map (fun x => if x.same e then e else x) })

/-- The last part has come: steps 7 and 8. -/
def Gn.expComplete (g : Gn) (e : Exp) : Gn :=
  let a := e.data.take e.lenA
  if e.data.length != e.lenA + e.lenE || crc32c a != u32 e.hdr 32 || crc32c e.eng != u32 e.hdr 36 then
    let g := g.transport e
    if e.attempt = 1 then g.recordRank prodProof 0x060A 3 (e.source 0) (g.siteRank e.site) e.seq e.epoch e.ident (u32 e.hdr 20) else g
  else
    let c := g.capState e
    if c = 0 ∨ c = 12 then (g.putExp { e with st := .waiting g.now }).proofSettle else g.uncheckable e c

/-- Add an export that has been answered while its parts still arrive. -/
def Gn.noteAnswered (g : Gn) (e : Exp) : Gn :=
  if e.next < e.nparts then g.onPf (fun q => { q with exps := q.exps ++ [{ e with st := .answered, data := [] }] }) else g

/-- A first part whose header is whole and whose `seq` is not held: steps 3 to 6, then its bytes land. -/
def Gn.exportFirst (g : Gn) (e1 : Exp) (b : List Byte) : Gn :=
  let g := if e1.attempt = 0 then g.missing e1.site e1.seq false else g
  let g := g.onPf (fun q => { q with exps := q.exps.filter (fun x => !(x.same e1 && x.st == .answered)) })
  let r := g.accept_ e1
  if r ≠ 0 then (g.uncheckable { e1 with nparts := 0 } r).noteAnswered e1
  else
    let e2 := { e1 with data := b.drop 64, base := (g.landRoom (e1.lenA + e1.lenE)).getD hbmLanding, plan := g.planOf e1.epoch }
    let g := g.onPf (fun q => { q with exps := q.exps ++ [e2] })
    if e2.next = e2.nparts then g.expComplete e2 else g

/-- An export's part (R115, R116). The header check comes before the look at what is held; a part of an export that is held already is dropped. A damaged header
that names a held export is answered TRANSPORT and leaves the held one its own verdict. Parts go out in order: one that is not ahead of those an answered
export still awaits belongs to its re-export, whose first part was lost. -/
def Gn.exportPart (g : Gn) (site seq part nparts : Nat) (b : List Byte) : Gn :=
  -- parts of another export of the site end what was still arriving
  let others := g.pf.exps.filter (fun e => e.site == site && e.seq != seq && e.st == .arriving)
  let g := g.onPf (fun q => { q with exps := q.exps.filter (fun e => !(e.site == site && e.seq != seq && e.st == .answered)) })
  let g := forEach others (fun e g => g.transport { e with nparts := e.next }) g
  let e0 : Exp := { Exp.blank site seq with nparts := nparts, next := part + 1, re := g.knownSeq site seq }
  let h := b.take 64
  let e1 := { e0 with hdr := h, seq := u32 h 52, re := u8 h 49 == 1 }
  let held := fun (s : Nat) => g.pf.exps.find? (fun e => e.site == site && e.seq == s)
  if part = 0 then
    if !expHdrOk h then
      (match held seq with
       | some e => if e.st = .answered then g.transport e0 else g.giveVerdict e0 3 0 0 0xFFFFFFFF []
       | none => (g.transport e0).noteSeq site seq)
    else match held e1.seq with
      | some e => if e.st = .answered then g.exportFirst e1 b else g
      | none => g.exportFirst e1 b
  else match held seq with
    | some e =>
      if e.st = .answered then
        if part < e.next then (if e.re then g else g.transport { e0 with re := true })
        else if nparts ≤ part + 1 then g.onPf (fun q => { q with exps := q.exps.filter (fun x => !x.same e) }) else g.putExp { e with next := part + 1 }
      else if e.st = .arriving then
        if part < e.next then g
        else if part = e.next ∧ nparts = e.nparts then
          let e1 := { e with next := part + 1, data := e.data ++ b }
          let g := g.putExp e1
          if e1.next = nparts then g.expComplete e1 else g
        else (g.putExp { e with next := part + 1 }).transport { e with next := part + 1 }
      else g
    | none => (g.transport e0).noteSeq site seq

/-- Damage or a gap has taken a frame of the exports of a site (R115, R196): the one still arriving is answered TRANSPORT. -/
def Gn.partLost (g : Gn) (site : Nat) : Gn :=
  forEach (g.pf.exps.filter (fun e => e.site == site && e.st == .arriving)) (fun e g => g.transport { e with next := e.next + 1 }) g

/-- The same as the link finds it: behind the parts that a freeze has parked. -/
def Gn.exportLost (g : Gn) (site : Nat) : Gn :=
  if !g.isTray then g else if g.frozen then g.park (.lost site) else g.partLost site

/-- Where the next bytes of an export land: behind those held, or at the start of the landing area while it has no place yet. -/
def Gn.landAt (g : Gn) (site seq : Nat) : Nat :=
  match g.pf.exps.find? (fun e => e.site == site && e.seq == seq && e.st == .arriving) with
  | some e => e.base + e.data.length
  | none => hbmLanding

def execExportPartFrame (site seq part nparts : Nat) (data : List Byte) (s : State) : Host.Outcome State Fault Refusal :=
  gnStep s (fun g => if !g.takes || !g.isTray then g
    else if g.frozen then g.park (.part site seq part nparts data)
    else g.viaHbm 18 (g.landAt site seq) data.length (fun g => g.exportPart site seq part nparts data))

/-- A watermark (R115): the first after a link start gives the base of tracking; a later one answers what never arrived, and a first export that it has
passed while parts of it are missing. A first export that the watermark has passed sends no more parts. -/
def Gn.keepalive (g : Gn) (site w : Nat) : Gn :=
  let x := g.track site
  if x.awaitBase then g.setTrack site { base := some w, seen := [], awaitBase := false }
  else
    let cut := g.pf.exps.filter (fun e => e.site == site && e.st == .arriving && e.attempt == 0 && !seqAhead e.seq w)
    let g := forEach cut (fun e g => g.transport { e with nparts := e.next }) g
    let past := fun (e : Exp) => e.site == site && e.st == .answered && !e.re && !seqAhead e.seq w
    (g.onPf (fun q => { q with exps := q.exps.filter (fun e => !past e) })).missing site w true

/-- KEEPALIVE_FRAME at a tray; during a freeze it is parked behind the parts that came before it (R173). -/
def execKeepaliveFrame (site : Nat) (watermark : Option Word32) (s : State) : Host.Outcome State Fault Refusal :=
  gnStep s (fun g => match watermark with
    | none => g
    | some w => if !g.takes || !g.isTray then g else if g.frozen then g.park (.keepalive site w.toNat) else g.keepalive site w.toNat)

/-- At a link start of a die route (R115, R135): tracking and the site's exports are discarded without verdicts. -/
def Gn.proofSiteReset (g : Gn) (site : Nat) : Gn :=
  let g := g.setTrack site { base := none, seen := [], awaitBase := true }
  let g := { g with parked := g.parked.filter (fun x => match x with
      | .part s _ _ _ _ => s != site
      | .keepalive s _ => s != site
      | .lost s => s != site
      | _ => true) }
  let x := g.port (g.sitePort site)
  let mine := fun f : Frame => f.typ == 0x21 && f.dst == .site site
  let g := if x.sendQ.any mine || x.unack.any (fun u => mine u.f) then
      g.setPort (g.sitePort site) { x with sendQ := x.sendQ.filter (fun f => !mine f), unack := x.unack.filter (fun u => !mine u.f) } else g
  (g.onPf (fun q => { q with exps := q.exps.filter (fun e => e.site != site) })).endRuns

/-! ### Task commands, after which a proof graph may be lost (R122) -/

def execTaskLaunch (s : State) : Host.Outcome State Fault Refusal := gnStep s (fun g => g.taskLaunch.proofSettle)

def execTaskComplete (slot inst task : Nat) (s : State) : Host.Outcome State Fault Refusal :=
  gnStep s (fun g => (g.taskComplete slot inst task).proofSettle)

def execBreakPoint (slot inst task : Nat) (s : State) : Host.Outcome State Fault Refusal :=
  gnStep s (fun g => (g.breakPoint slot inst task).proofSettle)

def execHoldResume (slot inst task : Nat) (s : State) : Host.Outcome State Fault Refusal :=
  gnStep s (fun g => (g.holdResume slot inst task).proofSettle)

def execBpWatchdog (slot inst task : Nat) (s : State) : Host.Outcome State Fault Refusal :=
  gnStep s (fun g => (g.bpWatchdog slot inst task).proofSettle)

def execGraphUnload (h : DescHdr) (slot : Nat) (s : State) : Host.Outcome State Fault Refusal :=
  gnStep s (fun g => g.desc 0x07 ruleS h (fun g => (g.graphUnload h slot).proofSettle))

end Sys2Proof.Machine
end

