-- ==== Sys2Proof/Machine/Receive.lean ====
section
/-! DEFINITION. Receiving (R186 to R196, R204): flits, frames, duplicates, reassembly, decompression, damage. -/

namespace Sys2Proof.Machine

/-! ### Frames (R186, R187) -/

/-- A frame as received. -/
structure RxFrame where
  stamp : Nat
  typ : Nat
  pad : Nat
  z : Bool
  more : Bool
  nbead : Nat
  cls : Nat
  studio : Nat
  tq : Nat
  src : Nat
  seq : Nat
  seg : Nat
  body : List Byte
deriving DecidableEq, Repr

/-- Read the header and cut the body; reserved bits are ignored (R9). -/
def parseFrame (raw : List Byte) : RxFrame :=
  let lo := u64 raw 0
  let hi := u64 raw 8
  let pad := bits lo 56 6
  { stamp := bits lo 0 48, typ := bits lo 48 8, pad := pad, z := bit lo 62, more := bit lo 63, nbead := bits hi 0 6, cls := bits hi 6 2,
    studio := bits hi 8 4, tq := bits hi 12 5, src := bits hi 24 8, seq := bits hi 32 16, seg := bits hi 48 8,
    body := (raw.drop 16).take (raw.length - 20 - pad) }

/-- The frame's length fits its header, and its trailer is the CRC-32C of what comes before (R187, R195 step 3). -/
def frameOk (raw : List Byte) (f : RxFrame) : Bool :=
  raw.length == 64 * (f.nbead + 1) && decide (20 + f.pad ≤ raw.length) &&
    u32 raw (raw.length - 4) == crc32c (raw.take (raw.length - 4)) && zeroBytes raw (raw.length - 4 - f.pad) (raw.length - 4)

/-- The header of a frame agrees with the tags of its flits. -/
def headerFits (r : Rx) (f : RxFrame) : Bool := f.stamp == r.stamp && f.cls == r.cls && r.b.length == 64 * (f.nbead + 1)

/-- Types a port carries toward this node (R188, R206, R234). -/
def Gn.typeOn (g : Gn) (p typ : Nat) : Bool :=
  let use := g.portUse p
  if use = 1 then [0x00, 0x01, 0x02, 0x04, 0x07, 0x10, 0x11, 0x12, 0x13, 0x15, 0x19, 0x1A, 0x20].contains typ
  else if use = 2 ∨ use = 3 then
    [0x00, 0x01, 0x02, 0x10, 0x19, 0x1D, 0x30, 0x31, 0x32, 0x35, 0x38, 0x3A].contains typ
      || (typ == 0x3F && g.flag F.rdCfg_tc2) || (typ == 0x03 && g.timePort == some p)
  else if use = 4 ∨ use = 5 then
    [0x00, 0x01, 0x03, 0x18, 0x19, 0x1C, 0x33, 0x34, 0x36, 0x37, 0x39].contains typ || (typ == 0x3F && g.flag F.rdCfg_tc2)
  else if use = 6 then typ == 0x00 || typ == 0x40
  else if use = useTc2 then tc2Type typ
  else false

/-- The frame types of a proof kind (R19): the manual does not list them; the model takes export, verdict, seed and weight (DESIGN CHOICE, assumption
log 22). -/
def proofKind (typ : Nat) : Bool := [0x20, 0x21, 0x22, 0x40].contains typ

/-- The class a frame of a type has: a block's by R152, a Ginath's by R188, a weight frame's by R194; event records have two. -/
def clsOk (fromBlock : Bool) (typ cls : Nat) : Bool :=
  if typ = 0x10 then cls == 1 || cls == 3
  else if fromBlock then
    if typ = 0x11 then cls == 1
    else if typ = 0x20 then cls == 2
    else if [0x12, 0x13, 0x15, 0x19].contains typ then cls == 3
    else cls == 0
  else cls == ginathClass typ

/-- `src` fits the port (R187, R195 step 4): a mapped site of that down port, or 0xFF. -/
def Gn.srcOn (g : Gn) (p src typ : Nat) : Bool :=
  if g.portUse p = 1 then
    if src < 112 then g.siteMapped src && g.sitePort src == p else src == 0xFF && (typ == 0x00 || typ == 0x01)
  else src == 0xFF

/-- Extend a 48-bit stamp to the time nearest this node's (R159). -/
def extStamp (now s : Nat) : Nat :=
  let m := 2 ^ 48
  let base := now / m * m + s
  if now + m / 2 < base then (if m ≤ base then base - m else base) else if base + m / 2 < now then base + m else base

/-! ### Damage (R193, R194, R196) -/

/-- The frame that is arriving leaves the port's buffer: its credits are owed, or its place in the tap's 1 MiB buffer is free. -/
def Gn.dropRx (g : Gn) (p : Nat) : Gn :=
  let x := g.port p
  match x.rx with
  | none => g
  | some r =>
    let g := g.setPort p { x with rx := none }
    if !r.ok then g
    else if p < 34 then g.oweCredit p r.cls r.beads
    else { g with lk := { g.lk with tapFill := g.lk.tapFill - r.beads * 64 } }

/-- A weight frame that fails a check marks its capture damaged when its header is readable: its first flit came, and it agrees with the tag. Else every
capture of the active epoch that is incomplete is marked (R194). -/
def Gn.tapDamage (g : Gn) (r : Option Rx) : Gn :=
  match r with
  | some x =>
    let y := parseFrame x.b
    if y.stamp = x.stamp ∧ y.cls = x.cls then (if y.typ = 0x40 then g.weightIn (.damagedHdr (u32 x.b 16) (u16 x.b 20) (u64 x.b 24)) else g)
    else g.weightIn .damagedNoHdr
  | none => g.weightIn .damagedNoHdr

/-- Frames of class 2 of a die site were lost (R196): so is the export that was arriving from it. -/
def Gn.classLost (g : Gn) (src cls : Nat) : Gn := if cls = 2 ∧ src < 112 then g.exportLost src else g

/-- A damaged frame is discarded, counted and recorded (R196). -/
def Gn.badFrame (g : Gn) (p : Nat) : Gn :=
  let r := (g.port p).rx
  let g := ((g.dropRx p).inc (F.lkErr_rxBad p)).record prodLinks 0x0901 3 p 0 0 0 0
  if 34 ≤ p then g.tapDamage r
  else match r with
    | some x => g.classLost (bits (u64 x.b 8) 24 8) x.cls
    | none => g

/-- The flits up to the next first one belong to a frame already discarded (R196). -/
def Gn.skipRest (g : Gn) (p : Nat) : Gn :=
  g.setPort p { g.port p with rx := some { stamp := 0, ht := 0, ok := false, beads := 0, cls := 0, b := [], last := false } }

/-- A flit that fails a check: the frame it belongs to is discarded, unless it is discarded already. -/
def Gn.badFlit (g : Gn) (p : Nat) : Gn :=
  match (g.port p).rx with
  | none => (g.badFrame p).skipRest p
  | some r => if r.ok then (g.badFrame p).skipRest p else g

/-! ### Channel state (R175) -/

/-- The link a frame arrived on: the die route of its source, or the port. -/
def rxLink (p src : Nat) : LinkRef := if src < 112 then .site src else .port p

/-- OR a cause into the mask kept for a link. -/
def orCause (l : List (Nat × Nat)) (k m : Nat) : List (Nat × Nat) :=
  if l.any (fun e => e.1 == k) then l.map (fun e => if e.1 = k then (e.1, e.2 ||| m) else e) else l ++ [(k, m)]

/-- An incoming link is in a sitting's scope: a die route, a child's primary port, the parent's port when the request came from it (R171, R173). -/
def Gn.inScope (g : Gn) (x : Sit) : LinkRef → Bool
  | .port p => g.portUse p == 2 || (g.portUse p == 4 && x.hdr.isNone)
  | .site s => g.siteMapped s

/-- A link has been marked CHAN_OVF. -/
def Sit.overran (x : Sit) (l : LinkRef) : Bool := x.dieCause.any (fun e => e.1 == linkCode l && e.2.testBit 4)

/-- A frame stamped before T that arrives before the marker while the sitting is FROZEN is kept, up to 16 MiB per sitting; from the frame that would pass
the limit on, nothing more of its link is. -/
def Gn.chanState (g : Gn) (l : LinkRef) (stamp : Nat) (raw : List Byte) : Gn :=
  let t := extStamp g.now stamp
  let upd := fun x : Sit =>
    if x.st = .frozen && g.inScope x l && !x.closed.contains l && decide (t < x.t) && !x.overran l then
      if x.chanBytes + raw.length ≤ 2 ^ 24 then { x with chan := x.chan ++ [(linkCode l, raw)] }
      else { x with dieCause := orCause x.dieCause (linkCode l) 16 }
    else x
  { g with sits := g.sits.map upd }

/-! ### Items (R189, R195 steps 5 to 8) -/

/-- Gaps lose items (R189, R196): the counter, and one record. -/
def Gn.gap (g : Gn) (p src n : Nat) : Gn :=
  if n = 0 then g
  else
    let g := match g.polSource p src with | some s => g.addSat (F.lkSrc_seqGap s) n | none => g
    g.recordSrc 0x0903 2 ((g.polSource p src).getD (256 + p))

/-- Hand a whole item on, or hold it for a decompressor (R195 steps 6 to 8). What it holds acts through the command of its type. A weight frame keeps its
place in the tap's buffer until its capture (R193). -/
def Gn.itemDone (g : Gn) (p : Nat) (a : Asm) : Gn :=
  if a.z then
    let x := g.port p
    g.setPort p { x with heldZ := x.heldZ ++ [a] }
  else (g.oweCredit p a.cls a.beads).emitOut (.item p a.src a.typ a.ht a.b)

/-- A frame continues the item being reassembled. -/
def Asm.next (a : Asm) (f : RxFrame) : Bool := f.seg == a.segs && a.z == f.z && a.typ == f.typ && a.stamp == f.stamp

/-- Reassembly of one frame. A gap in `seq` or `seg`, or a segment with another stamp, discards the item and counts it once; its further segments are passed
over. -/
def Gn.assemble (g : Gn) (p : Nat) (f : RxFrame) (ht : Nat) : Gn :=
  let x := g.port p
  let beads := f.nbead + 1
  let mine := fun a : Asm => a.src == f.src && a.cls == f.cls
  let want := x.expSeq.find? (fun e => e.1 == f.src && e.2.1 == f.cls)
  let seqBad := f.cls != 0 && (match want with | none => false | some e => e.2.2 != f.seq)
  let exp := x.expSeq.filter (fun e => !(e.1 == f.src && e.2.1 == f.cls)) ++ [(f.src, f.cls, (f.seq + 1) % 2 ^ 16)]
  let part := x.asm.find? mine
  let fresh : Asm := { src := f.src, cls := f.cls, typ := f.typ, z := f.z, stamp := f.stamp, ht := ht, lost := false, segs := 1, beads := beads, b := f.body }
  let g := g.setPort p { x with expSeq := exp, asm := x.asm.filter (fun a => !mine a) }
  let lose := fun (g : Gn) (n : Nat) => if n = 0 then g else (g.gap p f.src n).classLost f.src f.cls
  let keep := fun (g : Gn) (a : Asm) => (let y := g.port p
                                         g.setPort p { y with asm := y.asm ++ [a] })
  let start := fun (g : Gn) => if f.more then keep g fresh else g.itemDone p fresh
  let pass := fun (g : Gn) =>
    let g := g.oweCredit p f.cls beads
    if f.more then keep g { fresh with lost := true, segs := f.seg + 1, beads := 0, b := [] } else g
  match part with
  | none => if f.seg = 0 then start (lose g (b2n seqBad)) else pass (lose g 1)
  | some a =>
    if !seqBad && a.next f then
      if a.lost then pass g
      else
        let a := { a with segs := a.segs + 1, beads := a.beads + beads, b := a.b ++ f.body }
        if f.more then keep g a else g.itemDone p a
    else
      let g := if a.lost then g else g.oweCredit p a.cls a.beads
      let same := a.typ == f.typ && a.stamp == f.stamp
      if f.seg = 0 then start (lose g (b2n (!a.lost))) else pass (lose g (b2n (!a.lost) + b2n (!same)))

/-- A weight frame is one segment with a subheader and 1 to 4,060 weight bytes (R194). -/
def weightFrameOk (f : RxFrame) : Bool := !f.more && !f.z && f.seg == 0 && decide (17 ≤ f.body.length)

/-- FRAME_RECEIVE (R195 steps 3 to 6), for the frame whose last flit has come. -/
def Gn.frameReceive (g : Gn) (p : Nat) : Gn :=
  if !g.alive || !g.portRx p then g else
  match (g.port p).rx with
  | none => g
  | some r =>
    let f := parseFrame r.b
    if !r.last then g
    else if !r.ok then g.dropRx p
    else if !frameOk r.b f || !headerFits r f || (f.typ == 0x40 && g.portUse p == 6 && !weightFrameOk f) then g.badFrame p
    else
      let bad := (g.dropRx p).inc (F.lkErr_typeBad p)
      if proofKind f.typ && (g.portUse p == 2 || g.portUse p == 3 || g.portUse p == useTc2) then bad.record prodLinks (Config.recCode 20).toNat 3 p f.typ 0 0 0
      else if !g.typeOn p f.typ || !clsOk (decide (f.src < 112)) f.typ f.cls || !g.srcOn p f.src f.typ then
        (if f.typ == 0x40 && g.portUse p == 6 then bad.tapDamage (some r) else bad)
      else
        let x := g.port p
        let dup := f.cls = 0 && decide (p < 34) && f.typ != 0x01
        let g := if f.typ = 0x40 then ((g.setPort p { x with rx := none }).addWrap F.lkTap_tapFrames 1).count 7 0
          else if 34 ≤ p then g.dropRx p else g.setPort p { x with rx := none }
        let g := g.count 8 p
        let go := fun (g : Gn) => (g.chanState (rxLink p f.src) f.stamp r.b).assemble p f (if 34 ≤ p then r.ht else extStamp g.now f.stamp)
        if dup then
          let y := g.port p
          if y.seen0.contains (f.src, f.seq) then (g.setPort p { y with acks := y.acks ++ [(f.src, f.seq)] }).oweCredit p 0 r.beads
          else go (g.setPort p { y with acks := y.acks ++ [(f.src, f.seq)], seen0 := ((f.src, f.seq) :: y.seen0).take 128 })
        else go g

/-! ### Flits (R186, R195 steps 1 and 2) -/

/-- A tap frame's place in the 1 MiB receive buffer (R193). -/
def Gn.tapAdmit (g : Gn) (bytes : Nat) : Gn × Bool :=
  if g.lk.tapFill + bytes ≤ 2 ^ 20 then ({ g with lk := { g.lk with tapFill := g.lk.tapFill + bytes } }, true)
  else (({ g with lk := { g.lk with tapDrops := g.lk.tapDrops + 1 } } : Gn).inc F.lkTap_tapOvf, false)

/-- A frame's first flit is policed; its header is in its first bead. In Deep idle frames of classes 1 to 3 are discarded and counted (R310). -/
def Gn.firstFlit (g : Gn) (p stamp cls : Nat) (b : List Byte) (last : Bool) : Gn :=
  let hi := u64 b 8
  let beads := bits hi 0 6 + 1
  let (g, ok) :=
    if g.rg F.pwState_pstate = 2 ∧ cls ≠ 0 then (g.inc F.pwState_dipDrop, false)
    else if 34 ≤ p then g.tapAdmit (beads * 64)
    else g.police p (bits hi 24 8) cls beads
  let g := if ok then g else g.oweCredit p cls beads
  g.setPort p { g.port p with rx := some { stamp := stamp, ht := g.now, ok := ok, beads := beads, cls := cls, b := b, last := last } }

/-- FLIT_RECEIVE (R186, R195 steps 1 and 2): the codewords that carried the flit, corrected and uncorrectable; its tag; its beads. Damage discards the frame up to the
next first flit, and a frame that another one cuts short is damaged. A whole frame that waits goes through its steps first. -/
def Gn.flitReceive (g : Gn) (p : Nat) (tag : Word) (b : List Byte) (ce ue : Nat) : Gn :=
  if !g.alive || !g.portRx p then g else
  let g := (g.addWrap (F.lkErr_fecCe p) ce).addSat (F.lkErr_fecUe p) ue
  let w := tag.toNat
  let stamp := bits w 0 48
  let nb := bits w 48 4 + 1
  let sof := bit w 52
  let eof := bit w 53
  let cls := bits w 54 2
  let g := match (g.port p).rx with
    | none => g
    | some r => if r.last then g.frameReceive p else g
  if 0 < ue ∨ crc8 (leBytes 7 w) ≠ bits w 56 8 ∨ b.length ≠ 64 * nb then g.badFlit p
  else if sof then
    let g := match (g.port p).rx with
      | none => g
      | some r => if r.ok then g.badFrame p else g
    g.firstFlit p stamp cls b eof
  else match (g.port p).rx with
    | none => g.badFlit p
    | some r =>
      let y := r.b ++ b
      if r.ok then
        if r.stamp ≠ stamp ∨ 4096 < y.length then (if eof then g.badFrame p else g.badFlit p)
        else g.setPort p { g.port p with rx := some { r with b := y, last := eof } }
      else g.setPort p { g.port p with rx := if eof then none else some r }

def execFlitReceive (p : Nat) (tag : Word) (b : List Byte) (ce ue : Nat) (s : State) : Host.Outcome State Fault Refusal :=
  gnStep s (fun g => g.flitReceive p tag b ce ue)

/-! ### Decompression (R195 step 7, R204) -/

/-- DECOMPRESS_DONE for the oldest compressed item of a source and class (R196, R204): its content goes on, or it is rejected. -/
def Gn.decompressDone (g : Gn) (p src cls : Nat) : Gn :=
  let x := g.port p
  match x.heldZ.find? (fun a => a.src == src && a.cls == cls) with
  | none => g
  | some a =>
    let z := zRead a.b
    let g := (g.setPort p { x with heldZ := removeFirst (fun b => b.src == src && b.cls == cls) x.heldZ }).oweCredit p a.cls a.beads
    let g := g.addSat F.lkZ_zSkip z.skips
    match z.out with
    | some b => g.emitOut (.item p src a.typ a.ht b)
    | none =>
      let g := match g.polSource p src with | some s => g.inc (F.lkSrc_zBad s) | none => g
      ((g.inc F.lkZ_zRej).recordSrc 0x0902 3 ((g.polSource p src).getD (256 + p))).classLost src a.cls

def execDecompressDone (p src cls : Nat) (s : State) : Host.Outcome State Fault Refusal := gnStep s (fun g => g.decompressDone p src cls)

end Sys2Proof.Machine
end

