-- ==== Sys2Proof/Machine/Reduce.lean ====
section
/-! DEFINITION. Reduction across the hall (chapter 10, first half): series merges, rods, emission, the aggregate store, saturation, decimation and
report paths. -/

namespace Sys2Proof

open Sys2Proof.Machine


/-! ### Series (R216 to R218) -/

/-- Merge two ascending bucket lists, adding counts that saturate; the flag: one saturated. -/
def addBucket (acc : List (Nat × Nat) × Bool) (b : Nat × Nat) : List (Nat × Nat) × Bool :=
  let have_ := (acc.1.find? (fun e => e.1 == b.1)).map (·.2)
  let v := have_.getD 0 + b.2
  let sat := decide (2 ^ 32 - 1 < v)
  let m := SMap.ins (acc.1.filter (fun e => e.1 != b.1)) b.1 (min v (2 ^ 32 - 1))
  (m, acc.2 || sat)

/-- Merge of two sketches (R217). -/
def Sketch.merge (a b : Sketch) : Sketch :=
  let m := b.buckets.foldl addBucket (a.buckets, a.sat || b.sat)
  { n := a.n + b.n, sum := (a.sum + b.sum) % 2 ^ 128,
    min := if a.n = 0 then b.min else if b.n = 0 then a.min else Nat.min a.min b.min,
    max := if a.n = 0 then b.max else if b.n = 0 then a.max else Nat.max a.max b.max,
    sat := m.2, buckets := m.1 }

/-- Bucket of a value (R217). -/
def sketchBucket (x : Nat) : Nat :=
  if x = 0 then 0
  else
    let e := msb x
    let sub := if 5 ≤ e then (x >>> (e - 5)) % 32 else (x <<< (5 - e)) % 32
    32 * e + sub

/-- Lower edge of a bucket (R217). -/
def lowerEdge (i : Nat) : Nat :=
  if i = 0 then 0
  else
    let e := i / 32
    let s := 32 + i % 32
    if 5 ≤ e then s <<< (e - 5) else s >>> (5 - e)

def Sketch.empty : Sketch := { n := 0, sum := 0, min := 0, max := 0, sat := false, buckets := [] }

/-- Count one value. -/
def Sketch.count (s : Sketch) (x : Nat) : Sketch :=
  s.merge { n := 1, sum := x, min := x, max := x, sat := false, buckets := [(sketchBucket x, 1)] }

/-- Lowest bucket at which the cumulative count reaches `target`. -/
def reachBucket (target : Nat) : Nat → List (Nat × Nat) → Nat
  | _, [] => 0
  | acc, b :: bs => if target ≤ acc + b.2 then b.1 else reachBucket target (acc + b.2) bs

/-- Bucket of the quantile num / den; the manual defines it for n > 0. -/
def Sketch.qBucket (s : Sketch) (num den : Nat) : Nat :=
  let target := ceilDiv (num * s.n) den
  if target = 0 then 0 else reachBucket target 0 s.buckets

/-- The quantile: lower edge clamped to [min, max]. -/
def Sketch.quantile (s : Sketch) (num den : Nat) : Nat := Nat.max s.min (Nat.min s.max (lowerEdge (s.qBucket num den)))

/-- Order of R218: value descending, rank ascending, aux ascending. -/
def topLe (a b : TopEnt) : Bool :=
  if a.val ≠ b.val then decide (b.val < a.val) else if a.rank ≠ b.rank then decide (a.rank < b.rank) else decide (a.aux ≤ b.aux)

/-- Merge of two top-k lists. -/
def topMerge (ka : Nat) (a : List TopEnt) (kb : Nat) (b : List TopEnt) : Nat × List TopEnt :=
  (min ka kb, ((a ++ b).mergeSort topLe).take (min ka kb))

/-- Kind of a series. -/
def Series.kind : Series → Nat
  | .cum _ => 0
  | .sum _ => 1
  | .sketch _ => 2
  | .topk _ _ => 3

/-- Merge of one window's contributions, or across a span when `span` (the second argument the later window). -/
def Series.merge (span : Bool) : Series → Series → Series
  | .cum a, .cum b => if span then .cum b else .cum ((a + b) % 2 ^ 64)
  | .sum a, .sum b => .sum ((a + b) % 2 ^ 128)
  | .sketch a, .sketch b => .sketch (a.merge b)
  | .topk ka a, .topk kb b => let r := topMerge ka a kb b
                              .topk r.1 r.2
  | a, _ => a

/-- Merge of two series lists by identifier, ascending. -/
def mergeLists (span : Bool) (a b : List (Nat × Series)) : List (Nat × Series) :=
  b.foldl (fun acc s => match acc.find? (fun e => e.1 == s.1) with
    | some x => acc.map (fun e => if e.1 = s.1 then (e.1, x.2.merge span s.2) else e)
    | none => SMap.ins acc s.1 s.2) a

/-- Bytes of a series payload with its directory entry. -/
def seriesBytes (s : Series) : Nat :=
  8 + match s with
    | .cum _ => 8
    | .sum _ => 16
    | .sketch x => 48 + (if x.buckets.length < 1024 then 8 * x.buckets.length else 8192)
    | .topk _ es => 8 + 16 * es.length

/-- Item length of a summary. -/
def itemBytes (ss : List (Nat × Series)) : Nat := 64 + (ss.map (fun s => seriesBytes s.2)).sum

/-- OR of the `stretch` and `hold` bits with the largest `unc`. -/
def tqMerge (a b : Nat) : Nat := (a % 4 ||| b % 4) + 4 * max (bits a 2 3) (bits b 2 3)

/-- Merge of two summaries of one part: header counts add, flags and `tq` combine (R219). -/
def Summary.merge (span : Bool) (a b : Summary) : Summary :=
  let ss := mergeLists span a.series b.series
  { a with win := min a.win b.win, decim := max a.decim b.decim, epChg := a.epChg || b.epChg, short := a.short || b.short,
           tq := tqMerge a.tq b.tq, dies := a.dies + b.dies, stale := a.stale + b.stale, bndUnc := a.bndUnc + b.bndUnc,
           latePrior := a.latePrior + b.latePrior, replay := a.replay + b.replay, contrib := a.contrib + b.contrib,
           bytes := itemBytes ss, nparts := max a.nparts b.nparts, series := ss }

/-! ### Rods (R220, R221, R226) -/

/-- Length of a summary's span in ns. A short window that is not decimated ends at the next multiple of the stream's length (R170). -/
def Summary.span (x : Summary) : Nat :=
  let len := x.lenUs * 1000
  if x.decim = 0 && x.short && len != 0 then len - x.win % len else len * 2 ^ x.decim

/-- The span of `b` lies in that of `a`. -/
def Summary.covers (a b : Summary) : Bool := decide (a.win ≤ b.win) && decide (b.win + b.span ≤ a.win + a.span)

/-- Same stream, epoch and part. -/
def Summary.samePart (a b : Summary) : Bool := a.stream == b.stream && a.epoch == b.epoch && a.part == b.part

/-- The summary's span takes in a window that starts at `w`. -/
def Summary.hasWin (y : Summary) (stream w : Nat) : Bool := y.stream == stream && decide (y.win ≤ w) && decide (w < y.win + y.span)

/-- Two contributions to one stream and epoch whose spans meet. -/
def Summary.sameSpan (a b : Summary) : Bool := a.stream == b.stream && a.epoch == b.epoch && (a.covers b || b.covers a)

/-- Two contributions to one part whose spans meet. -/
def Summary.meets (a b : Summary) : Bool := a.sameSpan b && a.part == b.part

/-- Where a summary's span ends. -/
def Summary.stop (x : Summary) : Nat := x.win + x.span

/-- Contributions that end with one window merged, then across windows (R216, R219): a decimated contribution counts with the last window of its span. -/
def mergeEnds (xs : List Summary) : Option Summary :=
  let one := fun (l : List Summary) => match l with | [] => none | c :: rest => some (rest.foldl (fun a b => a.merge false b) c)
  let ends := ((xs.map Summary.stop).eraseDups).mergeSort (fun a b => decide (a ≤ b))
  match ends.filterMap (fun e => one (xs.filter (fun x => x.stop == e))) with
  | [] => none
  | c :: rest => some (rest.foldl (fun a b => a.merge true b) c)

/-- The larger of two spans that meet. -/
def Summary.wider (a b : Summary) : Summary := if a.covers b then a else b

end Sys2Proof

namespace Sys2Proof.Machine

def Gn.onRd (g : Gn) (f : RdSt → RdSt) : Gn := { g with rd := f g.rd }

/-- Bytes waiting in the reduction area. -/
def Gn.area (g : Gn) : Nat := (g.rd.queued.map (fun c => c.2.2.bytes)).sum

/-- Beads of an item: those of its segments (R187, R189). -/
def itemBeads (bytes : Nat) : Nat := ((List.range (max 1 (ceilDiv bytes 4076))).map (fun i => ceilDiv (20 + min 4076 (bytes - 4076 * i)) 64)).sum

/-- A sketch's payload (R217): sparse exactly when fewer than 1,024 buckets are not zero. -/
def sketchPayload (x : Sketch) : List Byte :=
  let bs := x.buckets.filter (fun b => b.2 != 0)
  let sparse := decide (bs.length < 1024)
  leBytes 8 x.n ++ leBytes 16 x.sum ++ leBytes 8 x.min ++ leBytes 8 x.max ++ leBytes 2 bs.length ++ leBytes 1 (b2n sparse) ++ leBytes 5 (b2n x.sat)
    ++ (if sparse then bs.flatMap (fun b => leBytes 4 b.1 ++ leBytes 4 b.2)
        else (List.range 2048).flatMap (fun i => leBytes 4 (match bs.find? (fun b => b.1 == i) with | some b => b.2 | none => 0)))

/-- The payload of a series (R216 to R218). -/
def seriesPayload : Series → List Byte
  | .cum v => leBytes 8 v
  | .sum v => leBytes 16 v
  | .sketch x => sketchPayload x
  | .topk k es => leBytes 1 k ++ leBytes 7 es.length ++ es.flatMap (fun e => leBytes 8 e.val ++ leBytes 4 e.rank ++ leBytes 4 e.aux)

/-- The series directory and the payloads, `off` counted from the start of the header (R216). -/
def seriesArea (ss : List (Nat × Series)) : List Byte :=
  let ps := ss.map (fun s => seriesPayload s.2)
  let dir := ss.zipIdx.flatMap (fun e =>
    leBytes 2 e.1.1 ++ leBytes 2 e.1.2.kind ++ leBytes 4 (64 + 8 * ss.length + ((ps.take e.2).map (·.length)).sum))
  dir ++ ps.flatten

/-- A summary item: the 64-byte header with its CRC, directory, payloads (R215). -/
def summaryBytes (x : Summary) : List Byte :=
  let flags := b2n x.epChg + 2 * b2n x.short + 4 * b2n x.partialF + 8 * b2n x.lateF + 16 * b2n x.foster
  let area := seriesArea x.series
  let h := leBytes 8 x.win ++ leBytes 4 x.lenUs ++ leBytes 4 x.epoch ++ leBytes 1 x.stream ++ leBytes 1 flags ++ leBytes 1 x.decim
    ++ leBytes 1 (x.tq % 32 + 32 * x.level) ++ leBytes 2 x.origin ++ leBytes 2 x.series.length ++ leBytes 4 x.dies ++ leBytes 4 x.diesExp
    ++ leBytes 4 x.stale ++ leBytes 4 x.bndUnc ++ leBytes 4 x.latePrior ++ leBytes 4 x.replay ++ leBytes 4 (64 + area.length) ++ leBytes 2 x.part
    ++ leBytes 2 x.nparts ++ leBytes 4 x.contrib
  h ++ leBytes 4 (crc32c h) ++ area

/-- Series in ascending order cut into parts of at most 1,043,456 bytes and 4,096 series, each filled before the next is started (R215). -/
def cutParts : List (Nat × Series) → List (Nat × Series) → List (List (Nat × Series))
  | cur, [] => [cur]
  | cur, s :: rest =>
    if cur.isEmpty || (decide (itemBytes (cur ++ [s]) ≤ 1043456) && decide (cur.length < 4096)) then cutParts (cur ++ [s]) rest
    else cur :: cutParts [s] rest

/-- The parts of a summary as its builder makes them. -/
def summaryParts (x : Summary) : List Summary :=
  let ps := cutParts [] x.series
  ps.zipIdx.map (fun e => { x with series := e.1, bytes := itemBytes e.1, part := e.2, nparts := ps.length })

/-- Send a summary item on the report path; with both ports lost it is held (R228). -/
def Gn.sendItem (g : Gn) (typ : Nat) (x : Summary) : Gn :=
  match g.reportPort with
  | some p => g.sendBytes p typ (ginathClass typ) (summaryBytes (if typ = 0x30 then { x with foster := g.rg F.rdStat_path == 1 } else x))
  | none => g.holdReport (.item typ x)

/-- The items that carry one summary upward: one, unless a merge has outgrown an item (R206, R215). Then its series are cut as a builder cuts them; piece `i` of part
`p` of `n` is part `p + n i` (DESIGN CHOICE, assumption log 42: the manual numbers no piece of a merged part). -/
def itemPieces (x : Summary) : List Summary :=
  if itemBytes x.series ≤ 1043456 && x.series.length ≤ 4096 then [x]
  else
    let ps := cutParts [] x.series
    ps.zipIdx.map (fun e => { x with series := e.1, bytes := itemBytes e.1, part := x.part + x.nparts * e.2, nparts := x.nparts * ps.length })

/-- Dies mapped in the node's primary subtree. -/
def Gn.diesExp (g : Gn) : Nat :=
  if g.isTray then g.sites.length
  else (g.rd.ranks.filter (fun e => let r := bits e.2.toNat 0 8; decide (r < 32) && g.portUse r == 2)).length

/-- The aggregate store, a ring beyond the reduction area: the oldest leave while it does not hold all (R222). -/
def Gn.keepStore (g : Gn) (x : Summary) : Gn :=
  let all := g.rd.store ++ [⟨x, false⟩]
  let fits := fun (l : List Stored) => decide ((l.map (·.x.bytes)).sum ≤ 32 * 2 ^ 30 - 256 * 2 ^ 20)
  let n := ((List.range (all.length + 1)).find? (fun n => fits (all.drop n))).getD all.length
  g.onRd (fun d => { d with store := all.drop n })

/-- Emit a summary of this node (R221, R222, R237): builder's fields, the store, the report, and at the root the health unit. A part
of a window that has had its run is late evidence there (R249). -/
def Gn.finalEmit (g : Gn) (x : Summary) : Gn :=
  let x := { x with level := g.rg F.rdCfg_level, origin := g.node, foster := g.rg F.rdStat_path == 1, partialF := false, lateF := false,
                    diesExp := g.diesExp, bytes := itemBytes x.series }
  let g := if g.isTray then g else g.keepStore x
  let g := (forEach (itemPieces x) (fun y g => g.sendItem 0x30 y) g).count 9 0
  if g.isTop && x.stream == g.rg F.hlSrch_hstream then
    { g with hl := if g.hl.ran.contains x.win then { g.hl with lateEv := g.hl.lateEv ++ [x] } else { g.hl with ready := g.hl.ready ++ [x] } }
  else g

/-- All contributions of a rod merged exactly, under its bounds. -/
def Rod.merged (r : Rod) : Summary :=
  match mergeEnds (r.cs.map (·.2.2)) with
  | none => r.x
  | some y => { y with win := r.x.win, decim := r.x.decim, part := r.x.part }

/-- What a manager advertises to each child (R224). -/
def Gn.advert (g : Gn) : Nat × Nat :=
  let free := 256 * 2 ^ 20 - g.area
  let u := max 1 ((g.childPorts.filter g.portUp).length)
  (if g.flag F.rdStat_sat then 0 else (free - 64 * 2 ^ 20) / (64 * u), g.rg F.rdStat_decim)

/-- A reduction-control frame to each child. -/
def Gn.sendControl (g : Gn) : Gn :=
  let a := g.advert
  let g := g.onRd (fun d => { d with childCtl := a })
  forEach g.childPorts (fun p g => g.sendPort p 0x33 (leBytes 4 a.1 ++ leBytes 4 (a.2 % 256))) g

/-- An advertisement that has changed goes out at once (R224). -/
def Gn.advertise (g : Gn) : Gn := if !g.alive || g.isTray || g.advert == g.rd.childCtl then g else g.sendControl

/-- One decimation step down at a span end when the area has drained (R226). -/
def Gn.setDecim (g : Gn) (j : Nat) : Gn :=
  if j = g.rg F.rdStat_decim then g else ((g.wr F.rdStat_decim j).record prodSeq 0x0A04 3 0 j 0 0 0).advertise

/-- A span of a stream has ended: one step down at most for each span end, whatever parts and epochs the span has. -/
def Gn.spanEnd (g : Gn) (x : Summary) : Gn :=
  if g.rd.ended.any (fun e => e.1 == x.stream && decide (x.stop ≤ e.2)) then g
  else
    let g := g.onRd (fun d => { d with ended := d.ended.filter (fun e => e.1 != x.stream) ++ [(x.stream, x.stop)] })
    if g.area ≤ 128 * 2 ^ 20 then g.setDecim (g.rg F.rdStat_decim - 1) else g

/-- A contribution to a stream and epoch that starts before `t` still stands in a rod or waits. -/
def Gn.expects (g : Gn) (stream epoch t : Nat) : Bool :=
  (g.rd.rods.map (·.x) ++ g.rd.queued.map (·.2.2)).any (fun y => y.stream == stream && y.epoch == epoch && decide (y.win < t))

/-- The window `x` of own output ends the span of `r`: it is the last window of that span in its part (or in a summary of fewer parts) and in its epoch, or of a
later epoch when nothing of the span's own is left to come, or it starts beyond the span. -/
def Gn.endsSpan (g : Gn) (x : Summary) (r : Rod) : Bool :=
  let part := r.x.part == x.part || (x.part + 1 == x.nparts && decide (x.part < r.x.part))
  let epoch := r.x.epoch == x.epoch || (decide (r.x.epoch < x.epoch) && !g.expects x.stream r.x.epoch x.stop)
  r.x.stream == x.stream && (decide (r.x.stop ≤ x.win) || (decide (r.x.stop ≤ x.stop) && part && epoch))

/-- Spans of own output that the window `x` ends go out. -/
def Gn.flushSpans (g : Gn) (x : Summary) : Gn :=
  let done := g.rd.spans.filter (g.endsSpan x)
  let g := g.onRd (fun r => { r with spans := r.spans.filter (fun y => !done.contains y) })
  forEach done (fun r g => (g.finalEmit r.merged).spanEnd r.x) g

/-- The lowest-numbered free rod; spans of own output hold rods too (R220, R226). -/
def Gn.freeRod (g : Gn) : Option Nat := (List.range 32).find? (fun n => (g.rd.rods ++ g.rd.spans).all (fun r => r.no != n))

/-- Rods in the order of their numbers. -/
def putRod (l : List Rod) (r : Rod) : List Rod := l.filter (fun y => decide (y.no < r.no)) ++ r :: l.filter (fun y => decide (r.no ≤ y.no))

/-- A window of own output joins a span. A span that has begun in another epoch is split, and the later part carries the epoch-change flag (R20, R226). With no
rod free the window goes out as it is (DESIGN CHOICE, assumption log 42). -/
def Gn.joinSpan (g : Gn) (x : Summary) (win decim : Nat) : Gn :=
  let here := fun (r : Rod) => r.x.stream == x.stream && r.x.win == win && r.x.decim == decim
  let x := if g.rd.spans.any (fun r => here r && r.x.epoch != x.epoch) then { x with epChg := true } else x
  let same := fun (r : Rod) => here r && r.x.samePart x
  if g.rd.spans.any same then g.onRd (fun d => { d with spans := d.spans.map (fun r => if same r then { r with cs := r.cs ++ [(0, true, x)] } else r) })
  else match g.freeRod with
    | none => (g.finalEmit x).spanEnd x
    | some n => g.onRd (fun d => { d with spans := d.spans ++ [{ no := n, x := { x with win := win, decim := decim }, cs := [(0, true, x)] }] })

/-- A summary of the node's own output: sent as it is, or coalesced into a span of 2^max(own j, ordered j) windows from the next boundary aligned
to that size (R226). A span in progress takes every window inside it, of either epoch. -/
def Gn.ownOutput (g : Gn) (x : Summary) : Gn :=
  let j := max (g.rg F.rdStat_decim) g.rd.ordered
  let g := match g.rd.spans.find? (fun r => r.x.stream == x.stream && r.x.covers x) with
    | some r => g.joinSpan x r.x.win r.x.decim
    | none => if x.decim < j && x.win % (x.lenUs * 1000 * 2 ^ j) == 0 then g.joinSpan x x.win j else (g.finalEmit x).spanEnd x
  g.flushSpans x

/-- A foster child has reported through this node in the span of a rod. -/
def Gn.reportedIn (g : Gn) (r : Rod) (p : Nat) : Bool :=
  g.rd.rods.any (fun y => y.x.sameSpan r.x && y.cs.any (fun c => c.1 == p)) ||
    g.rd.closed.any (fun c => c.port == p && c.stream == r.x.stream && c.epoch == r.x.epoch && decide (c.win < r.x.stop) && decide (r.x.win < c.stop))

/-- Children whose own summaries are awaited for a rod: primary ports in UP, and foster children that have reported in its span. -/
def Gn.awaited (g : Gn) (r : Rod) : List Nat := (g.portsOf 2).filter g.portUp ++ (g.portsOf 3).filter (g.reportedIn r)

/-- Windows of a rod's span for which a child has delivered its own summary: its part, merged here or sent on unreduced, or a complete summary of fewer parts. -/
def Gn.delivered (g : Gn) (r : Rod) (p : Nat) : Nat :=
  let here := (r.cs.filter (fun c => c.1 == p && c.2.1)).map (fun c => 2 ^ c.2.2.decim)
  let fewer := g.rd.closed.filter (fun c => c.port == p && c.stream == r.x.stream && c.epoch == r.x.epoch &&
    (match c.only with | some q => q == r.x.part | none => decide (c.nparts ≤ r.x.part)) && decide (r.x.win ≤ c.win) && decide (c.stop ≤ r.x.stop))
  here.sum + (fewer.map (fun c => 2 ^ c.decim)).sum

/-- Every awaited child has delivered its own summary of the whole span (R221). -/
def Gn.rodReady (g : Gn) (r : Rod) : Bool := (g.awaited r).all (fun p => decide (2 ^ r.x.decim ≤ g.delivered r p))

/-- A child's own summary is delivered: complete, when its last part has come, or (`only`) one part that was sent on unreduced. Entries go once `wait_us` after
their span has passed. -/
def Gn.noteClosed (g : Gn) (p : Nat) (only : Option Nat) (x : Summary) : Gn :=
  let c : Closed := { port := p, only := only, stream := x.stream, epoch := x.epoch, win := x.win, stop := x.stop, decim := x.decim, nparts := x.nparts }
  let live := g.rd.closed.filter (fun c => decide (g.now < c.stop + g.rg F.rdCfg_waitUs * 1000))
  g.onRd (fun d => { d with closed := if only.isSome || x.part + 1 == x.nparts then live ++ [c] else live })

/-- Kinds agree with the first contribution; else the identifier that differs (R216). -/
def kindClash (first x : Summary) : Option Nat :=
  (x.series.find? (fun s => match first.series.find? (fun t => t.1 == s.1) with
      | some t => t.2.kind != s.2.kind
      | none => false)).map (·.1)

/-- A contribution rejected whole for the kind of a series: 0x0A0A names the series and the sender (R216). -/
def Gn.rejectKind (g : Gn) (p sid : Nat) (x : Summary) : Gn := g.record prodSeq 0x0A0A 3 p sid x.origin 0 0

/-- Put a contribution into a rod whose span it meets, or into the lowest-numbered free one; the rods of its span become one. False: no rod is free. -/
def Gn.intoRod (g : Gn) (p : Nat) (own : Bool) (x : Summary) : Gn × Bool :=
  let hit := g.rd.rods.filter (fun r => r.x.meets x)
  match hit with
  | [] => match g.freeRod with
    | none => (g, false)
    | some n => (g.onRd (fun d => { d with rods := putRod d.rods { no := n, x := x, cs := [(p, own, x)] } }), true)
  | r :: _ => match (r.cs.head?).bind (fun c => kindClash c.2.2 x) with
    | some sid => (g.rejectKind p sid x, true)
    | none =>
      let one : Rod := { no := r.no, x := hit.foldl (fun b y => b.wider y.x) x, cs := hit.flatMap (·.cs) ++ [(p, own, x)] }
      (g.onRd (fun d => { d with rods := putRod (d.rods.filter (fun y => !hit.contains y)) one }), true)

/-- Saturation follows the area (R224). -/
def Gn.checkSat (g : Gn) : Gn :=
  if !g.flag F.rdStat_sat && decide (192 * 2 ^ 20 ≤ g.area) then (g.put F.rdStat_sat true).record prodSeq 0x0A03 3 0 1 0 0 0
  else if g.flag F.rdStat_sat && decide (g.area ≤ 128 * 2 ^ 20) then (g.put F.rdStat_sat false).record prodSeq 0x0A03 2 0 0 0 0 0
  else g

/-- A manager forwards its oldest queued contributions unreduced while it is saturated and has credit (R225); `n` bounds them. A child's own summary sent on so counts as
delivered (R221). -/
def Gn.passThrough (g : Gn) : Nat → Gn
  | 0 => g
  | n + 1 =>
    match g.rd.queued with
    | [] => g
    | c :: rest =>
      let beads := itemBeads c.2.2.bytes
      let credit := g.rg F.rdStat_ptBeads
      if g.flag F.rdStat_sat && !g.isTray && decide (beads ≤ credit) && g.reportPort.isSome then
        let g := (g.onRd (fun d => { d with queued := rest })).wr F.rdStat_ptBeads (credit - beads)
        let g := if c.2.1 then g.noteClosed c.1 (some c.2.2.part) c.2.2 else g
        ((g.sendItem 0x32 { c.2.2 with partialF := true }).inc F.rdCnt_ptSent).checkSat.passThrough n
      else g

/-- Queued contributions take the rods that are free or that hold their part, oldest first, but for those that go on unreduced (R225). -/
def Gn.refill (g : Gn) : Gn :=
  let g := g.passThrough g.rd.queued.length
  let g := forEach g.rd.queued (fun c g =>
    let (g, ok) := g.intoRod c.1 c.2.1 c.2.2
    if ok then g.onRd (fun d => { d with queued := removeFirst (fun y => y == c) d.queued }) else g) g
  g.checkSat

/-- Summaries held for a window: in rods, waiting, in spans of own output, in the store. -/
def Gn.heldFor (g : Gn) (stream w : Nat) : List Summary :=
  (g.rd.rods.map (·.x) ++ g.rd.queued.map (·.2.2) ++ g.rd.spans.flatMap (fun r => r.cs.map (·.2.2)) ++ g.rd.store.map (·.x)).filter
    (fun y => y.hasWin stream w)

/-- Epochs held for a window of a stream. -/
def Gn.epochsOf (g : Gn) (stream w : Nat) : List Nat := ((g.heldFor stream w).map (·.epoch)).eraseDups

/-- The partials of an epoch for a window go, and how many summaries that were: contributions in rods, waiting and in spans of own output, and stored
summaries, those of a span that holds the window among them. -/
def Gn.dropEpoch (g : Gn) (stream w epoch : Nat) : Gn × Nat :=
  let old := fun (y : Summary) => y.epoch == epoch && y.hasWin stream w
  let n := ((g.rd.rods.filter (fun r => old r.x)).map (fun r => r.cs.length)).sum + (g.rd.queued.filter (fun c => old c.2.2)).length
    + ((g.rd.spans.flatMap (·.cs)).filter (fun c => old c.2.2)).length + (g.rd.store.filter (fun t => old t.x)).length
  let spans := (g.rd.spans.map (fun r => { r with cs := r.cs.filter (fun c => !old c.2.2) })).filter (fun r => !r.cs.isEmpty)
  (g.onRd (fun d => { d with rods := d.rods.filter (fun r => !old r.x), queued := d.queued.filter (fun c => !old c.2.2), spans := spans,
                             store := d.store.filter (fun t => !old t.x) }), n)

/-- A third epoch for a window (R21): the oldest goes, counted, with a warning. The warning (kind 19) names the window by its start in µs modulo 2^32, in
`source`, and the three epochs in `p0` to `p2`: the manual gives no layout (DESIGN CHOICE, assumption log 12). False: the contribution itself is of the oldest. -/
def Gn.thirdEpoch (g : Gn) (x : Summary) (w : Nat) : Gn × Bool :=
  let es := (g.epochsOf x.stream w).filter (fun e => e != x.epoch)
  if es.length < 2 then (g, true)
  else
    let oldest := es.foldl min x.epoch
    let r := g.dropEpoch x.stream w oldest
    ((r.1.addSat F.rdCnt_epSkew (r.2 + b2n (x.epoch == oldest))).record prodSeq (Config.recCode 19).toNat 3 (w / 1000 % 2 ^ 32) (es.getD 0 0) (es.getD 1 0)
      x.epoch 0, x.epoch != oldest)

/-- The windows a contribution covers, one after the other, under R21. -/
def Gn.skewCheck (g : Gn) (x : Summary) : Gn × Bool :=
  (List.range (2 ^ x.decim)).foldl (fun (a : Gn × Bool) i => let r := a.1.thirdEpoch x (x.win + i * x.lenUs * 1000)
                                                             (r.1, a.2 && r.2)) (g, true)

/-- A contribution whose part has been emitted: merged into the stored copy, or with stored copies of its span into one (R222). -/
def Gn.amend (g : Gn) (hit : List Stored) (x : Summary) : Gn :=
  match hit, mergeEnds (hit.map (·.x) ++ [x]) with
  | s :: _, some m =>
    let b := hit.foldl (fun b y => b.wider y.x) x
    let y : Summary := { m with win := b.win, decim := b.decim, level := s.x.level, origin := s.x.origin, foster := s.x.foster, partialF := s.x.partialF,
                                lateF := s.x.lateF, diesExp := s.x.diesExp }
    g.onRd (fun d => { d with store := d.store.filterMap (fun t => if t = s then some ⟨y, true⟩ else if hit.contains t then none else some t) })
  | _, _ => g

/-- Place a contribution: a late one amends the store and goes on unchanged as a late partial; another takes a rod or waits. -/
def Gn.place (g : Gn) (p : Nat) (own : Bool) (x : Summary) : Gn :=
  match g.rd.store.filter (fun s => s.x.meets x) with
  | s :: rest => match kindClash s.x x with
    | some sid => g.rejectKind p sid x
    | none =>
      let g := g.amend (s :: rest) x
      if g.isTop then
        (if x.stream = g.rg F.hlSrch_hstream then { g with hl := { g.hl with lateEv := g.hl.lateEv ++ [x] } } else g)
      else (g.sendItem 0x31 x).inc F.rdCnt_lateFwd
  | [] =>
    let (g, ok) := g.intoRod p own x
    if ok then g
    else
      let g := (g.onRd (fun d => { d with queued := d.queued ++ [(p, own, x)] })).checkSat
      (g.passThrough g.rd.queued.length).checkSat

/-- A contribution of a child (R21, R220, R222): a third epoch of a window discards the oldest; rods that this frees are taken by what waits. False: the contribution
finds no rod and no room in the 256 MiB of the reduction area, and nothing happens. -/
def Gn.contributeIf (g : Gn) (p : Nat) (own : Bool) (x : Summary) : Gn × Bool :=
  let n := g.onRd (fun d => { d with fosters := if g.portUse p == 3 && !d.fosters.contains p then d.fosters ++ [p] else d.fosters })
  let r := (if own then n.noteClosed p none x else n).skewCheck x
  let n := r.1.refill
  let n := (if r.2 then n.place p own x else n).advertise
  if n.area ≤ 2 ^ 28 then (n, true) else (g, false)

/-- A contribution from a frame: with no room it stays in the port's buffer, and its command comes again (DESIGN CHOICE, assumption log 42). -/
def Gn.contribute (g : Gn) (p : Nat) (own : Bool) (x : Summary) : Gn := (g.contributeIf p own x).1

/-- A parked contribution is delivered when the freeze has ended and there is room; else it stays parked (R173, R220). -/
def Gn.unpark (g : Gn) : Gn :=
  if g.frozen then g
  else forEach g.parked (fun y g => match y with
    | .summary p kind x =>
      let r := g.contributeIf p (kind == 0) x
      if r.2 then { r.1 with parked := removeFirst (fun z => z == y) r.1.parked } else g
    | _ => g) g

/-- Frames of reduction act only at a manager that takes frames, on a child port. -/
def Gn.fromChild (g : Gn) (p : Nat) : Bool := g.takes && !g.isTray && (g.portUse p == 2 || g.portUse p == 3)

/-- SUMMARY_FRAME (R220, R221). -/
def Gn.summary (g : Gn) (p : Nat) (x : Summary) : Gn := if g.frozen then g.park (.summary p 0 x) else g.contribute p true x

def execSummaryFrame (p : Nat) (x : Summary) (s : State) : Host.Outcome State Fault Refusal :=
  gnStep s (fun g => if g.fromChild p then g.summary p x else g)

/-- LATE_PARTIAL_FRAME (R222). -/
def Gn.latePartial (g : Gn) (p : Nat) (x : Summary) : Gn := if g.frozen then g.park (.summary p 1 x) else g.contribute p false x

def execLatePartialFrame (p : Nat) (x : Summary) (s : State) : Host.Outcome State Fault Refusal :=
  gnStep s (fun g => if g.fromChild p then g.latePartial p x else g)

/-- PASS_THROUGH_FRAME (R225). -/
def Gn.passIn (g : Gn) (p : Nat) (x : Summary) : Gn := if g.frozen then g.park (.summary p 2 x) else g.contribute p false x

def execPassThroughFrame (p : Nat) (x : Summary) (s : State) : Host.Outcome State Fault Refusal :=
  gnStep s (fun g => if g.fromChild p then g.passIn p x else g)

/-- Emit one rod. -/
def Gn.emitRod (g : Gn) (r : Rod) : Gn :=
  let g := g.onRd (fun d => { d with rods := removeFirst (fun y => y == r) d.rods })
  (g.ownOutput r.merged).refill.advertise.unpark

/-- SUMMARY_EMIT (R221): the lowest rod whose children have all delivered. -/
def Gn.summaryEmit (g : Gn) : Gn :=
  if !g.alive || g.frozen then g
  else match g.rd.rods.find? g.rodReady with
    | none => g
    | some r => g.emitRod r

def execSummaryEmit (s : State) : Host.Outcome State Fault Refusal := gnStep s Gn.summaryEmit

/-- SUMMARY_WAIT_TIMEOUT (R221): every rod whose span ended `wait_us` ago. -/
def Gn.summaryTimeout (g : Gn) : Gn :=
  if !g.alive || g.frozen then g
  else
    let due := g.rd.rods.filter (fun r => decide (r.x.win + r.x.span + g.rg F.rdCfg_waitUs * 1000 ≤ g.now))
    forEach due (fun r g => if g.rd.rods.contains r then g.emitRod r else g) g

def execSummaryWaitTimeout (s : State) : Host.Outcome State Fault Refusal := gnStep s Gn.summaryTimeout

/-- REDUCTION_CONTROL_TIMER: a reduction-control frame to each child every 100 µs. -/
def Gn.controlTimer (g : Gn) : Gn := if !g.alive || g.isTray then g else g.sendControl

def execReductionControlTimer (s : State) : Host.Outcome State Fault Refusal := gnStep s Gn.controlTimer

/-- REDUCTION_CONTROL_FRAME: the parent's credit and order replace the old ones. -/
def Gn.controlFrame (g : Gn) (pt j : Nat) : Gn :=
  let g := (g.wr F.rdStat_ptBeads pt).onRd (fun d => { d with ordered := min 6 j })
  (g.passThrough g.rd.queued.length).checkSat.advertise

def execReductionControlFrame (ptBeads : Word32) (j : Nat) (s : State) : Host.Outcome State Fault Refusal :=
  gnStep s (fun g => if g.alive then g.controlFrame ptBeads.toNat j else g)

/-- Decimation rises at a window close of a saturated node without pass-through credit (R226). -/
def Gn.raiseDecim (g : Gn) : Gn :=
  if g.flag F.rdStat_sat && (g.isTray || g.rg F.rdStat_ptBeads == 0) then g.setDecim (min 6 (g.rg F.rdStat_decim + 1)) else g

/-- Held reports leave once a report path stands again (R228). -/
def Gn.flushHold (g : Gn) : Gn :=
  if g.reportPort.isSome then
    let held := g.rd.hold
    forEach held (fun h g => match h with | .item typ x => g.sendItem typ x | .report typ b => g.sendReport typ b) (g.onRd (fun d => { d with hold := [] }))
  else g

end Sys2Proof.Machine
end

