-- ==== Sys2Proof/Machine/Reads.lean ====
section
/-! DEFINITION. Rank tables, telemetry addresses and reads (chapter 10, R207 to R214, R223, R372). -/

namespace Sys2Proof.Machine

/-! ### Rank tables (R210, R212) -/

/-- A rank table from its listed entries. -/
def mkRanks (l : List (Nat × Word32)) : SMap Word32 := l.foldl (fun m e => SMap.set rankDefault m e.1 e.2) []

/-- An entry fits the role: reserved bits 0, a route the table gives, `froute` a child port or none at a manager. -/
def rankEntOk (tray : Bool) (e : Nat × Word32) : Bool :=
  let w := e.2.toNat
  let r := bits w 0 8
  let fr := bits w 8 8
  decide (e.1 < 131072) && bits w 20 12 == 0 &&
    (r == 0xFE || r == 0xFF || (if tray then decide (r < 112) else decide (r < 32))) && (tray || fr == 0xFF || decide (fr < 32))

/-- Another rank before this one has the same die site. -/
def siteTwice (tray : Bool) (m : SMap Word32) (e : Nat × Word32) : Bool :=
  let r := bits e.2.toNat 0 8
  tray && decide (r < 112) && m.any (fun x => decide (x.1 < e.1) && bits x.2.toNat 0 8 == r)

/-- The first rank whose entry is out of range or shares its site with a lower rank. -/
def rankBad (tray : Bool) (m : SMap Word32) : Option Nat :=
  (m.find? (fun e => !rankEntOk tray e || siteTwice tray m e)).map (·.1)

/-- RANKMAP_LOAD (R212): the table waits for MAP_SWITCH. A table that fails R210 is INVALID. -/
def Gn.rankmapLoad (g : Gn) (h : DescHdr) (gen : Nat) (ranks : List (Nat × Word32)) : Gn :=
  let m := mkRanks ranks
  if (ranks.any (fun e => decide (131072 ≤ e.1))) || (rankBad g.isTray m).isSome then g.complete 0x03 h stInvalid []
  else ((g.onRd (fun d => { d with pend := some (gen % 2 ^ 16, m) })).wr F.rdMap_pendGen gen).complete 0x03 h stOk []

def execRankmapLoad (h : DescHdr) (gen : Nat) (ranks : List (Nat × Word32)) (s : State) : Host.Outcome State Fault Refusal :=
  gnStep s (fun g => g.desc 0x03 ruleS h (fun g => g.rankmapLoad h gen ranks))

/-! ### Telemetry addresses (R207, R208) -/

structure Ta where
  studio : Nat
  rank : Nat
  unit : Nat
  ctr : Nat
  fk : Nat
  depth : Nat
deriving DecidableEq, Repr

def taOf (w : Nat) : Ta := ⟨bits w 56 8, bits w 39 17, bits w 32 7, bits w 20 12, bits w 16 4, bits w 0 16⟩

/-- The identity of a site's block as read at link start. -/
def Gn.blkId (g : Gn) (site : Nat) : BlkId := SMap.get (fun _ => (⟨0, [], []⟩ : BlkId)) g.lk.blk site

/-- Unit a bank counts. -/
def BlkId.unit (b : BlkId) (bank : Nat) : Nat := match b.units.find? (fun e => e.1 == bank) with | some e => e.2 | none => 0

/-- The checks of R208. -/
def Ta.bad (a : Ta) (b : BlkId) : Bool :=
  decide (b.nbank * 64 ≤ a.ctr) || a.unit != b.unit (a.ctr / 64) || decide (5 ≤ a.fk) || (decide (a.fk ≤ 1) && a.depth != 0)

/-! ### Settling a read (R213, R214, R372) -/

def rdOk : Nat := 0
def rdUnmapped : Nat := 1
def rdOutOfScope : Nat := 2
def rdDenied : Nat := 3
def rdAddrBad : Nat := 4
def rdNotSampled : Nat := 5
def rdNoHistory : Nat := 6
def rdSitUnknown : Nat := 7
def rdSitIncomplete : Nat := 8
def rdLinkLost : Nat := 9
def rdMapChanged : Nat := 10
def rdTimeout : Nat := 11

/-- A read is settled: the descriptor completes, or the reply goes back where the request came from. -/
def Gn.settle (g : Gn) (r : Rd) (status tq value ht : Nat) : Gn :=
  let g := g.onRd (fun d => { d with reads := removeFirst (fun y => y == r) d.reads })
  match r.hdr, r.back with
  | some h, _ => g.completeAt 0x0C h stOk ht [value, status, tq]
  | none, some p => g.sendPort p 0x3A (leBytes 4 r.q.tag.toNat ++ leBytes 1 status ++ leBytes 3 (tq % 256) ++ leBytes 8 value ++ leBytes 8 ht)
  | none, none => g

/-- Settled without data: `ht` is now, and `tq`, which the manual defines for data only, is a free value (assumption log 3). -/
def Gn.settleNo (g : Gn) (r : Rd) (status value : Nat) : Gn :=
  let (g, v) := g.draw
  g.settle r status (v % 32) value g.now

/-- Change one read in hand. -/
def Gn.setRd (g : Gn) (r r' : Rd) : Gn := g.onRd (fun d => { d with reads := updateFirst (fun y => y == r) (fun _ => r') d.reads })

/-! ### Serving at the tray (R179, R209) -/

/-- Live reads are serial per site: the register frames of the oldest one leave, `idx` to PL_CNT_SEL, then PL_CNT (R209). -/
def Gn.sendLive (g : Gn) (site : Nat) : Gn :=
  match g.rd.reads.find? (fun r => r.site == some site) with
  | none => g
  | some r => (g.sendSite site 0x05 (writeBody 0x0B00 [(taOf r.q.ta.toNat).ctr])).sendSite site 0x06 (readBody 0x0B04 2 1)

/-- A live read waits behind the site's others; with the route down it is LINK_LOST. -/
def Gn.liveRead (g : Gn) (r : Rd) (site : Nat) : Gn :=
  if !g.siteUp site then g.settleNo r rdLinkLost 0
  else
    let busy := g.rd.reads.any (fun y => y.site == some site)
    let g := g.setRd r { r with site := some site }
    if busy then g else g.sendLive site

/-- A counter of a record. -/
def ctrOf (x : SampleIn) (c : Nat) : Option Nat := (x.ctrs.find? (fun e => e.1 == c)).map (fun e => e.2.toNat)

/-- Sample records the history of a site holds, in order of arrival. -/
def Gn.samplesOf (g : Gn) (site : Nat) : List SampleIn :=
  (g.rd.hist.filter (fun e => e.site == site)).filterMap (fun e => match e.r with | .sample r => some r | _ => none)

/-- Sample records of a site that a freeze has parked. -/
def Gn.parkedOf (g : Gn) (site : Nat) : List SampleIn :=
  g.parked.filterMap (fun x => match x with | .sample s r => if s = site then some r else none | _ => none)

/-- Records of a site, most recent first. Under a sitting, all that the tray holds for the die stamped before T, those that another freeze has parked
included (R179). -/
def Gn.history (g : Gn) (site : Nat) (sit : Option Sit) : List SampleIn :=
  let all := match sit with
    | none => g.samplesOf site
    | some x => (g.samplesOf site ++ g.parkedOf site).filter (fun r => decide (r.ht < x.t))
  all.reverse.mergeSort (fun a b => decide (b.ht ≤ a.ht))

/-- Differences between consecutive values, newest first, modulo 2^64. -/
def deltas : List Nat → List Nat
  | a :: b :: l => ((a + 2 ^ 64 - b % 2 ^ 64) % 2 ^ 64) :: deltas (b :: l)
  | _ => []

/-- Time quality of several data used. -/
def tqAll (l : List SampleIn) : Nat := l.foldl (fun t x => tqMerge t x.tq) 0

/-- Kinds 1 to 4 over the records that hold the counter. -/
def Gn.fromHistory (g : Gn) (r : Rd) (a : Ta) (site : Nat) (held : List SampleIn) (oldest : Option SampleIn) : Gn :=
  let need := if a.fk = 1 then 2 else if a.fk = 2 then a.depth + 1 else a.depth + 2
  if held.length < need then
    let beyond := g.rd.overwritten.contains site && (match oldest with | some x => (ctrOf x a.ctr).isSome | none => false)
    g.settleNo r (if beyond then rdNoHistory else rdNotSampled) 0
  else
    let used := if a.fk = 2 then (held.drop a.depth).take 1 else held.take need
    let vals := used.map (fun x => (ctrOf x a.ctr).getD 0)
    let ht := (used.map (·.ht)).headD 0
    let tq := tqAll used
    let ds := deltas vals
    if a.fk = 1 then
      let dt := ht - (used.map (·.ht)).getD 1 0
      if dt = 0 then
        let (g, v) := g.draw
        g.settle r rdOk tq v ht
      else g.settle r rdOk tq (min (2 ^ 64 - 1) (ds.headD 0 * 1000000000 / dt)) ht
    else if a.fk = 2 then g.settle r rdOk tq (vals.headD 0) ht
    else if a.fk = 3 then g.settle r rdOk tq (ds.foldl min (ds.headD 0)) ht
    else g.settle r rdOk tq (ds.foldl max 0) ht

/-- Causes kept for a link of the sitting: port p, or 64 + site. -/
def Sit.linkMask (x : Sit) (k : Nat) : Nat := match x.dieCause.find? (fun e => e.1 == k) with | some e => e.2 | none => 0

/-- Causes that lie on every die's path: the node's own and those of the parent's link. -/
def Sit.common (x : Sit) : Nat := x.cause ||| x.linkMask 32 ||| x.linkMask 33

/-- Causes of a die in a sitting at this node: its route's, the node's, its parent's link's (R177). -/
def Sit.mask (x : Sit) (site : Nat) : Nat := x.common ||| x.linkMask (64 + site)

/-- A value from the records and, for kind 0, from the image or from the block itself. -/
def Gn.serveValue (g : Gn) (r : Rd) (a : Ta) (site : Nat) (sit : Option Sit) : Gn :=
  let all := g.history site sit
  if a.fk = 0 then
    match sit with
    | some x => match (x.images.find? (fun e => e.1 == site)).bind (fun e => (ctrOf e.2 a.ctr).map (fun v => (v, e.2))) with
      | some (v, im) => g.settle r rdOk im.tq v im.ht
      | none => g.settleNo r rdNotSampled 0
    | none =>
      let priv := (g.blkId site).privs.contains (a.ctr / 64)
      match ((all.filter (fun x => x.priv == priv)).head?).bind (fun x => (ctrOf x a.ctr).map (fun v => (v, x))) with
      | some (v, x) => g.settle r rdOk x.tq v x.ht
      | none => g.liveRead r site
  else g.fromHistory r a site (all.filter (fun x => (ctrOf x a.ctr).isSome)) all.getLast?

/-- A read at the tray that serves it, in the order of R372. -/
def Gn.serveRead (g : Gn) (r : Rd) (site : Nat) : Gn :=
  let a := taOf r.q.ta.toNat
  let st := r.q.rstudio
  if st ≠ 0 ∧ g.rankStudio a.rank ≠ st then g.settleNo r rdDenied 0
  else if a.bad (g.blkId site) then g.settleNo r rdAddrBad 0
  else if st ≠ 0 ∧ (g.studioSt st ≠ 2 ∨ (g.blkId site).privs.contains (a.ctr / 64) = true) then g.settleNo r rdDenied 0
  else if r.q.sit = 0 then g.serveValue r a site none
  else match g.sits.find? (fun x => x.id == r.q.sit) with
    | none => g.settleNo r rdSitUnknown 0
    | some x =>
      if x.st ≠ .held then g.setRd r { r with sitWait := true }
      else if x.mask site ≠ 0 then g.settleNo r rdSitIncomplete (x.mask site)
      else g.serveValue r a site (some x)

/-- Reads that waited for a sitting are served once it is HELD, or is gone. -/
def Gn.wakeReads (g : Gn) (ident : Nat) : Gn :=
  forEach (g.rd.reads.filter (fun r => r.sitWait && r.q.sit == ident)) (fun r g =>
    let r' := { r with sitWait := false }
    (g.setRd r r').serveRead r' (g.route (taOf r.q.ta.toNat).rank)) g

/-- Live reads of a site whose route has left UP (R209). -/
def Gn.loseLive (g : Gn) (site : Nat) : Gn :=
  forEach (g.rd.reads.filter (fun r => r.site == some site)) (fun r g => g.settleNo r rdLinkLost 0) g

/-! ### On the way (R211, R212) -/

/-- Forward a read on a port. -/
def Gn.forwardRead (g : Gn) (r : Rd) (p : Nat) (retried : Bool) : Gn :=
  let r' := { r with port := some p, retried := retried }
  (g.setRd r r').sendPort p 0x39
    (leBytes 4 r.q.tag.toNat ++ leBytes 2 r.q.origin ++ leBytes 1 r.q.rstudio ++ leBytes 1 r.q.sit ++ leBytes 2 r.q.gen ++ leBytes 6 0
      ++ leBytes 8 r.q.ta.toNat ++ leBytes 12 0)

/-- One node of the path: the generation, then the routing of R211, then service at the tray. -/
def Gn.routeRead (g : Gn) (r : Rd) : Gn :=
  let rank := (taOf r.q.ta.toNat).rank
  let rt := g.route rank
  let fr := g.froute rank
  if r.q.gen ≠ g.rg F.rdMap_gen then g.settleNo r rdMapChanged 0
  else if g.isTray then
    if rt < 112 then g.serveRead r rt
    else if rt = 0xFF then g.settleNo r rdUnmapped 0
    else g.settleNo r rdOutOfScope 0
  else if g.portUse rt = useTc2 then g.settleNo r rdUnmapped 0
  else if rt < 32 && g.portUp rt then g.forwardRead r rt false
  else if (decide (rt < 32) || rt == 0xFE) && decide (fr < 34) && g.portUp fr then g.forwardRead r fr false
  else if rt = 0xFF then g.settleNo r rdUnmapped 0
  else if rt = 0xFE && fr == 0xFF then g.settleNo r rdOutOfScope 0
  else g.settleNo r rdLinkLost 0

/-- Take a read in hand. -/
def Gn.takeRead (g : Gn) (q : ReadReq) (back : Option Nat) (hdr : Option DescHdr) : Gn × Rd :=
  let r : Rd := { q := q, back := back, hdr := hdr, port := none, retried := false, sent := g.now, site := none, sitWait := false }
  (g.onRd (fun d => { d with reads := d.reads ++ [r] }), r)

/-- READ at its origin. -/
def Gn.readPost (g : Gn) (h : DescHdr) (ta : Word) (sit : Nat) : Gn :=
  let q : ReadReq := { tag := BitVec.ofNat 32 g.rd.nextTag, origin := g.node, rstudio := h.fn, sit := sit, gen := g.rg F.rdMap_gen, ta := ta }
  let (g, r) := (g.onRd (fun d => { d with nextTag := d.nextTag + 1 })).takeRead q none (some h)
  if (taOf ta.toNat).studio ≠ h.fn then g.settleNo r rdDenied 0 else g.routeRead r

def execRead (h : DescHdr) (ta : Word) (sit : Nat) (s : State) : Host.Outcome State Fault Refusal :=
  gnStep s (fun g => g.desc 0x0C ⟨true, false, true, true⟩ h (fun g => g.readPost h ta sit))

/-- READ_REQUEST_FRAME: requests travel downward (R206); another port discards it. -/
def Gn.readRequest (g : Gn) (p : Nat) (q : ReadReq) : Gn :=
  if g.portUse p = 4 ∨ g.portUse p = 5 then
    let (g, r) := g.takeRead q (some p) none
    g.routeRead r
  else g.inc (F.lkErr_typeBad p)

def execReadRequestFrame (p : Nat) (r : ReadReq) (s : State) : Host.Outcome State Fault Refusal :=
  gnStep s (fun g => if g.takes then g.readRequest p r else g)

/-- READ_REPLY_FRAME: LINK_LOST is retried once through `froute`; a reply that is no longer awaited is discarded. -/
def Gn.readReply (g : Gn) (p : Nat) (x : ReadRep) : Gn :=
  match g.rd.reads.find? (fun r => r.port == some p && r.q.tag == x.tag) with
  | none => g
  | some r =>
    let fr := g.froute (taOf r.q.ta.toNat).rank
    if x.status = rdLinkLost && !r.retried && decide (fr < 34) && g.portUp fr then g.forwardRead r fr true
    else g.settle r x.status x.tq x.value.toNat x.ht

def execReadReplyFrame (p : Nat) (r : ReadRep) (s : State) : Host.Outcome State Fault Refusal :=
  gnStep s (fun g => if g.takes then g.readReply p r else g)

/-- A live read whose register frames are on their way: the oldest of its site. -/
def Gn.inFlight (g : Gn) (r : Rd) : Bool := match r.site with
  | some s => g.rd.reads.find? (fun y => y.site == some s) == some r
  | none => false

/-- READ_TIMEOUT (R214): 10 ms after sending the origin completes the read; a node between forgets it. A live read in flight keeps its place, without its descriptor,
until its reply, which is then discarded, so that the site's reads stay serial (R209). -/
def Gn.readTimeout (g : Gn) (tag : Word32) : Gn :=
  forEach (g.rd.reads.filter (fun r => r.q.tag == tag && decide (r.sent + 10000000 ≤ g.now))) (fun r g =>
    if r.hdr.isSome && !r.sitWait then
      let left : Rd := { r with hdr := none, back := none }
      let n := g.settleNo r rdTimeout 0
      if g.inFlight r then n.onRd (fun d => { d with reads := left :: d.reads }) else n
    else if r.port.isSome then g.onRd (fun d => { d with reads := removeFirst (fun y => y == r) d.reads })
    else g) g

def execReadTimeout (tag : Word32) (s : State) : Host.Outcome State Fault Refusal :=
  gnStep s (fun g => if g.alive then g.readTimeout tag else g)

/-! ### Register replies of a block -/

/-- What the tray asks a block at link start (R3, R136): the reply number of the identity registers, and of each bank's unit. -/
def tagIdent : Nat := 0xFFFE
def tagUnit (b : Nat) : Nat := 0xF000 + b

/-- R3: part code, release within that of `pl_rel`, parameters within the ranges of R136. `v` is PL_ID_REL, then PL_ID_PAR. -/
def Gn.identOk (g : Gn) (v : Nat) : Bool :=
  let rel := bits v 0 16
  let own := g.rg F.idPart_plRel
  let nbank := bits v 32 7
  let nmon := bits v 39 9
  let ncore := bits v 49 7
  let trb := bits v 56 4
  bits v 16 16 == 0x504C && rel / 256 == own / 256 && decide (rel % 256 ≤ own % 256) && decide (1 ≤ nbank) && decide (nbank ≤ 64) &&
    decide (8 ≤ nmon) && decide (nmon ≤ 256) && decide (1 ≤ ncore) && decide (ncore ≤ 64) && decide (4 ≤ trb) && decide (trb ≤ 10)

/-- Change a block's identity as read. -/
def Gn.setBlk (g : Gn) (site : Nat) (b : BlkId) : Gn :=
  { g with lk := { g.lk with blk := SMap.set (fun _ => (⟨0, [], []⟩ : BlkId)) g.lk.blk site b } }

/-- The identity registers have come: out of range, the source is policed to zero and an event raised; else the units are read (R3, R136). -/
def Gn.identReply (g : Gn) (site v : Nat) : Gn :=
  if g.identOk v then
    let g := { g with lk := { g.lk with mismatch := g.lk.mismatch.filter (fun x => x != site) } }
    let n := bits v 32 7
    let g := g.setBlk site ⟨n, [], []⟩
    forEach (List.range n) (fun b g => g.sendSite site 0x06 (readBody (0x0100 + 4 * b) 1 (tagUnit b))) g
  else
    let g := { g with lk := { g.lk with mismatch := if g.lk.mismatch.contains site then g.lk.mismatch else g.lk.mismatch ++ [site] } }
    g.recordRank prodLinks (Config.recCode 21).toNat 4 site (g.siteRank site) (lo32 v) (hi32 v) 0 0

/-- A bank's PL_ID_UNIT has come. -/
def Gn.unitReply (g : Gn) (site b v : Nat) : Gn :=
  let x := g.blkId site
  let units := x.units.filter (fun (e : Nat × Nat) => e.1 != b) ++ [(b, v % 128)]
  let privs := x.privs.filter (fun e => e != b) ++ (if bit v 7 then [b] else [])
  g.setBlk site ⟨x.nbank, units, privs⟩

/-- REG_REPLY_FRAME (R209): the live read in flight, or the identity asked for at link start. -/
def Gn.regReply (g : Gn) (site tag v ht tq : Nat) : Gn :=
  if tag = tagIdent then g.identReply site v
  else if 0xF000 ≤ tag ∧ tag < 0xF040 then g.unitReply site (tag - 0xF000) v
  else if tag = 1 then
    match g.rd.reads.find? (fun r => r.site == some site) with
    | none => g
    | some r => (g.settle r rdOk tq v ht).sendLive site
  else g

def execRegReplyFrame (site tag : Nat) (value : Word) (ht tq : Nat) (s : State) : Host.Outcome State Fault Refusal :=
  gnStep s (fun g => if g.takes then g.regReply site tag value.toNat ht tq else g)

/-! ### Aggregate reads (R223) -/

/-- Aggregate field of a series: none where the key does not fit it (ADDR_BAD); `some none` where the manual states no value. -/
def aggValue (s : Series) (af arg : Nat) : Option (Option Nat) :=
  match s with
  | .cum v => if af = 0 then some (some v) else none
  | .sum v => if af = 0 then some (some (v % 2 ^ 64)) else if af = 1 then some (some (v / 2 ^ 64 % 2 ^ 64)) else none
  | .sketch x =>
    if af = 2 then some (some x.n) else if af = 3 then some (some x.min) else if af = 4 then some (some x.max)
    else if af = 5 then (if x.n = 0 then some none else some (some (x.quantile arg 65536))) else none
  | .topk _ es =>
    match es[arg]? with
    | none => none
    | some e => if af = 6 then some (some e.val) else if af = 7 then some (some e.rank) else none

/-- The stored summary names this window. -/
def Summary.names (x : Summary) (stream win epoch : Nat) : Bool :=
  x.stream == stream && x.epoch == epoch && decide (x.win ≤ win) && decide (win < x.win + x.span) && (win - x.win) % (x.lenUs * 1000) == 0

/-- AGGREGATE_READ (R179, R223, R372): under a sitting it waits until the sitting is HELD here, and SIT_UNKNOWN where none is outstanding. -/
def Gn.aggRead (g : Gn) (h : DescHdr) (key win epoch sit : Nat) : Gn :=
  let fin := fun (g : Gn) (status tq value : Nat) => g.complete 0x0C h stOk [value, status, tq]
  let no := fun (g : Gn) (status : Nat) =>
    let (g, v) := g.draw
    fin g status (v % 32) 0
  let stream := bits key 48 8
  let sid := bits key 32 16
  let parts := g.rd.store.filter (fun s => Summary.names s.x stream win epoch)
  if h.fn ≠ 0 then no g rdDenied
  else if g.isTray then no g rdOutOfScope
  else if bits key 56 8 ≠ 0 ∨ bits key 16 12 ≠ 0 ∨ 8 ≤ stream ∨ 8 ≤ bits key 28 4 then no g rdAddrBad
  else if sit ≠ 0 ∧ g.sits.all (fun x => x.id != sit) then no g rdSitUnknown
  else if sit ≠ 0 ∧ g.sits.any (fun x => x.id == sit && x.st != .held) then g.onRd (fun d => { d with aggs := d.aggs ++ [(h, key, win, epoch, sit)] })
  else if parts = [] then no g rdNoHistory
  else match parts.find? (fun s => s.x.series.any (fun e => e.1 == sid)) with
    | none => no g rdAddrBad
    | some s => match (s.x.series.find? (fun e => e.1 == sid)).bind (fun e => aggValue e.2 (bits key 28 4) (bits key 0 16)) with
      | none => no g rdAddrBad
      | some none =>
        let (g, v) := g.draw
        fin g rdOk s.x.tq v
      | some (some v) => fin g rdOk s.x.tq v

/-- Aggregate reads that waited for a sitting are served once it is HELD, or is gone. -/
def Gn.wakeAggs (g : Gn) (ident : Nat) : Gn :=
  let mine := g.rd.aggs.filter (fun e => e.2.2.2.2 == ident)
  forEach mine (fun e g => g.aggRead e.1 e.2.1 e.2.2.1 e.2.2.2.1 ident) (g.onRd (fun d => { d with aggs := d.aggs.filter (fun e => e.2.2.2.2 != ident) }))

def execAggregateRead (h : DescHdr) (key : Word) (win : Nat) (part : AggPart) (s : State) : Host.Outcome State Fault Refusal :=
  gnStep s (fun g => g.desc 0x0C ⟨true, false, true, true⟩ h (fun g => g.aggRead h key.toNat win part.epoch part.sit))

end Sys2Proof.Machine
end

