-- ==== Sys2Proof/Machine/Broadcast.lean ====
section
/-! DEFINITION. Broadcasts and TC-2 aborts (chapter 10, R229 to R234). -/

namespace Sys2Proof.Machine

/-- A broadcast that is armed and has not fired. -/
def Bc.armed (b : Bc) : Bool := b.own == 0 && !b.fired

/-- Broadcasts armed here (BC_STAT.armed). -/
def Gn.armedCount (g : Gn) : Nat := (g.rd.bcs.filter Bc.armed).length

def Bc.is (b : Bc) (origin bid : Nat) : Bool := b.a.origin == origin && b.a.bid == bid

/-- The broadcast (origin, bid) at this node. -/
def Gn.bc (g : Gn) (origin bid : Nat) : Option Bc := g.rd.bcs.find? (fun b => b.is origin bid)

/-- Replace a broadcast. -/
def Gn.setBc (g : Gn) (b : Bc) : Gn := g.onRd (fun d => { d with bcs := d.bcs.map (fun x => if x.is b.a.origin b.a.bid then b else x) })

def Gn.dropBc (g : Gn) (origin bid : Nat) : Gn := g.onRd (fun d => { d with bcs := d.bcs.filter (fun x => !x.is origin bid) })

/-- The arm body of R229. -/
def armBody (a : Arm) (rearm : Bool) : List Byte :=
  leBytes 2 a.bid ++ leBytes 2 a.origin ++ leBytes 1 a.action ++ leBytes 1 (b2n rearm) ++ leBytes 2 (a.studio % 256) ++ leBytes 8 a.tFire
    ++ leBytes 8 a.param.toNat ++ leBytes 8 0

/-- Body of an acknowledgment (R230). The manual gives the fields and no widths: identifiers as in the arm, the status as a byte (assumption log 22). -/
def armAckBody (bid origin node st : Nat) : List Byte := leBytes 2 bid ++ leBytes 2 origin ++ leBytes 2 node ++ leBytes 1 st

/-- The body of a cancel (R233). -/
def cancelBody (bid origin : Nat) : List Byte := leBytes 2 bid ++ leBytes 2 origin

/-- Primary children whose port is UP. -/
def Gn.upChildren (g : Gn) : List Nat := (g.portsOf 2).filter g.portUp

/-- Send an arm to the primary children. -/
def Gn.forwardArm (g : Gn) (a : Arm) : Gn := forEach g.upChildren (fun p g => g.sendPort p 0x34 (armBody a false)) g

/-! ### Firing (R232) -/

/-- MAP_SWITCH: the pending table becomes the active one; the tray rewrites the studio tags that change (R155). -/
def Gn.mapSwitch (g : Gn) : Gn :=
  match g.rd.pend with
  | none => g
  | some (gen, m) => g.retag (((g.onRd (fun d => { d with ranks := m, pend := none })).wr F.rdMap_gen gen).wr F.rdMap_pendGen 0)

/-- GRAPH_EN: the named slots may create instances. -/
def Gn.graphEn (g : Gn) (mask : Nat) : Gn :=
  { g with sq := { g.sq with graphs := g.sq.graphs.map (fun x => if x.slot < 16 && mask.testBit x.slot then { x with enabled := true } else x) } }

/-- The action of a broadcast (R229, R345). -/
def Gn.fireAction (g : Gn) (a : Arm) : Gn :=
  if a.action = 1 then
    let g := g.unsolicited 0 0 0x33 a.tFire [a.bid, a.origin, a.action]
    if a.studio = 0 ∨ 16 ≤ a.studio then g else if g.fnServed a.studio then g.unsolicited a.studio 0 0x33 a.tFire [a.bid, a.origin, a.action] else g
  else if a.action = 2 then g.mapSwitch
  else if a.action = 3 then g.graphEn (a.param.toNat % 2 ^ 16)
  else g

/-- The node's own counts with those of every report received: fired, late, full, nodes. -/
def Bc.counts (b : Bc) : Nat × Nat × Nat × Nat :=
  b.reports.foldl (fun c r => (c.1 + r.2.1, c.2.1 + r.2.2.1, c.2.2.1 + r.2.2.2.1, c.2.2.2 + r.2.2.2.2))
    (b2n (b.own == 0), b2n (b.own == 1), b2n (b.own == 2), 1)

/-- Node at the other end of a port. -/
def Gn.peer (g : Gn) (p : Nat) : Nat := match g.portEnt p with | some e => e.peer | none => 0xFFFF

/-- Nodes in this node's scope under the topology (assumption log 17). -/
def Gn.scope (g : Gn) : Nat :=
  if g.isTray then 1
  else 1 + ((g.portsOf 2).map (fun p => if g.rg F.rdCfg_level = 1 then 1 else Config.nodesBelow (g.peer p))).sum

/-- The report goes up, or the origin completes. -/
def Gn.reportBc (g : Gn) (b : Bc) : Gn :=
  let c := b.counts
  let g := g.dropBc b.a.origin b.a.bid
  match b.hdr with
  | some h => g.complete 0x0F h stOk [c.1, c.2.1, c.2.2.1, g.scope - c.2.2.2]
  | none => g.sendReport 0x38 (leBytes 2 b.a.bid ++ leBytes 2 b.a.origin ++ leBytes 4 c.1 ++ leBytes 4 c.2.1 ++ leBytes 4 c.2.2.1 ++ leBytes 4 c.2.2.2)

/-- Foster children that report through this node: those it re-armed, and those that have contributed since their port came UP (DESIGN CHOICE, assumption log 42: the
manual does not say how the node knows them). -/
def Gn.fosterReports (g : Gn) (b : Bc) : List Nat :=
  (g.portsOf 3).filter (fun p => g.portUp p && (b.rearmed.contains p || g.rd.fosters.contains p))

/-- Everyone this node waits for has reported: primary children in UP and foster children that report through it. -/
def Gn.allReported (g : Gn) (b : Bc) : Bool := (g.upChildren ++ g.fosterReports b).all (fun p => b.reports.any (fun r => r.1 == p))

def Gn.tryReport (g : Gn) (origin bid : Nat) : Gn :=
  match g.bc origin bid with
  | none => g
  | some b => if b.own != 3 && b.fired && (g.isTray || g.allReported b) then g.reportBc b else g

/-- T has come at this node: an armed node acts, once; a cancelled broadcast is forgotten (R233). -/
def Gn.fireNow (g : Gn) (origin bid : Nat) : Gn :=
  match g.bc origin bid with
  | none => g
  | some b =>
    if b.fired || decide (g.now < b.a.tFire) then g
    else if b.own = 3 then g.dropBc origin bid
    else
      let g := g.setBc { b with fired := true }
      if b.own = 0 then g.fireAction b.a else g

/-! ### Arms (R229 to R231) -/

/-- What this node answers an arm: 1 LATE at or after T, 2 FULL with 8 armed, in Maintenance or in Deep idle (R230, R310, R352), else 0. -/
def Gn.armStatus (g : Gn) (a : Arm) : Nat :=
  if a.tFire ≤ g.now then 1 else if 8 ≤ g.armedCount ∨ g.acc = 2 ∨ g.rg F.pwState_pstate = 2 then 2 else 0

/-- Take an arm: a new broadcast here, or one that was late or full before, then the children. A child's timer starts when it is first sent the arm. -/
def Gn.takeArm (g : Gn) (a : Arm) (hdr : Option DescHdr) : Gn × Nat :=
  let st := g.armStatus a
  let g := g.wr F.bcStat_lastBid a.bid
  let g := match g.bc a.origin a.bid with
    | some b => g.setBc { b with a := a, own := st }
    | none =>
      let b : Bc := { a := a, hdr := hdr, wait := g.upChildren.map (fun p => (p, g.now)), own := st, fired := false, reports := [], rearmed := [] }
      g.onRd (fun d => { d with bcs := d.bcs ++ [b] })
  (g.forwardArm a, st)

/-- BROADCAST (R229): the refusals at the origin; reserved actions and studios are INVALID; an identifier in use is REFUSED. -/
def Gn.broadcast (g : Gn) (h : DescHdr) (bid action studio tFire : Nat) (param : Word) : Gn :=
  let now := g.now
  let out := (g.rd.bcs.filter (fun b => b.hdr.isSome || b.armed)).length
  if action = 0 ∨ 4 ≤ action ∨ 16 ≤ studio then g.complete 0x0F h stInvalid []
  else if !g.timeValid || decide (tFire < now + g.rg F.rdCfg_armMinUs * 1000) || decide (now + 10000000000 < tFire) || decide (8 ≤ out)
      || (g.bc g.node bid).isSome then g.complete 0x0F h stRefused []
  else (g.takeArm { bid := bid, origin := g.node, action := action, rearm := false, studio := studio, tFire := tFire, param := param } (some h)).1

def execBroadcast (h : DescHdr) (bid action studio tFire : Nat) (param : Word) (s : State) : Host.Outcome State Fault Refusal :=
  gnStep s (fun g => g.desc 0x0F ruleS h (fun g => g.broadcast h bid action studio tFire param))

/-- An arm comes from the parent or a foster parent only (R230): its port is up or foster. -/
def Gn.fromAbove (g : Gn) (p : Nat) : Bool := g.portUse p == 4 || g.portUse p == 5

/-- ARM_FRAME (R230): a DUP changes nothing and goes no further. A late copy of a cancelled arm is answered as a DUP (DESIGN CHOICE, assumption log 42). -/
def Gn.armFrame (g : Gn) (p : Nat) (a : Arm) : Gn :=
  if !g.fromAbove p then g.inc (F.lkErr_typeBad p)
  else
    let dup := match g.bc a.origin a.bid with | some b => b.own == 0 || (b.own == 3 && b.a.tFire == a.tFire) | none => false
    if dup then g.sendPort p 0x35 (armAckBody a.bid a.origin g.node 3)
    else
      let (g, st) := g.takeArm a none
      let g := if st = 0 then g else g.inc F.bcStat_late
      let g := g.sendPort p 0x35 (armAckBody a.bid a.origin g.node st)
      if st = 1 then (g.fireNow a.origin a.bid).tryReport a.origin a.bid else g

def execArmFrame (p : Nat) (a : Arm) (s : State) : Host.Outcome State Fault Refusal :=
  gnStep s (fun g => if g.alive then g.armFrame p a else g)

/-- ARM_ACK_FRAME: the child is not waited for any more. An acknowledgment ends the oldest timer of its child: that of the arm, then that of the cancel. -/
def Gn.armAck (g : Gn) (p bid origin : Nat) : Gn :=
  match g.bc origin bid with
  | none => g
  | some b => g.setBc { b with wait := removeFirst (fun q => q.1 == p) b.wait }

def execArmAckFrame (p bid origin _node _status : Nat) (s : State) : Host.Outcome State Fault Refusal :=
  gnStep s (fun g => if g.alive then g.armAck p bid origin else g)

/-- Re-arm ports of a child port (R227, R350). -/
def Gn.rearmPorts (g : Gn) (p : Nat) : List Nat := match g.portEnt p with | some e => setBits 32 e.rearm | none => []

/-- ARM_ACK_TIMEOUT (R231): 20 µs after the arm, one re-arm request on each of the child's re-arm ports that is UP. -/
def Gn.armTimeout (g : Gn) (p bid origin : Nat) : Gn :=
  match g.bc origin bid with
  | none => g
  | some b =>
    if b.wait.any (fun q => q.1 == p && decide (q.2 + 20000 ≤ g.now)) then
      let g := g.setBc { b with wait := b.wait.filter (fun q => !(q.1 == p && decide (q.2 + 20000 ≤ g.now))) }
      let g := forEach ((g.rearmPorts p).filter g.portUp) (fun q g => (g.sendPort q 0x36 (armBody b.a false ++ leBytes 2 (g.peer p))).inc F.bcStat_rearm) g
      g.record prodLinks 0x0A05 3 p bid origin (g.peer p) 0
    else g

def execArmAckTimeout (p bid origin : Nat) (s : State) : Host.Outcome State Fault Refusal :=
  gnStep s (fun g => if g.alive then g.armTimeout p bid origin else g)

/-- REARM_REQUEST_FRAME (R231): the foster children of the named node. Where the broadcast is cancelled here, they get the cancel: it travels as the arm does, re-arm
included (R233). -/
def Gn.rearmRequest (g : Gn) (a : Arm) (failed : Nat) : Gn :=
  let mine := (g.portsOf 3).filter (fun p => match g.portEnt p with | some e => e.pparent == failed | none => false)
  forEach mine (fun p g =>
    if g.portUp p && (g.bc a.origin a.bid).any (fun b => b.own == 3) then g.sendPort p 0x37 (cancelBody a.bid a.origin)
    else if g.portUp p then
      let g := match g.bc a.origin a.bid with
        | some b => g.setBc { b with rearmed := if b.rearmed.contains p then b.rearmed else b.rearmed ++ [p] }
        | none => g
      g.sendPort p 0x34 (armBody a true)
    else g.record prodLinks 0x0A09 4 p a.bid a.origin failed 0) g

def execRearmRequestFrame (a : Arm) (failed : Nat) (s : State) : Host.Outcome State Fault Refusal :=
  gnStep s (fun g => if g.alive then g.rearmRequest a failed else g)

/-- A cancel goes where the arm went, re-armed foster children included. -/
def Gn.forwardCancel (g : Gn) (bid origin : Nat) (rearmed : List Nat) : Gn :=
  forEach (g.upChildren ++ rearmed.filter g.portUp) (fun p g => g.sendPort p 0x37 (cancelBody bid origin)) g

/-- The node's part of a cancel (R233): before T it is disarmed, its children's 20 µs timers start as for an arm, and the origin's BROADCAST ends CANCELLED; after T
nothing changes. A cancelled broadcast is kept until T, for re-arm requests (DESIGN CHOICE, assumption log 42: the manual does not say how long). -/
def Gn.cancelBc (g : Gn) (bid origin : Nat) : Gn :=
  match g.bc origin bid with
  | none => g.forwardCancel bid origin []
  | some b =>
    let g := g.forwardCancel bid origin b.rearmed
    if b.fired || decide (b.a.tFire ≤ g.now) then g
    else
      let g := g.setBc { b with own := 3, hdr := none, wait := b.wait ++ g.upChildren.map (fun p => (p, g.now)) }
      match b.hdr with
      | some h => g.complete 0x0F h stCancelled []
      | none => g

/-- BC_CANCEL: an identifier that is not outstanding here is REFUSED. -/
def Gn.bcCancel (g : Gn) (h : DescHdr) (bid : Nat) : Gn :=
  if (g.bc g.node bid).any (fun b => b.own != 3) then (g.cancelBc bid g.node).complete 0x10 h stOk [] else g.complete 0x10 h stRefused []

def execBcCancel (h : DescHdr) (bid : Nat) (s : State) : Host.Outcome State Fault Refusal :=
  gnStep s (fun g => g.desc 0x10 ruleS h (fun g => g.bcCancel h bid))

/-- BROADCAST_CANCEL_FRAME: acknowledged as an arm is, with the status of an arm that changes nothing when it was cancelled before. -/
def Gn.cancelFrame (g : Gn) (p bid origin : Nat) : Gn :=
  let again := (g.bc origin bid).any (fun b => b.own == 3)
  (if again then g else g.cancelBc bid origin).sendPort p 0x35 (armAckBody bid origin g.node (if again then 3 else 0))

def execBroadcastCancelFrame (p bid origin : Nat) (s : State) : Host.Outcome State Fault Refusal :=
  gnStep s (fun g => if !g.alive then g else if g.fromAbove p then g.cancelFrame p bid origin else g.inc (F.lkErr_typeBad p))

/-! ### Reports -/

def execBroadcastFire (bid origin : Nat) (s : State) : Host.Outcome State Fault Refusal :=
  gnStep s (fun g => if g.alive then (g.fireNow origin bid).tryReport origin bid else g)

/-- FIRE_REPORT_FRAME: a child's counts, once per child port. -/
def Gn.fireReport (g : Gn) (p bid origin fired late full nodes : Nat) : Gn :=
  match g.bc origin bid with
  | none => g
  | some b =>
    if b.reports.any (fun r => r.1 == p) then g
    else
      let r : Nat × Nat × Nat × Nat × Nat := (p, fired, late, full, nodes)
      (g.setBc { b with reports := b.reports ++ [r] }).tryReport origin bid

def execFireReportFrame (p bid origin fired late full nodes : Nat) (s : State) : Host.Outcome State Fault Refusal :=
  gnStep s (fun g => if g.alive then g.fireReport p bid origin fired late full nodes else g)

/-- FIRE_REPORT_TIMEOUT: T + `wait_us` × (`level` + 1). -/
def Gn.fireTimeout (g : Gn) (bid origin : Nat) : Gn :=
  match g.bc origin bid with
  | none => g
  | some b =>
    if b.a.tFire + g.rg F.rdCfg_waitUs * 1000 * (g.rg F.rdCfg_level + 1) ≤ g.now then
      let g := g.fireNow origin bid
      match g.bc origin bid with
      | none => g
      | some b => if b.own = 3 then g.dropBc origin bid else g.reportBc b
    else g

def execFireReportTimeout (bid origin : Nat) (s : State) : Host.Outcome State Fault Refusal :=
  gnStep s (fun g => if g.alive then g.fireTimeout bid origin else g)

/-! ### TC-2 aborts (R234) -/

/-- Send an abort not seen before on every UP port but the one it came by, record it and post it. One that came from a TC-2 goes on with reason 3. -/
def Gn.abort (g : Gn) (a : Tc2Abort) (from_ : Option Nat) : Gn :=
  if g.rd.aborts.contains (a.origin, a.aseq) then g
  else
    let a := match from_ with | some p => if g.portUse p = useTc2 then { a with reason := 3 } else a | none => a
    let g := g.onRd (fun d => { d with aborts := d.aborts ++ [(a.origin, a.aseq)] })
    let ports := (List.range 34).filter (fun p => g.portUp p && from_ != some p)
    let g := forEach ports (fun p g => g.sendPort p 0x3F
      (leBytes 2 a.job ++ leBytes 2 a.origin ++ leBytes 4 (a.aseq % 2 ^ 16) ++ leBytes 8 a.ht ++ leBytes 4 (a.reason % 256))) g
    let g := (g.inc F.bcStat_abort).record prodLinks 0x0A08 4 a.origin a.job a.aseq a.reason 0
    g.unsolicited 0 0 0x34 a.ht [a.job, a.origin, a.aseq, a.reason]

/-- This node declares a progress stall in compatibility mode. -/
def Gn.tc2Declare (g : Gn) : Gn :=
  if g.flag F.rdCfg_tc2 then
    let n := g.rd.aseq
    let g := g.onRd (fun d => { d with aseq := (n + 1) % 2 ^ 16 })
    g.abort { job := g.rg F.rdCfg_job, origin := g.node, aseq := n, ht := g.now, reason := 1 } none
  else g

/-- TC2_ABORT_FRAME; with `tc2` clear the frame is discarded and counted. -/
def execTc2AbortFrame (p : Nat) (a : Tc2Abort) (s : State) : Host.Outcome State Fault Refusal :=
  gnStep s (fun g => if !g.alive then g else if g.flag F.rdCfg_tc2 then g.abort a (some p) else g.inc (F.lkErr_typeBad p))

end Sys2Proof.Machine
end

