-- ==== Sys2Proof/Machine/Ingest.lean ====
section
/-! DEFINITION. Window streams and the tray's ingest (R20 to R22, R169, R170, R196, R209, R238 to R240, R246, R262, R281). -/

namespace Sys2Proof.Machine

/-! ### Streams (R169, R170) -/

def Gn.win (g : Gn) (w : Nat) : WinSt := SMap.get (fun _ => WinSt.init) g.wins w

def Gn.setWin (g : Gn) (w : Nat) (x : WinSt) : Gn := { g with wins := SMap.set (fun _ => WinSt.init) g.wins w x }

/-- The length regime that holds a stamp: when it took effect, its length in ns, when the next one does. -/
def WinSt.regime (x : WinSt) (t : Nat) : Nat × Nat × Nat :=
  let past := x.segs.filter (fun s => decide (s.1 ≤ t))
  let next := ((x.segs.find? (fun s => decide (t < s.1))).map (·.1)).getD (2 ^ 64)
  match past.getLast? with
  | none => (0, 0, next)
  | some s => (s.1, s.2 * 1000, next)

/-- The window of a stamp, [start, stop) and whether it is a short one; none while the stream is off. -/
def WinSt.windowOf (x : WinSt) (t : Nat) : Option (Nat × Nat × Bool) :=
  let (from_, len, next) := x.regime t
  if len = 0 then none
  else
    let first := ceilDiv from_ len * len
    if t < first then some (from_, min first next, true) else some (t / len * len, min (t / len * len + len) next, false)

/-- Closing delay of a window that ends at `stop` (R170): the last value written before its end. -/
def Gn.closeDelay (g : Gn) (w stop : Nat) : Nat :=
  match ((g.win w).closes.filter (fun c => decide (c.1 < stop))).getLast? with
  | some c => c.2
  | none => match (g.win w).closes with
    | c :: _ => c.2
    | [] => g.rg (F.winCfg_closeUs w)

/-- A new length: it takes effect at the end of the current window, or at once on the window that holds now when the stream was off. -/
def WinSt.setLen (x : WinSt) (now us : Nat) : WinSt :=
  match x.windowOf now with
  | some (_, stop, _) => { x with segs := x.segs.filter (fun s => decide (s.1 < stop)) ++ [(stop, us)] }
  | none =>
    if us = 0 then { x with segs := x.segs.filter (fun s => decide (s.1 ≤ now)) }
    else
      let start := now / (us * 1000) * (us * 1000)
      { x with segs := x.segs.filter (fun s => decide (s.1 < start)) ++ [(start, us)], closed := max x.closed start }

/-- WIN_CFG_WRITE (R9, R170): each field keeps its value when the write puts a reserved one there. -/
def Gn.winCfg (g : Gn) (w : Nat) (v : Nat) : Gn :=
  let len := bits v 0 20
  let cl := bits v 20 14
  let okLen := len == 0 || (decide (10 ≤ len) && decide (len ≤ 1000000))
  let okCl := decide (10 ≤ cl) && decide (cl ≤ 10000)
  let x := g.win w
  let g := if okLen && len != g.rg (F.winCfg_lenUs w) then (g.setWin w (x.setLen g.now len)).wr (F.winCfg_lenUs w) len else g
  let x := g.win w
  let old := g.rg (F.winCfg_closeUs w)
  if okCl && cl != old then
    let hist := if x.closes = [] then [(0, old)] else x.closes
    (g.setWin w { x with closes := hist ++ [(g.now, cl)] }).wr (F.winCfg_closeUs w) cl
  else g

def execWinCfgWrite (w : Nat) (v : Word) (s : State) : Host.Outcome State Fault Refusal :=
  gnStep s (fun g => if g.alive then g.winCfg w v.toNat else g)

/-! ### Items -/

/-- Weight epoch of a stamp (R20): a stamp exactly at the change carries the new epoch; before the first tap frame it is 0, as `cur_epoch` reads. -/
def Gn.epochAt (g : Gn) (ht : Nat) : Nat := match (g.rd.epochs.filter (fun e => decide (e.1 ≤ ht))).getLast? with | some e => e.2 | none => 0

/-- Epochs of a window [start, stop) in order: the one before its first change instant, then one for each change inside it, its start included (R20). -/
def Gn.epochsIn (g : Gn) (start stop : Nat) : List Nat :=
  let inside := g.rd.epochs.filter (fun e => decide (start ≤ e.1) && decide (e.1 < stop))
  match inside with
  | [] => [g.epochAt start]
  | e :: _ => (match (g.rd.epochs.filter (fun x => decide (x.1 < e.1))).getLast? with | some x => x.2 | none => 0) :: inside.map (·.2)

/-- Change the window entry (start, epoch), made when it is not there. -/
def WinSt.onWin (x : WinSt) (start epoch : Nat) (f : Win → Win) : WinSt :=
  let is := fun (y : Win) => y.start == start && y.epoch == epoch
  if x.wins.any is then { x with wins := x.wins.map (fun y => if is y then f y else y) }
  else
    let y : Win := { start := start, epoch := epoch, latePrior := 0, bndUnc := 0, tq := 0, replay := 0, dies := [] }
    { x with wins := x.wins ++ [f y] }

/-- A boundary lies within the bound of the stamp's uncertainty (R169). -/
def uncertain (t start stop tq : Nat) : Bool :=
  match uncBound (bits tq 2 3) with
  | none => true
  | some u => decide (t < start + u) || decide (stop ≤ t + u)

/-- One item of a die on one stream (R169, R170). -/
def Gn.itemOn (g : Gn) (w site ht tq : Nat) (replay : Bool) : Gn :=
  let x := g.win w
  match x.windowOf ht with
  | none => g
  | some (start, stop, _) =>
    let unc := uncertain ht start stop tq
    let g := if unc then g.addWrap (F.winCnt_bndUnc w) 1 else g
    if start < x.closed then
      let g := g.addWrap (F.winCnt_late w) 1
      match x.windowOf g.now with
      | none => g
      | some (s, _, _) => g.setWin w (x.onWin s (g.epochAt g.now) (fun y => { y with latePrior := y.latePrior + 1 }))
    else
      g.setWin w (x.onWin start (g.epochAt ht) (fun y =>
        { y with bndUnc := y.bndUnc + b2n unc, tq := tqMerge y.tq tq, replay := y.replay + b2n replay,
                 dies := if y.dies.contains site then y.dies else y.dies ++ [site] }))

/-- The stamp lies in the die's replay-flagged range, half-open (R22). -/
def Gn.replayed (g : Gn) (site ht : Nat) : Bool :=
  g.rd.flagged.any (fun e => e.1 == site && decide (e.2.1 ≤ ht) && decide (ht < e.2.2.2))

/-- The window of a stamp has closed on some stream (R170). -/
def Gn.lateOn (g : Gn) (ht : Nat) : Bool :=
  (List.range 8).any (fun w => match (g.win w).windowOf ht with | some (start, _, _) => decide (start < (g.win w).closed) | none => false)

/-- One item of a die on every stream. -/
def Gn.item (g : Gn) (site ht tq : Nat) : Gn := forEach (List.range 8) (fun w g => g.itemOn w site ht tq (g.replayed site ht)) g

/-! ### Telemetry history (R209) -/

/-- Bytes of the ring of one die: the region past its first 256 MiB, divided among the mapped sites in whole 4 KiB. -/
def Gn.ringBytes (g : Gn) : Nat := (32 * 2 ^ 30 - 256 * 2 ^ 20) / max 1 g.sites.length / 4096 * 4096

/-- Bytes a record takes in its die's ring (R139, R149). -/
def histBytes : HistItem → Nat
  | .sample r => 16 + 8 * r.ctrs.length
  | .progress _ => 16
  | .trace _ _ b => b.length

/-- Add a record to a die's ring, dropping its oldest while it does not fit. -/
def Gn.keep (g : Gn) (site : Nat) (r : HistItem) : Gn :=
  let mine := g.rd.hist.filter (fun e => e.site == site) ++ [⟨site, r⟩]
  let size := fun (l : List Hist) => (l.map (fun e => histBytes e.r)).sum
  let n := ((List.range (mine.length + 1)).find? (fun n => decide (size (mine.drop n) ≤ g.ringBytes))).getD mine.length
  let g := g.onRd (fun d => { d with hist := d.hist.filter (fun e => e.site != site) ++ mine.drop n })
  if n = 0 || g.rd.overwritten.contains site then g else g.onRd (fun d => { d with overwritten := d.overwritten ++ [site] })

/-- SAMPLE_RECORD_FRAME (R170, R209). -/
def Gn.sample (g : Gn) (site : Nat) (r : SampleIn) : Gn := (g.item site r.ht r.tq).keep site (.sample r)

/-- Ingest acts at a tray that takes frames. -/
def Gn.ingests (g : Gn) : Bool := g.takes && g.isTray

def execSampleRecordFrame (site : Nat) (r : SampleIn) (s : State) : Host.Outcome State Fault Refusal :=
  gnStep s (fun g => if !g.ingests then g else if g.frozen then g.park (.sample site r) else g.sample site r)

/-- TRACE_DATA_FRAME: trace goes to telemetry history. -/
def Gn.trace (g : Gn) (site stamp tq : Nat) (b : List Byte) : Gn := g.keep site (.trace stamp tq b)

def execTraceDataFrame (site : Nat) (stamp tq : Nat) (data : List Byte) (s : State) : Host.Outcome State Fault Refusal :=
  gnStep s (fun g => if !g.ingests then g else if g.frozen then g.park (.trace site stamp tq data) else g.trace site stamp tq data)

/-- EVENT_RECORD_FRAME (R262, R319): each record with its die's rank and the block's studio tag. -/
def Gn.events (g : Gn) (site studio : Nat) (rs : List RecIn) : Gn :=
  (forEach rs (fun r g => g.submit prodIngest { r := r, studio := studio, rank := g.siteRank site, var := none }) g).sendRecords rs

/-- At a manager the records are only sent on upward; `site` and `studio` say nothing there. -/
def execEventRecordFrame (site : Nat) (studio : Nat) (recs : List RecIn) (s : State) : Host.Outcome State Fault Refusal :=
  gnStep s (fun g => if !g.takes then g else if !g.isTray then g.sendRecords recs
    else if g.frozen then g.park (.events site studio recs) else g.events site studio recs)

/-! ### Progress records (R22, R238, R239, R281) -/

/-- The flagged range of a die closes at `ht`. -/
def Gn.closeReplay (g : Gn) (site ht : Nat) : Gn :=
  g.onRd (fun d => { d with flagged := d.flagged.map (fun (e : Nat × Nat × Nat × Nat) =>
    if e.1 = site ∧ e.2.2.2 = 2 ^ 64 then (e.1, e.2.1, e.2.2.1, ht) else e) })

/-- What a progress record does to an open range: a completion with no request left, stamped after the latest verdict, or a stall in it. -/
def Gn.progReplay (g : Gn) (site : Nat) (r : ProgIn) : Gn :=
  match g.rd.flagged.find? (fun e => e.1 == site && e.2.2.2 == 2 ^ 64) with
  | none => g
  | some e =>
    if (r.rpDone && r.rpLeft == 0 && decide (e.2.2.1 < r.ht)) || (r.stall && decide (e.2.1 ≤ r.ht)) then g.closeReplay site r.ht else g

def Gn.pulse (g : Gn) (site mon : Nat) : Option Pulse := SMap.get (fun _ => none) g.hl.pulses (site * 256 + mon % 256)

def Gn.setPulse (g : Gn) (site mon : Nat) (x : Option Pulse) : Gn :=
  { g with hl := { g.hl with pulses := SMap.set (fun _ => none) g.hl.pulses (site * 256 + mon % 256) x } }

/-- Time of pulse `c` of a monitor whose count is `c` or `c` + 1. -/
def Pulse.timeOf (x : Pulse) (c : Nat) : Option (Nat × Nat) :=
  if x.count = c then x.last else if x.count = (c + 1) % 2 ^ 32 then x.prev else none

/-- The pair of end pulse `c` at `ht` for phase `p` (R238, R239). -/
def Gn.pair (g : Gn) (site p c ht tq : Nat) : Gn :=
  match (g.pulse site (g.rg (F.hlPhase_monStart p))).bind (fun x => x.timeOf c) with
  | none => g.inc F.hlTray_pairSkip
  | some st =>
    if g.replayed site ht || (bit tq 1 || bit st.2 1) || decide (4 ≤ bits tq 2 3) || decide (4 ≤ bits st.2 2 3) || decide (ht < st.1) then g.inc F.hlTray_excl
    else if g.siteMapped site then
      let d : Dur := { phase := p, d := ht - st.1, rank := g.siteRank site, c := c, ht := ht }
      { g with hl := { g.hl with durs := g.hl.durs ++ [d] } }
    else g

/-- Phases that end at a monitor. -/
def Gn.phasesAt (g : Gn) (mon : Nat) : List Nat := (List.range 16).filter (fun p => g.flag (F.hlPhase_en p) && g.rg (F.hlPhase_monEnd p) == mon)

/-- Pairing of one record: the first one after a link start sets the base; a step of one gives the pulse's time, a longer one, or a stall
record, does not. -/
def Gn.progPair (g : Gn) (site : Nat) (r : ProgIn) : Gn :=
  let c := r.count.toNat
  match g.pulse site r.mon with
  | none => g.setPulse site r.mon (some { count := c, last := none, prev := none })
  | some x =>
    let d := (c + 2 ^ 32 - x.count) % 2 ^ 32
    if d = 0 ∨ 2 ^ 31 ≤ d then g
    else if d = 1 ∧ r.stall = false then
      let g := g.setPulse site r.mon (some { count := c, last := some (r.ht, r.tq), prev := x.last })
      forEach (g.phasesAt r.mon) (fun p g => g.pair site p c r.ht r.tq) g
    else
      let g := g.setPulse site r.mon (some { count := c, last := none, prev := none })
      forEach (g.phasesAt r.mon) (fun _ g => g.addSat F.hlTray_pairSkip d) g

/-- One progress record: the stall's record, evidence and abort (R234, R246, R281), the flagged range, the windows, history when it is late (R170), the pairs. -/
def Gn.progress1 (g : Gn) (site : Nat) (r : ProgIn) : Gn :=
  let rank := g.siteRank site
  let source := rank + r.mon % 256 * 2 ^ 17
  let g := g.progReplay site r
  let g := if r.stall then
      ((g.recordRank prodIngest 0x0D02 4 source rank (lo32 r.ht) (hi32 r.ht) r.winMs 0).evidence site 512 2).tc2Declare
    else g
  let g := if r.recovered then g.recordRank prodIngest 0x0D03 2 source rank (lo32 r.ht) (hi32 r.ht) r.winMs 0 else g
  let g := if g.lateOn r.ht then g.keep site (.progress r) else g
  (g.item site r.ht r.tq).progPair site r

/-- PROGRESS_RECORD_FRAME. -/
def Gn.progress (g : Gn) (site : Nat) (rs : List ProgIn) : Gn := forEach rs (fun r g => g.progress1 site r) g

def execProgressRecordFrame (site : Nat) (recs : List ProgIn) (s : State) : Host.Outcome State Fault Refusal :=
  gnStep s (fun g => if !g.ingests then g else if g.frozen then g.park (.progress site recs) else g.progress site recs)

/-- A link start of a die route: the pairing state goes (R238), an open flagged range closes (R22). -/
def Gn.pulseReset (g : Gn) (site : Nat) : Gn :=
  let g := { g with hl := { g.hl with pulses := g.hl.pulses.filter (fun (e : Nat × Option Pulse) => e.1 / 256 != site) } }
  g.closeReplay site g.now

/-! ### What was parked during a freeze (R173) -/

def Gn.deliver1 (g : Gn) : Parked → Gn
  | .sample site r => g.sample site r
  | .trace site st tq b => g.trace site st tq b
  | .events site st rs => g.events site st rs
  | .progress site rs => g.progress site rs
  | .summary p kind x => let r := g.contributeIf p (kind == 0) x
                         if r.2 then r.1 else g.park (.summary p kind x)
  | .part site seq part n b => g.exportPart site seq part n b
  | .weight w => g.weight w
  | .keepalive site w => g.keepalive site w
  | .lost site => g.partLost site

/-- Parked arrivals are delivered in order once no freeze holds; a contribution with no room waits on (R220). -/
def Gn.deliver (g : Gn) : Gn :=
  if g.frozen then g else forEach g.parked (fun x g => g.deliver1 x) { g with parked := [] }

/-! ### Closing a window (R20, R170, R240, R246) -/

/-- Sketch of a list of durations. -/
def sketchOf (l : List Nat) : Sketch := l.foldl (fun s x => s.count x) Sketch.empty

/-- The phase series of a window and epoch (R240). -/
def Gn.phaseSeries (g : Gn) (ds : List Dur) : List (Nat × Series) :=
  ((List.range 16).filter (fun p => g.flag (F.hlPhase_en p))).flatMap (fun p =>
    let mine := ds.filter (fun d => d.phase == p)
    let ents := mine.map (fun d => (⟨d.d, d.rank, d.c % 2 ^ 32⟩ : TopEnt))
    [(0x0100 + 2 * p, .sketch (sketchOf (mine.map (·.d)))), (0x0101 + 2 * p, .topk 64 ((ents.mergeSort topLe).take 64))])

/-- Points and cause bits by rank. -/
def byRank (l : List (Nat × Nat × Nat)) : List TopEnt :=
  l.foldl (fun (acc : List TopEnt) e =>
    if acc.any (fun x => x.rank == e.1) then acc.map (fun x => if x.rank = e.1 then { x with val := x.val + e.2.1, aux := x.aux ||| 2 ^ e.2.2 } else x)
    else acc ++ [⟨e.2.1, e.1, 2 ^ e.2.2⟩]) []

/-- The evidence series (R246), and how many dies its list leaves out. -/
def evidenceSeries (l : List TopEnt) : List (Nat × Series) × Nat :=
  ([(0x0200, .topk 64 ((l.mergeSort topLe).take 64)), (0x0201, .sum l.length)], l.length - 64)

/-- Series in ascending identifier, each once. -/
def sortSeries (l : List (Nat × Series)) : List (Nat × Series) := l.foldl (fun acc s => if acc.any (fun e => e.1 == s.1) then acc else SMap.ins acc s.1 s.2) []

/-- The latest cumulative values with those of one series written this window. -/
def putCums (cums : List (Nat × Nat × Nat)) (sid : Nat) (vals : List (Nat × Word)) : List (Nat × Nat × Nat) :=
  vals.foldl (fun acc v => acc.filter (fun e => e.1 != sid || e.2.1 != v.1) ++ [(sid, v.1, v.2.toNat)]) cums

/-- What a graph wrote for a series, as its summary carries it. A CUM series is the sum of the mapped dies' latest values, so that a silent die's last value counts (R216). -/
def Gn.writtenSeries (g : Gn) (cums : List (Nat × Nat × Nat)) (s : Nat × SeriesIn) : Nat × Series :=
  match s.2 with
  | .cum _ => (s.1, .cum (((cums.filter (fun e => e.1 == s.1 && g.siteMapped e.2.1)).map (·.2.2)).sum % 2 ^ 64))
  | .sum v => (s.1, .sum v)
  | .sketch x => (s.1, .sketch x)
  | .topk k es => (s.1, .topk k es)

/-- The stream's latest cumulative values after what the graphs wrote. -/
def Gn.noteCums (g : Gn) (w : Nat) (images : List (Nat × SeriesIn)) : Gn :=
  let x := g.win w
  g.setWin w { x with cums := images.foldl (fun acc s => match s.2 with | .cum vals => putCums acc s.1 vals | _ => acc) x.cums }

/-- The summary of one window and epoch goes out. -/
def Gn.closeEpoch (g : Gn) (w start stop lenUs epoch : Nat) (short epChg : Bool) (images : List (Nat × SeriesIn)) : Gn :=
  let g := g.noteCums w images
  let x := g.win w
  let y := (x.wins.find? (fun y => y.start == start && y.epoch == epoch))
  let inW := fun ht => decide (start ≤ ht) && decide (ht < stop) && g.epochAt ht == epoch
  let own := w == g.rg F.hlSrch_hstream
  let evs := (g.hl.evid.filter (fun e => inW e.1 && g.siteMapped e.2.1)).map (fun e => (g.siteRank e.2.1, e.2.2.1, e.2.2.2))
  let (es, beyond) := evidenceSeries (byRank evs)
  let health := if own then g.phaseSeries (g.hl.durs.filter (fun d => inW d.ht)) ++ es else []
  let g := if own then g.addSat F.hlTray_evOver beyond else g
  let all := sortSeries (health ++ images.map (g.writtenSeries x.cums))
  let parts := if all.isEmpty then [] else cutParts [] all
  let dies := match y with | some y => y.dies.filter g.siteMapped | none => []
  forEach parts.zipIdx (fun (p : List (Nat × Series) × Nat) g =>
    let s : Summary :=
      { win := start, lenUs := lenUs, epoch := epoch, stream := w, epChg := epChg, short := short, partialF := false, lateF := false, foster := false,
        decim := 0, tq := match y with | some y => y.tq | none => 0,
        level := 0, origin := g.node, dies := dies.length, diesExp := g.diesExp, stale := g.sites.length - dies.length,
        bndUnc := match y with | some y => y.bndUnc | none => 0,
        latePrior := match y with | some y => y.latePrior | none => 0,
        replay := match y with | some y => y.replay | none => 0,
        bytes := itemBytes p.1, part := p.2, nparts := parts.length, contrib := 1, series := p.1 }
    g.ownOutput s) g

/-- WINDOW_CLOSE (R170): the oldest window not closed, once its end + `close_us` has come. `old` and `new` are the series the reference images write for the
epoch before a change inside the window and for the last epoch in it. A change instant in the window, its start included, splits it (R20). -/
def Gn.windowClose (g : Gn) (w : Nat) (old new : List (Nat × SeriesIn)) : Gn :=
  if !g.alive then g else
  let x := g.win w
  match x.windowOf x.closed with
  | none => match x.segs.find? (fun s => decide (x.closed < s.1) && s.2 != 0) with
    | some s => if s.1 ≤ g.now then g.setWin w { x with closed := s.1 } else g
    | none => g
  | some (start, stop, short) =>
    if g.now < stop + g.closeDelay w stop * 1000 then g
    else
      let (_, len, _) := x.regime start
      let es := g.epochsIn start stop
      let g := g.count 2 w
      let g := if !g.isTray then g
        else forEach es.zipIdx (fun e g =>
          g.closeEpoch w start stop (len / 1000) e.1 short (decide (0 < e.2)) (if e.2 + 1 = es.length then new else if e.2 = 0 then old else [])) g
      let g := if w = g.rg F.hlSrch_hstream then
          { g with hl := { g.hl with durs := g.hl.durs.filter (fun d => decide (stop ≤ d.ht)), evid := g.hl.evid.filter (fun e => decide (stop ≤ e.1)) } }
        else g
      let y := g.win w
      let keepSegs := y.segs.filter (fun s => decide (stop < s.1))
      let cur := (y.segs.filter (fun s => decide (s.1 ≤ stop))).getLast?.toList
      let lastClose := (y.closes.filter (fun c => decide (c.1 < stop))).getLast?.toList
      let z : WinSt := { segs := cur ++ keepSegs, closes := lastClose ++ y.closes.filter (fun c => decide (stop ≤ c.1)), closed := stop,
                         wins := y.wins.filter (fun v => decide (stop ≤ v.start)), cums := y.cums }
      ((g.setWin w z).windowToGraphs w start).raiseDecim

def execWindowClose (w : Nat) (old new : List (Nat × SeriesIn)) (s : State) : Host.Outcome State Fault Refusal :=
  gnStep s (fun g => g.windowClose w old new)

end Sys2Proof.Machine
end

