-- ==== Sys2Proof/Machine/Health.lean ====
section
/-! DEFINITION. The health unit at the hall root (chapter 11): straggler test, drift, scores, the run, recommendations, the alarm, operator answers. -/

namespace Sys2Proof.Machine

/-! ### Ranks -/

def rankInit : Rank := { p := 0, st := .active, causes := 0, muteEnd := 0 }

def Gn.hr (g : Gn) (r : Nat) : Rank := SMap.get (fun _ => rankInit) g.hl.ranks r

def Gn.onHl (g : Gn) (f : HlSt → HlSt) : Gn := { g with hl := f g.hl }

def Gn.setHr (g : Gn) (r : Nat) (x : Rank) : Gn := g.onHl (fun h => { h with ranks := SMap.set (fun _ => rankInit) h.ranks r x })

/-- The score s of a penalty (R248). -/
def scoreOf (p : Nat) : Nat := 1023 - min 1023 (p / 256)

/-- Code of a rank state (R250). -/
def RkPh.code : RkPh → Nat
  | .active => 0
  | .candidate => 1
  | .held => 2
  | .emitted => 3
  | .muted => 4
  | .expelled => 5

/-- A rank is queued: CANDIDATE or HELD. -/
def Rank.queued (x : Rank) : Bool := x.st == .candidate || x.st == .held

/-- The queue in its order: score ascending, then rank ascending (R250). -/
def Gn.hQueue (g : Gn) : List Nat :=
  (((g.hl.ranks.filter (fun e => e.2.queued))).mergeSort (fun a b =>
    if scoreOf a.2.p ≠ scoreOf b.2.p then decide (scoreOf a.2.p < scoreOf b.2.p) else decide (a.1 ≤ b.1))).map (·.1)

/-- `source` of a health record (R256). -/
def Gn.hSource (g : Gn) (rank phase : Nat) : Nat := rank + g.rankStudio rank * 2 ^ 20 + phase * 2 ^ 24

/-- A health record other than 0x0B01: studio 0 alone sees it (R255). -/
def Gn.hRecord (g : Gn) (code sev source p0 p1 p2 p3 : Nat) : Gn := g.record prodCore code sev source p0 p1 p2 p3

/-! ### Decay and evidence (R247, R248) -/

/-- `n` minutes of decay. -/
def decayN (f : Nat) : Nat → Nat → Nat
  | 0, p => p
  | n + 1, p => if p = 0 then 0 else decayN f n (p * f / 65536)

/-- Step 2: whole minutes crossed since the last run. -/
def Gn.decay (g : Gn) : Gn :=
  let m := g.now / 60000000000
  let f := g.rg F.hlCfg_decayF
  let n := m - g.hl.minute
  let g := g.onHl (fun h => { h with minute := m })
  forEach g.hl.ranks (fun (e : Nat × Rank) g =>
    let p := decayN f n e.2.p
    g.setHr e.1 { e.2 with p := p, causes := if p = 0 then 0 else e.2.causes }) g

/-- Add points to a rank, with their cause bits; an EXPELLED rank's evidence is discarded. -/
def Gn.addPts (g : Gn) (rank pts causes : Nat) : Gn :=
  let x := g.hr rank
  if x.st = .expelled then g else g.setHr rank { x with p := min (2 ^ 32 - 1) (x.p + 256 * pts), causes := x.causes ||| causes % 256 }

/-- A top-k series of a part list. -/
def topOf (ss : List (Nat × Series)) (sid : Nat) : List TopEnt :=
  match ss.find? (fun e => e.1 == sid) with
  | some (_, .topk _ es) => es
  | _ => []

/-- A sketch of a part list. -/
def sketchIn (ss : List (Nat × Series)) (sid : Nat) : Option Sketch :=
  match ss.find? (fun e => e.1 == sid) with
  | some (_, .sketch x) => some x
  | _ => none

/-- A SUM of a part list. -/
def sumIn (ss : List (Nat × Series)) (sid : Nat) : Nat :=
  match ss.find? (fun e => e.1 == sid) with
  | some (_, .sum v) => v
  | _ => 0

/-- Step 3 for one list: in ascending rank; and whether the window is truncated (R246). -/
def Gn.applyEvidence (g : Gn) (ss : List (Nat × Series)) : Gn × Bool :=
  let es := topOf ss 0x0200
  let g := forEach (es.mergeSort (fun a b => decide (a.rank ≤ b.rank))) (fun e g => g.addPts e.rank e.val e.aux) g
  (g, decide (es.length < sumIn ss 0x0201))

/-! ### The search (R241 to R244) -/

/-- A rank's largest D in a list. -/
def maxD (es : List TopEnt) (rank : Nat) : Option Nat :=
  (es.filter (fun e => e.rank == rank)).foldl (fun (m : Option Nat) e => match m with | none => some e.val | some v => some (max v e.val)) none

/-- The two conditions of R241. -/
def isSlow (ratio minUs m d : Nat) : Bool := decide (ratio * m ≤ 256 * d) && decide (m + minUs * 1000 ≤ d)

/-- The straggler test of one phase (R241, R242): the slow results move on, a rank at `persist` is recorded and given evidence. -/
def Gn.straggler (g : Gn) (p epoch : Nat) (ss : List (Nat × Series)) : Gn :=
  match sketchIn ss (0x0100 + 2 * p) with
  | none => g
  | some sk =>
    if sk.n < 64 then g
    else
      let es := topOf ss (0x0101 + 2 * p)
      let m := sk.quantile 1 2
      let span := g.rg F.hlSrch_span
      let persist := g.rg F.hlSrch_persist
      let slowD := fun r => (maxD es r).filter (isSlow (g.rg F.hlSrch_slowRatio) (g.rg F.hlSrch_slowMinUs) m)
      let known := (g.hl.slow.filter (fun e => e.2.1 == p)).map (·.1)
      let ranks := ((known ++ es.map (·.rank)).eraseDups).mergeSort (fun a b => decide (a ≤ b))
      forEach ranks (fun (r : Nat) g =>
        let old := match g.hl.slow.find? (fun e => e.1 == r && e.2.1 == p) with | some e => e.2.2 | none => []
        let res := ((slowD r).isSome :: old).take span
        let n := (res.filter id).length
        let ent : Nat × Nat × List Bool := (r, p, res)
        let g := g.onHl (fun h => { h with slow := h.slow.filter (fun (e : Nat × Nat × List Bool) => !(e.1 == r && e.2.1 == p)) ++ (if n = 0 then [] else [ent]) })
        let key := r * 16 + p
        let last := (g.hl.slowHt.find? (fun e => e.1 == key)).map (·.2)
        let clear := fun (g : Gn) => g.onHl (fun h => { h with slowHt := h.slowHt.filter (fun (e : Nat × Nat) => e.1 != key) })
        if n < persist then clear g
        else
          let due := match last with | none => true | some t => decide (t + g.rg F.hlJob_evGapS * 1000000000 ≤ g.now)
          match slowD r with
          | none => g
          | some d =>
            if due then
              let g := clear g
              let stamp : Nat × Nat := (key, g.now)
              let g := g.onHl (fun h => { h with slowHt := h.slowHt ++ [stamp] })
              (g.recordRank prodCore 0x0B01 3 (g.hSource r p) r (d / 1000) (m / 1000) epoch (n % 16 + span * 16)).addPts r 32 32
            else g) g

/-- The baseline of a phase and epoch. -/
def Gn.base (g : Gn) (p epoch : Nat) : Option Base := g.hl.bases.find? (fun b => b.phase == p && b.epoch == epoch)

def absDiff (a b : Nat) : Nat := if a ≤ b then b - a else a - b

/-- Drift of one phase over a summary of `wins` windows (R243, R244): compare with the frozen baseline of the epoch, or while it is learning with that of the epoch before; then learn. -/
def Gn.drift (g : Gn) (p epoch wins : Nat) (ss : List (Nat × Series)) : Gn :=
  match sketchIn ss (0x0100 + 2 * p) with
  | none => g
  | some sk =>
    let learn := g.rg F.hlSrch_learnWin
    let frozen := fun b : Base => b.frozen || decide (learn ≤ b.n)
    let own := (g.base p epoch).filter frozen
    let prevs := (g.hl.bases.filter (fun b => b.phase == p && decide (b.epoch < epoch))).mergeSort (fun a b => decide (b.epoch ≤ a.epoch))
    let ref := match own with | some b => some (b, false) | none => (prevs.head?.filter frozen).map (fun b => (b, true))
    let g := match ref with
      | none => g
      | some (b, learning) =>
        if sk.n = 0 ∨ b.sk.n = 0 then g
        else
          let d5 := absDiff (sk.qBucket 1 2) (b.sk.qBucket 1 2)
          let d9 := absDiff (sk.qBucket 99 100) (b.sk.qBucket 99 100)
          let thr := g.rg F.hlSrch_driftB
          let old := match g.hl.drift.find? (fun (e : Nat × List Bool) => e.1 == p) with | some e => e.2 | none => []
          let res := ((decide (thr ≤ d5) || decide (thr ≤ d9)) :: old).take (g.rg F.hlSrch_span)
          let ent : Nat × List Bool := (p, res)
          let g := g.onHl (fun h => { h with drift := h.drift.filter (fun (e : Nat × List Bool) => e.1 != p) ++ [ent] })
          let due := match g.hl.driftHt.find? (fun (e : Nat × Nat) => e.1 == p) with
            | none => true
            | some e => decide (e.2 + g.rg F.hlJob_evGapS * 1000000000 ≤ g.now)
          if g.rg F.hlSrch_persist ≤ (res.filter id).length && due then
            let stamp : Nat × Nat := (p, g.now)
            let g := g.onHl (fun h => { h with driftHt := h.driftHt.filter (fun (e : Nat × Nat) => e.1 != p) ++ [stamp] })
            g.hRecord 0x0B02 3 (p * 2 ^ 24) d5 d9 epoch (b2n learning)
          else g
    match g.base p epoch with
    | some b =>
      let b' : Base := if frozen b then { b with frozen := true } else { b with sk := b.sk.merge sk, n := b.n + wins, frozen := decide (learn ≤ b.n + wins) }
      g.onHl (fun h => { h with bases := h.bases.map (fun x => if x = b then b' else x) })
    | none =>
      let b : Base := { phase := p, epoch := epoch, sk := sk, n := wins, frozen := decide (learn ≤ wins) }
      let keep := match prevs with | x :: _ => x.epoch | [] => epoch
      g.onHl (fun h => { h with bases := h.bases.filter (fun (x : Base) => x.phase != p || decide (keep ≤ x.epoch)) ++ [b] })

/-- Step 4 and the drift search over one epoch's series. -/
def Gn.search (g : Gn) (epoch wins : Nat) (ss : List (Nat × Series)) : Gn :=
  forEach ((List.range 16).filter (fun p => g.flag (F.hlPhase_en p))) (fun p g => (g.straggler p epoch ss).drift p epoch wins ss) g

/-! ### Candidates, alarm, emission (R250 to R253) -/

/-- A rank leaves the queue by its score. -/
def Gn.leave (g : Gn) (r : Nat) : Gn :=
  let x := g.hr r
  if x.queued && decide (g.rg F.hlCfg_recThr + 32 ≤ scoreOf x.p) then
    (g.setHr r { x with st := .active }).hRecord 0x0B13 2 (g.hSource r 0) (scoreOf x.p) 0 0 0
  else g

/-- A rank joins the queue; of 1,025 the last in the order goes back to ACTIVE. -/
def Gn.join (g : Gn) (r : Nat) : Gn :=
  let x := g.hr r
  if x.st = .active && decide (scoreOf x.p < g.rg F.hlCfg_recThr) then
    let g := g.setHr r { x with st := if g.flag F.hlJob_alarm then .held else .candidate }
    let q := g.hQueue
    if 1024 < q.length then
      match q.getLast? with
      | some l => (g.setHr l { g.hr l with st := .active }).inc F.hlCnt_qDrop
      | none => g
    else g
  else g

/-- Step 5. -/
def Gn.candidates (g : Gn) : Gn :=
  let rs := g.hl.ranks.map (·.1)
  forEach rs (fun r g => g.join r) (forEach rs (fun r g => g.leave r) g)

/-- Raise the alarm (R253): every CANDIDATE is HELD; record 0x0B20. -/
def Gn.raiseAlarm (g : Gn) (trig : Nat) : Gn :=
  let n := g.hQueue.length
  let g := (g.put F.hlJob_alarm true).wr F.hlJob_trig (g.rg F.hlJob_trig ||| trig)
  let g := g.onHl (fun h => { h with ranks := h.ranks.map (fun (e : Nat × Rank) => if e.2.st = .candidate then (e.1, { e.2 with st := .held }) else e) })
  (g.hRecord 0x0B20 5 0 (g.rg F.hlJob_trig) n (g.hl.lastSum % 2 ^ 32) g.hl.lastEpoch).vec5 false

/-- Step 6: the triggers CAND and TRUNC. -/
def Gn.triggers (g : Gn) (trunc : Bool) : Gn :=
  let t := 2 * b2n (decide (g.rg F.hlCfg_sysCand ≤ g.hQueue.length)) + 4 * b2n trunc
  if t = 0 then g
  else if g.flag F.hlJob_alarm then g.wr F.hlJob_trig (g.rg F.hlJob_trig ||| t)
  else g.raiseAlarm t

/-- The floor of R252. -/
def Gn.floorRanks (g : Gn) : Nat := ceilDiv (g.rg F.hlJob_nJob * g.rg F.hlCfg_floorPm) 1000

/-- Recommendations emitted in the last `quota_min` minutes. -/
def Gn.recent (g : Gn) : Nat := (g.hl.emits.filter (fun t => decide (g.now < t + g.rg F.hlCfg_quotaMin * 60000000000))).length

/-- Emit one recommendation (R251, R344, R345). -/
def Gn.emit (g : Gn) (r : Nat) : Gn :=
  let x := g.hr r
  let s := scoreOf x.p
  let n := g.hl.emitSeq
  let g := (g.setHr r { x with st := .emitted }).onHl (fun h => { h with emits := h.emits ++ [g.now], emitSeq := (n + 1) % 2 ^ 32 })
  let g := ((g.wr F.hlJob_pend (g.rg F.hlJob_pend + 1)).inc F.hlCnt_emitted).hRecord 0x0B10 2 (g.hSource r 0) s x.p x.causes n
  g.unsolicited 0 0 0x32 g.now [r, s, x.causes, x.p, n]

/-- Step 7 over the queue: the floor first, then the quota. -/
def Gn.emitAll (g : Gn) : List Nat → Gn
  | [] => g
  | r :: rest =>
    if g.rg F.hlJob_active < g.rg F.hlJob_pend + 1 + g.floorRanks then
      let x := g.hr r
      let g := (g.setHr r { x with st := .held }).hRecord 0x0B11 3 (g.hSource r 0) (scoreOf x.p) (g.rg F.hlJob_active) (g.rg F.hlJob_pend) g.floorRanks
      g.raiseAlarm 1
    else if g.rg F.hlCfg_quota ≤ g.recent ∨ 1023 ≤ g.rg F.hlJob_pend then g.inc F.hlCnt_quotaDef
    else (g.emit r).emitAll rest

def Gn.recommend (g : Gn) : Gn :=
  let g := g.onHl (fun h => { h with emits := h.emits.filter (fun t => decide (g.now < t + 1440 * 60000000000)) })
  if g.flag F.hlJob_alarm || g.rg F.hlJob_nJob == 0 then g else g.emitAll (g.hQueue.filter (fun r => (g.hr r).st == .candidate))

/-! ### Operator answers (R254) -/

/-- A rank leaves EMITTED: E falls by 1. -/
def Gn.unEmit (g : Gn) (r : Nat) : Gn := if (g.hr r).st = .emitted then g.wr F.hlJob_pend (g.rg F.hlJob_pend - 1) else g

/-- DECLINE of one rank. -/
def Gn.declineRank (g : Gn) (r muteMin : Nat) : Gn :=
  let g := g.unEmit r
  g.setHr r { p := 0, st := .muted, causes := 0, muteEnd := g.now + muteMin * 60000000000 }

/-- The effect of one answer. -/
def Gn.answerEffect (g : Gn) (code rank arg : Nat) : Gn :=
  let x := g.hr rank
  let a := g.rg F.hlJob_active
  if code = 1 then
    if x.st = .expelled then g
    else ((g.unEmit rank).setHr rank { x with st := .expelled }).wr F.hlJob_active (a - 1)
  else if code = 2 then g.declineRank rank arg
  else if code = 3 then forEach (g.hQueue.filter (fun r => (g.hr r).st == .held)) (fun r g => g.declineRank r arg) g
  else if code = 4 then
    if x.st = .expelled then (g.setHr rank { x with st := .active, p := 0, causes := 0 }).wr F.hlJob_active (min (g.rg F.hlJob_nJob) (a + 1)) else g
  else if code = 5 then
    let was := g.flag F.hlJob_alarm
    let g := (g.put F.hlJob_alarm false).wr F.hlJob_trig 0
    let g := g.onHl (fun h => { h with ranks := h.ranks.map (fun (e : Nat × Rank) => if e.2.st = .held then (e.1, { e.2 with st := .candidate }) else e) })
    g.vec5 was
  else
    let g := ((g.wr F.hlJob_nJob arg).wr F.hlJob_active arg).wr F.hlJob_pend 0
    g.onHl (fun h => { h with ranks := h.ranks.map (fun (e : Nat × Rank) => if e.2.st = .emitted then (e.1, { e.2 with st := .active }) else e) })

/-- One answer applied: its effect, notice record 0x0B21, its completion. -/
def Gn.applyAnswer (g : Gn) (x : Answer) : Gn :=
  let g := g.answerEffect x.code x.rank x.arg
  let g := g.hRecord 0x0B21 2 (g.hSource x.rank 0) x.code x.arg (g.rg F.hlJob_active) (g.rg F.hlJob_pend)
  g.complete 0x14 x.hdr stOk []

/-- An answer is taken at the root; a rank, a mute or a count out of range is INVALID. -/
def Gn.takeAnswer (g : Gn) (h : DescHdr) (code rank arg : Nat) : Gn :=
  let mute := decide (code = 2 ∨ code = 3)
  if decide (131072 ≤ rank) || (mute && (arg == 0 || decide (10080 < arg))) || (decide (code = 6) && decide (131072 < arg)) then g.complete 0x14 h stInvalid []
  else if !g.isTop then g.complete 0x14 h stRefused []
  else
    let a : Answer := { code := code, rank := rank, arg := arg, hdr := h }
    g.onHl (fun x => { x with answers := x.answers ++ [a] })

def answerDesc (h : DescHdr) (code rank arg : Nat) (s : State) : Host.Outcome State Fault Refusal :=
  gnStep s (fun g => g.desc 0x14 ruleS h (fun g => g.takeAnswer h code rank arg))

def execAccept (h : DescHdr) (rank : Nat) (s : State) : Host.Outcome State Fault Refusal := answerDesc h 1 rank 0 s
def execDecline (h : DescHdr) (rank muteMin : Nat) (s : State) : Host.Outcome State Fault Refusal := answerDesc h 2 rank muteMin s
def execDeclineHeld (h : DescHdr) (muteMin : Nat) (s : State) : Host.Outcome State Fault Refusal := answerDesc h 3 0 muteMin s
def execReturnRank (h : DescHdr) (rank : Nat) (s : State) : Host.Outcome State Fault Refusal := answerDesc h 4 rank 0 s
def execClearAlarm (h : DescHdr) (s : State) : Host.Outcome State Fault Refusal := answerDesc h 5 0 0 s
def execSetJob (h : DescHdr) (n : Nat) (s : State) : Host.Outcome State Fault Refusal := answerDesc h 6 0 n s

/-! ### The run (R249) -/

/-- The parts of the oldest complete window. -/
def HlSt.nextWin (h : HlSt) : Option Nat := h.ready.foldl (fun (m : Option Nat) x => match m with | none => some x.win | some w => some (min w x.win)) none

/-- Series of one epoch over its parts. -/
def seriesOf (l : List Summary) (epoch : Nat) : List (Nat × Series) := (l.filter (fun x => x.epoch == epoch)).flatMap (·.series)

/-- Every part of one epoch of a window has been emitted. -/
def allParts (l : List Summary) (epoch : Nat) : Bool :=
  let mine := l.filter (fun x => x.epoch == epoch)
  (List.range (mine.foldl (fun n x => max n x.nparts) 0)).all (fun p => mine.any (fun x => x.part == p))

/-- A part of the window may still come: a rod of `hstream` holds one, or before the end of the last wait an epoch lacks a part, or a window split by an epoch change lacks its
first or its second epoch (R20, R221). -/
def Gn.winOpen (g : Gn) (w : Nat) : Bool :=
  let mine := g.hl.ready.filter (fun x => x.win == w)
  let stop := mine.foldl (fun m x => max m x.stop) 0
  let change := g.rd.epochs.any (fun e => decide (w ≤ e.1) && decide (e.1 < stop) && mine.all (fun x => x.epoch != e.2))
  let lacks := mine.any (fun x => !allParts mine x.epoch || (x.epChg && mine.all (fun y => decide (x.epoch ≤ y.epoch)))) || change
  (g.rd.rods.map (·.x) ++ g.rd.queued.map (·.2.2)).any (fun x => x.hasWin (g.rg F.hlSrch_hstream) w) ||
    (lacks && decide (g.now < stop + g.rg F.rdCfg_waitUs * 1000))

/-- HEALTH_RUN: the seven steps for one window of `hstream`, once, when none of its parts is still gathered (R249). What comes of the window afterwards is late evidence. A late
list that is truncated counts and raises TRUNC as a window does (R246). The marks of windows that have run are kept for 2^37 ns. -/
def Gn.healthRun (g : Gn) : Gn :=
  if !g.alive || !g.isTop then g
  else match g.hl.nextWin with
    | none => g
    | some w =>
      if g.winOpen w then g else
      let parts := g.hl.ready.filter (fun x => x.win == w)
      let late := g.hl.lateEv
      let answers := g.hl.answers
      let g := g.onHl (fun h => { h with ready := h.ready.filter (fun x => x.win != w), lateEv := [], answers := [],
                                         ran := h.ran.filter (fun v => decide (g.now < v + 2 ^ 37)) ++ [w] })
      let g := (forEach answers (fun a g => g.applyAnswer a) g).decay
      let (g, lateTrunc) := late.foldl (fun (acc : Gn × Nat) (x : Summary) =>
        let r := acc.1.applyEvidence x.series
        (r.1, acc.2 + b2n r.2)) (g, 0)
      let epochs := ((parts.map (·.epoch)).eraseDups).mergeSort (fun a b => decide (a ≤ b))
      let (g, trunc) := epochs.foldl (fun (acc : Gn × Bool) e =>
        let ss := seriesOf parts e
        let (g, t) := acc.1.applyEvidence ss
        (g.onHl (fun h => { h with lastSum := sumIn ss 0x0201, lastEpoch := e }), acc.2 || t)) (g, false)
      let g := g.addSat F.hlCnt_evTrunc (lateTrunc + b2n trunc)
      let g := forEach epochs (fun e g => g.search e (parts.foldl (fun n x => if x.epoch = e then max n (2 ^ x.decim) else n) 1) (seriesOf parts e)) g
      (g.candidates.triggers (trunc || decide (0 < lateTrunc))).recommend

def execHealthRun (s : State) : Host.Outcome State Fault Refusal := gnStep s Gn.healthRun

/-- MUTE_END (R250). -/
def Gn.muteEnds (g : Gn) (r : Nat) : Gn :=
  let x := g.hr r
  if x.st = .muted && decide (x.muteEnd ≤ g.now) then g.setHr r { x with st := .active, muteEnd := 0 } else g

def execMuteEnd (rank : Nat) (s : State) : Host.Outcome State Fault Refusal := gnStep s (fun g => if g.alive then g.muteEnds rank else g)

end Sys2Proof.Machine
end

