-- ==== Sys2Proof/Machine/Sitting.lean ====
section
/-! DEFINITION. Sittings at the module (chapter 08, R171 to R180). -/

namespace Sys2Proof.Machine

/-- Cause bits of R177. -/
def cReqLate : Nat := 1
def cRefused : Nat := 2
def cOverrun : Nat := 4
def cChanOpen : Nat := 8
def cLinkFast : Nat := 32
def cTimeInvalid : Nat := 64
def cLinkLost : Nat := 128

def Gn.sit (g : Gn) (ident : Nat) : Option Sit := g.sits.find? (fun x => x.id == ident)

def Gn.setSit (g : Gn) (x : Sit) : Gn := { g with sits := g.sits.map (fun y => if y.id = x.id then x else y) }

def Gn.dropSit (g : Gn) (ident : Nat) : Gn := { g with sits := g.sits.filter (fun y => y.id != ident) }

/-- Incoming links of a sitting's scope: die routes at a tray, primary child ports at a manager, the parent's port. -/
def Gn.sitLinks (g : Gn) (x : Sit) : List LinkRef :=
  (if g.isTray then g.sites.map LinkRef.site else (g.portsOf 2).map LinkRef.port) ++ (if x.hdr.isNone then (g.portsOf 4).map LinkRef.port else [])

def Gn.linkUp (g : Gn) : LinkRef → Bool
  | .port p => g.portUp p
  | .site s => g.siteUp s && g.portUp (g.sitePort s)

def Gn.sitCapable (g : Gn) : LinkRef → Bool
  | .port p => g.flag (F.tmPort_sitOk p)
  | .site s => g.flag (F.tmSite_sitOk s)

/-- A request goes down: to child modules, or from a tray to every block of its rank map. -/
def Gn.forwardSit (g : Gn) (ident t : Nat) : Gn :=
  if g.isTray then forEach g.sites (fun s g => g.sendSite s 0x18 (leBytes 8 (ident % 256) ++ leBytes 8 t)) g
  else forEach g.upChildren (fun p g => g.sendPort p 0x18 (leBytes 8 (ident % 256) ++ leBytes 8 t)) g

def Sit.fresh (ident t : Nat) (st : SitPhase) (hdr : Option DescHdr) (cause : Nat) : Sit :=
  { id := ident, t := t, st := st, hdr := hdr, cause := cause, dieCause := [], closed := [], sent := [], chan := [], images := [], snap := [], tq := 0, tqIsl := 0, queues := [],
    reports := [], lost := [], reported := false, drop := false }

/-! ### Reports (R178, R235) -/

/-- Dies routed to a child port. -/
def Gn.diesAt (g : Gn) (p : Nat) : Nat := (g.rd.ranks.filter (fun e => bits e.2.toNat 0 8 == p)).length

/-- One part of the subtree: causes, dies complete, dies incomplete. -/
def Gn.sitPart (g : Gn) (x : Sit) (p : Nat) : Nat × Nat × Nat :=
  let own := x.common ||| x.linkMask p
  let r := (x.reports.find? (fun e => e.1 == p)).map (·.2)
  match r with
  | some r => if own = 0 then (r.cause, r.complete, r.incomplete) else (own ||| r.cause, 0, r.complete + r.incomplete)
  | none => (own ||| cLinkLost, 0, g.diesAt p)

/-- The node's report on a sitting. -/
def Gn.sitReport (g : Gn) (x : Sit) : SitReport :=
  if g.isTray then
    let ms := g.sites.map (fun s => x.mask s)
    let bad := (ms.filter (fun m => m != 0)).length
    { ident := x.id, cause := ms.foldl (fun a m => a ||| m) x.common, tq := x.images.foldl (fun t e => tqMerge t e.2.tq) g.tq, complete := ms.length - bad, incomplete := bad }
  else
    let parts := (g.portsOf 2).map (fun p => g.sitPart x p)
    { ident := x.id, cause := parts.foldl (fun a p => a ||| p.1) x.common, tq := x.reports.foldl (fun t r => tqMerge t r.2.tq) g.tq,
      complete := (parts.map (·.2.1)).sum, incomplete := (parts.map (·.2.2)).sum }

/-- A report goes to the parent. -/
def Gn.sendSitReport (g : Gn) (r : SitReport) : Gn := g.sendReport 0x1D
  (leBytes 1 r.ident ++ leBytes 1 r.cause ++ leBytes 2 (r.tq % 32) ++ leBytes 4 r.complete ++ leBytes 4 r.incomplete ++ leBytes 4 0)

/-- HELD with every child's report in, or counted lost: the report goes up, or SITTING completes. -/
def Gn.trySitReport (g : Gn) (ident : Nat) : Gn :=
  match g.sit ident with
  | none => g
  | some x =>
    let all := g.isTray || (g.portsOf 2).all (fun p => x.lost.contains p || x.reports.any (fun e => e.1 == p))
    if x.st = .held && !x.reported && all then
      let r := g.sitReport x
      let g := g.setSit { x with reported := true }
      match x.hdr with
      | some h => g.complete 0x0D h stOk [r.ident, r.cause, r.tq, r.complete, r.incomplete]
      | none => g.sendSitReport r
    else g

/-- A sitting reaches HELD. -/
def Gn.sitHeld (g : Gn) (x : Sit) : Gn :=
  let any := x.cause != 0 || x.dieCause.any (fun e => e.2 != 0)
  let g := (g.setSit { x with st := .held }).wr F.sitStat_lastId x.id
  let g := if any then g.inc F.sitStat_incompl else g
  (((g.deliver.wakeReads x.id).wakeAggs x.id).trySitReport x.id).pumpAll

/-! ### Requests (R171, R172) -/

/-- SITTING at the requesting node. -/
def Gn.sittingPost (g : Gn) (h : DescHdr) (ident t : Nat) : Gn :=
  if ident = 0 then g.complete 0x0D h stInvalid []
  else if !g.timeValid || decide (t < g.now + 50000) || decide (8 ≤ g.sits.length) || (g.sit ident).isSome then
    (g.inc F.sitStat_refused).complete 0x0D h stRefused []
  else
    let x := Sit.fresh ident t .armed (some h) 0
    ({ g with sits := g.sits ++ [x] } : Gn).forwardSit ident t

def execSitting (h : DescHdr) (ident t : Nat) (s : State) : Host.Outcome State Fault Refusal :=
  gnStep s (fun g => g.desc 0x0D ruleS h (fun g => g.sittingPost h ident t))

/-- Every die of the subtree counted incomplete for one cause. -/
def Gn.refuseSit (g : Gn) (ident cause : Nat) : Gn :=
  g.sendSitReport { ident := ident, cause := cause, tq := g.tq, complete := 0, incomplete := g.diesExp }

/-- SITTING_REQUEST_FRAME from the parent. In Deep idle and Maintenance every die is lost (R310, R352). -/
def Gn.sittingRequest (g : Gn) (ident t : Nat) : Gn :=
  if g.rg F.pwState_pstate = 2 ∨ g.acc = 2 then g.refuseSit ident cLinkLost
  else if 8 ≤ g.sits.length ∨ (g.sit ident).isSome then (g.inc F.sitStat_refused).refuseSit ident cRefused
  else
    let g := g.wake
    let late := decide (t ≤ g.now)
    let x := Sit.fresh ident t .armed none (if late then cReqLate else 0)
    let g := ({ g with sits := g.sits ++ [x] } : Gn).forwardSit ident t
    if late then g.sitHeld x else g

def execSittingRequestFrame (ident t : Nat) (s : State) : Host.Outcome State Fault Refusal :=
  gnStep s (fun g => if g.alive then g.sittingRequest ident t else g)

/-! ### The freeze (R173 to R177) -/

/-- Release a die: its route has closed, or the freeze has ended (R143, R175). -/
def Gn.releaseDie (g : Gn) (ident : Nat) : LinkRef → Gn
  | .site s => g.sendSite s 0x1B (leBytes 1 ident ++ leBytes 1 0)
  | .port _ => g

/-- The freeze ends: links still open get CHAN_OPEN, their dies are released, and the sitting is HELD. -/
def Gn.endFreeze (g : Gn) (x : Sit) : Gn :=
  let openL := (g.sitLinks x).filter (fun l => !x.closed.contains l)
  let y := { x with dieCause := openL.foldl (fun c l => orCause c (linkCode l) cChanOpen) x.dieCause, st := .held }
  (forEach openL (fun l g => g.releaseDie x.id l) (g.setSit y)).sitHeld y

/-- The freeze ends once every incoming link has closed. -/
def Gn.checkFreeze (g : Gn) (ident : Nat) : Gn :=
  match g.sit ident with
  | none => g
  | some x => if x.st = .frozen && (g.sitLinks x).all (fun l => x.closed.contains l) then g.endFreeze x else g

/-- Head and tail of every ingest, reduction and completion queue (R173 step 2): items that wait for a decompressor by port, contributions that wait for a rod
(64), arrivals parked (65), completion rings (128 + function × 4 + queue). -/
def Gn.queueMarks (g : Gn) : List (Nat × Nat × Nat) :=
  (List.range 38).map (fun p => (p, 0, (g.port p).heldZ.length)) ++ [(64, 0, g.rd.queued.length), (65, 0, g.parked.length)]
    ++ (List.range 64).map (fun k => (128 + k, (g.cq (k / 4) (k % 4)).head, g.rg (F.hqCqs_tail (k / 4) (k % 4))))

/-- Time quality of an entry of a sitting's counter image: a cluster island's entry carries code 2, or the code that covers its 16 ns and the holdover's growth
together (R167, R173). -/
def Sit.entryTq (x : Sit) (key : Nat) : Nat := if 0x100000 ≤ key / 64 % 2 ^ 21 then x.tqIsl else x.tq

/-- SITTING_FREEZE at the node's reading of T: the counters are copied (a sitting of the same T shares the capture, R178), the queues' heads and tails recorded, links
out of service are LINK_LOST, links not sitting-capable LINK_FAST. A node whose time is invalid captures nothing (R176). -/
def Gn.sittingFreeze (g : Gn) (ident : Nat) : Gn :=
  match g.sit ident with
  | none => g
  | some x =>
    if x.st ≠ .armed ∨ g.now < x.t then g
    else if !g.timeValid then g.sitHeld { x with cause := x.cause ||| cTimeInvalid }
    else
      let ls := g.sitLinks x
      let down := ls.filter (fun l => !g.linkUp l)
      let fast := ls.filter (fun l => g.linkUp l && !g.sitCapable l)
      let c := down.foldl (fun c l => orCause c (linkCode l) cLinkLost) x.dieCause
      let c := fast.foldl (fun c l => orCause c (linkCode l) cLinkFast) c
      let shot := match g.sits.find? (fun y => y.t == x.t && y.snap != []) with
        | some y => (y.snap, y.tq, y.tqIsl)
        | none => (g.regs, g.tq, g.tqCovering 16)
      let shut := x.closed ++ down.filter (fun l => !x.closed.contains l)
      let y := { x with st := .frozen, dieCause := c, closed := shut, snap := shot.1, tq := shot.2.1, tqIsl := shot.2.2, queues := g.queueMarks }
      (g.setSit y).checkFreeze ident

def execSittingFreeze (ident : Nat) (s : State) : Host.Outcome State Fault Refusal :=
  gnStep s (fun g => if g.alive then g.sittingFreeze ident else g)

/-- The links a marker leaves on: child modules, and the parent when the sitting came from there. -/
def Gn.markerLink (g : Gn) (x : Sit) : LinkRef → Bool
  | .port p => g.portUse p == 2 || (g.portUse p == 4 && x.hdr.isNone)
  | .site _ => false

/-- SITTING_MARKER_SEND (R174): after T, once no frame built before T is queued on the link, once per link. -/
def Gn.markerSend (g : Gn) (l : LinkRef) (ident : Nat) : Gn :=
  match l, g.sit ident with
  | .port p, some x =>
    if x.st = .armed || x.snap == [] || x.sent.contains l || !g.markerLink x l || (g.port p).sendQ.any (fun f => decide (extStamp g.now f.stamp < x.t)) then g
    else (g.setSit { x with sent := x.sent ++ [l] }).sendPort p 0x19 (leBytes 8 x.t ++ leBytes 1 ident ++ leBytes 7 1)
  | _, _ => g

def execSittingMarkerSend (l : LinkRef) (ident : Nat) (s : State) : Host.Outcome State Fault Refusal :=
  gnStep s (fun g => if g.alive then g.markerSend l ident else g)

/-- A link of a sitting closes with a cause (0: in good order); its die is released. -/
def Gn.closeLink (g : Gn) (x : Sit) (l : LinkRef) (cause : Nat) : Gn :=
  if x.st = .held || x.closed.contains l || !g.inScope x l then g
  else
    let y := { x with closed := x.closed ++ [l], dieCause := if cause = 0 then x.dieCause else orCause x.dieCause (linkCode l) cause }
    ((g.setSit y).releaseDie x.id l).checkFreeze x.id

/-- SITTING_MARKER_ARRIVAL (R175): a block's marker is its sitting image. -/
def Gn.markerArrival (g : Gn) (l : LinkRef) (ident : Nat) (image : Option SampleIn) : Gn :=
  match g.sit ident with
  | none => g
  | some x =>
    let y := match l, image with
      | .site s, some im => if x.st = .held || x.images.any (fun e => e.1 == s) then x else { x with images := x.images ++ [(s, im)] }
      | _, _ => x
    (g.setSit y).closeLink y l 0

def execSittingMarkerArrival (l : LinkRef) (ident : Nat) (image : Option SampleIn) (s : State) : Host.Outcome State Fault Refusal :=
  gnStep s (fun g => if g.alive then g.markerArrival l ident image else g)

/-- Cause bit of a block's refusal reason (R141). -/
def refusalCause (reason : Nat) : Nat := if reason = 2 then cReqLate else if reason = 3 then cTimeInvalid else cRefused

/-- A die route closes without an image: no channel state of it is kept (R175). -/
def Gn.closeRoute (g : Gn) (x : Sit) (site cause : Nat) : Gn :=
  g.closeLink { x with chan := x.chan.filter (fun e => e.1 != 64 + site) } (.site site) cause

/-- BLOCK_REFUSAL_FRAME (R141, R175). A refused type other than the sitting request has no effect here. -/
def execBlockRefusalFrame (site ident reason : Nat) (s : State) : Host.Outcome State Fault Refusal :=
  gnStep s (fun g => if !g.alive then g else match g.sit ident with
    | none => g
    | some x => g.closeRoute x site (refusalCause reason))

/-- SITTING_OVERRUN_FRAME (R142, R175). -/
def execSittingOverrunFrame (site ident : Nat) (s : State) : Host.Outcome State Fault Refusal :=
  gnStep s (fun g => if !g.alive then g else match g.sit ident with
    | none => g
    | some x => g.closeRoute x site cOverrun)

/-- A link of every running sitting is lost (R175, R177). -/
def Gn.sitLinkLost (g : Gn) (l : LinkRef) : Gn := forEach g.sits (fun x g => match g.sit x.id with
  | none => g
  | some x => if x.st = .frozen then g.closeLink x l cLinkLost else g) g

/-- SITTING_FREEZE_TIMEOUT: `sit_frz_us` after T. -/
def Gn.freezeTimeout (g : Gn) (ident : Nat) : Gn :=
  match g.sit ident with
  | none => g
  | some x => if x.st = .frozen && decide (x.t + g.rg F.tmCfg_sitFrzUs * 1000 ≤ g.now) then g.endFreeze x else g

def execSittingFreezeTimeout (ident : Nat) (s : State) : Host.Outcome State Fault Refusal :=
  gnStep s (fun g => if g.alive then g.freezeTimeout ident else g)

/-! ### Children's reports -/

/-- SITTING_REPORT_FRAME: merged once per child port, unless the child was counted lost. -/
def Gn.childReport (g : Gn) (p : Nat) (r : SitReport) : Gn :=
  match g.sit r.ident with
  | none => g
  | some x =>
    if g.portUse p ≠ 2 || x.reported || x.lost.contains p || x.reports.any (fun e => e.1 == p) then g
    else (g.setSit { x with reports := x.reports ++ [(p, r)] }).trySitReport r.ident

def execSittingReportFrame (p : Nat) (r : SitReport) (s : State) : Host.Outcome State Fault Refusal :=
  gnStep s (fun g => if g.alive then g.childReport p r else g)

/-- SITTING_REPORT_TIMEOUT: T + 4 × `sit_frz_us` + 1 ms. -/
def Gn.reportTimeout (g : Gn) (ident : Nat) : Gn :=
  match g.sit ident with
  | none => g
  | some x =>
    if g.now < x.t + 4 * g.rg F.tmCfg_sitFrzUs * 1000 + 1000000 then g
    else
      let miss := (g.portsOf 2).filter (fun p => !x.lost.contains p && !x.reports.any (fun e => e.1 == p))
      (g.setSit { x with lost := x.lost ++ miss }).trySitReport ident

def execSittingReportTimeout (ident : Nat) (s : State) : Host.Outcome State Fault Refusal :=
  gnStep s (fun g => if g.alive then g.reportTimeout ident else g)

/-! ### Retirement (R180) -/

/-- The node's part of a retirement: what it held is freed, the descriptor of SITTING ends CANCELLED, children and dies are told; a freeze ends, and
a tray releases the dies it still holds. -/
def Gn.retireSit (g : Gn) (x : Sit) : Gn :=
  let cancel := b2n (x.st == .armed)
  let g := if g.isTray then
      (let free := fun (s : Nat) (g : Gn) =>
        if x.st == .frozen && !x.closed.contains (.site s) then g.sendSite s 0x1B (leBytes 1 x.id ++ leBytes 1 cancel) else g
       forEach g.sites (fun s g => (free s g).sendSite s 0x1C (leBytes 1 x.id ++ leBytes 1 cancel)) g)
    else forEach g.upChildren (fun p g => g.sendPort p 0x1C (leBytes 1 x.id ++ leBytes 1 cancel)) g
  let g := g.dropSit x.id
  let g := match x.hdr with
    | some h => if x.reported then g else g.complete 0x0D h stCancelled []
    | none => g
  ((g.deliver.wakeReads x.id).wakeAggs x.id).pumpAll

/-- SIT_RETIRE (R180): it completes once its frames have arrived at the nodes below; at once where none is to be told. -/
def Gn.sitRetire (g : Gn) (h : DescHdr) (ident : Nat) : Gn :=
  if ident = 0 then g.complete 0x0E h stInvalid []
  else match g.sit ident with
    | none => g.complete 0x0E h stRefused []
    | some x =>
      let g := g.retireSit x
      ({ g with hq := { g.hq with retires := g.hq.retires ++ [(h, ident)] } } : Gn).retireCheck

def execSitRetire (h : DescHdr) (ident : Nat) (s : State) : Host.Outcome State Fault Refusal :=
  gnStep s (fun g => g.desc 0x0E ruleS h (fun g => g.sitRetire h ident))

/-- SITTING_RETIRE_FRAME: a retire or a cancel from the parent; which of the two follows from the sitting's state here. -/
def execSittingRetireFrame (ident : Nat) (_cancel : Bool) (s : State) : Host.Outcome State Fault Refusal :=
  gnStep s (fun g => if !g.alive then g else match g.sit ident with
    | none => g
    | some x => g.retireSit x)

end Sys2Proof.Machine
end

