-- ==== Sys2Proof/Machine/LinkStates.lean ====
section
/-! DEFINITION. Link states, loss, class-0 resending, link start of ports and die routes, report paths (R156, R162 to R164, R184, R185, R191, R193, R228). -/

namespace Sys2Proof.Machine

/-! ### Lanes (R183, R185) -/

/-- Lanes of a port: four, or one for a manager's child port (R18). -/
def Gn.lanes (g : Gn) (p : Nat) : Nat := if p < 32 ∧ g.isTray = false then 1 else 4

/-- Width a port trains at with some lanes excluded: all four, the lower good pair, the lowest good lane. -/
def widthOf (lanes bad : Nat) : Nat :=
  if lanes = 1 then 1
  else if bad = 0 then 4
  else if bad % 4 = 0 ∨ bad / 4 = 0 then 2
  else if bad = 15 then 0 else 1

/-- A failed lane is excluded: the width falls, 0x0905. -/
def Gn.failLane (g : Gn) (p : Nat) (lane : Option Nat) : Gn :=
  match lane with
  | none => g
  | some l =>
    let bad := g.rg (F.lkStat_laneBad p)
    if g.lanes p = 1 || 4 ≤ l || bad.testBit l then g
    else
      let nb := bad ||| 2 ^ l
      let g := g.wr (F.lkStat_laneBad p) nb
      if widthOf 4 nb < widthOf 4 bad then (g.inc (F.lkStat_widthDn p)).record prodLinks 0x0905 3 p (widthOf 4 nb) 0 0 0 else g

/-! ### Report paths (R228) -/

/-- The node's report path follows its ports: up while it stands, foster once up is lost, else held. The root's path is always up. -/
def Gn.movePath (g : Gn) : Gn :=
  if g.isTop then g
  else
    let old := g.rg F.rdStat_path
    let new := if g.portUp 32 then 0 else if g.portUp 33 then 1 else 2
    if old = new then g
    else
      let g := g.wr F.rdStat_path new
      let left := (g.port 32).sendQ
      let g := if new = 1 then forEach left (fun f g => g.queueFrame 33 { f with dst := .port 33 }) (g.setPort 32 { g.port 32 with sendQ := [] }) else g
      if new = 1 then (g.inc F.rdCnt_pathMoves).record prodLinks 0x0A01 2 33 (lo32 g.now) (hi32 g.now) 0 0
      else if new = 0 then (g.inc F.rdCnt_pathMoves).record prodLinks 0x0A02 2 32 (lo32 g.now) (hi32 g.now) 0 0
      else g

/-! ### Loss (R184) -/

/-- A port leaves its frames: half-received ones are discarded, credits reset, queued ones moved to foster or discarded. -/
def Gn.clearPort (g : Gn) (p : Nat) : Gn :=
  let x := g.port p
  let y : Port := { Port.empty with txSeq := x.txSeq, heldZ := x.heldZ, sendQ := if p = 32 ∨ p = 33 then x.sendQ else [] }
  let g := if p < 32 then g.addSat (F.lkErr_rxBad p) x.sendQ.length else g
  let g := if 34 ≤ p then (match x.rx with
    | some r => { g with lk := { g.lk with tapFill := g.lk.tapFill - (if r.ok then r.beads * 64 else 0) } }
    | none => g) else g
  if p = 32 ∧ g.portUp 33 then
    let g := forEach ([1, 2, 3].filter (fun c => x.sendQ.any (fun f => f.cls == c))) (fun c g => g.shaperSettle c) g
    forEach x.sendQ (fun f g => g.queueFrame 33 { f with dst := .port 33 }) (g.setPort 32 { y with sendQ := [] })
  else g.setPort p y

/-- What follows when the die route of a site leaves UP. -/
def Gn.siteDown (g : Gn) (s : Nat) : Gn :=
  if g.rg (F.tmSite_state s) = 0 then g
  else ((g.wr (F.tmSite_state s) 0).loseLive s).sitLinkLost (.site s)

/-- A port goes to DOWN: everything that hangs on it (R163, R175, R184, R209, R228, R232, R299). -/
def Gn.portDown (g : Gn) (p : Nat) : Gn :=
  let g := (g.wr (F.lkStat_state p) 0).wr (F.lkStat_width p) 0
  let g := if p < 34 then { g.wr (F.tmPort_state p) 0 with tm := g.tm.drop p, rd := { g.rd with fosters := g.rd.fosters.filter (fun q => q != p) } } else g
  let g := g.clearPort p
  let g := if p = 32 then { g.put F.ckStat_upQ false with pw := { g.pw with upGates := 0 } }
    else if p = 33 then { g.put F.ckStat_fosQ false with pw := { g.pw with fosGates := 0 } } else g
  let g := if g.portUse p = 1 then forEach (g.sites.filter (fun s => g.sitePort s == p)) (fun s g => g.siteDown s) g else g
  let g := (if p = 32 ∨ p = 33 then g.checkHoldover.movePath else g).sitLinkLost (.port p)
  (forEach g.rd.bcs (fun b g => g.tryReport b.a.origin b.a.bid) g).retireCheck.advertise

/-- A port in service is lost (R184): error record 0x0904. -/
def Gn.losePort (g : Gn) (p : Nat) (lane : Option Nat) : Gn :=
  if g.rg (F.lkStat_state p) = 5 then ((g.record prodLinks 0x0904 4 p 0 0 0 0).portDown p).failLane p lane else g

/-- CLASS0_RESEND_TIMEOUT (R191): 1 µs without an acknowledgment: the frame is sent again as it was, with credits of its class (R190); after the second
sending the link is lost. -/
def Gn.resend (g : Gn) (p src seq : Nat) : Gn :=
  let x := g.port p
  let is := fun u : Unack => u.src == src && u.seq == seq
  match x.unack.find? is with
  | none => g
  | some u =>
    if u.sent = 1 then
      if x.hasCredit u.f then
        let y := { x with unack := updateFirst is (fun u => { u with sent := 2 }) x.unack, cred := x.cred.zipIdx.map (fun e => if e.2 = 0 then e.1 - u.f.beads else e.1) }
        ((g.setPort p y).inc (F.lkStat_r0Resend p)).emitOut (.frame u.f.dst u.f.flits)
      else g
    else g.losePort p none

def execClass0ResendTimeout (p src seq : Nat) (s : State) : Host.Outcome State Fault Refusal :=
  gnStep s (fun g => if g.alive then g.resend p src seq else g)

/-! ### Training (R184, R193) -/

/-- The arbiter index of a port's shaped queues: up 0, foster 1. -/
def upIdx (p : Nat) : Option Nat := if p = 32 then some 0 else if p = 33 then some 1 else none

/-- LINK_TRAIN_START: a port the topology names leaves DOWN, on the lanes not excluded; the up and foster lanes of the hall root stay idle (R18); heads that the width makes impossible go at once (R200). -/
def Gn.trainStart (g : Gn) (p : Nat) : Gn :=
  if g.portUse p = 0 ∨ g.rg (F.lkStat_state p) ≠ 0 ∨ (g.isTop ∧ 32 ≤ p ∧ p < 34) then g
  else
    let g := ((g.wr (F.lkStat_state p) 1).wr (F.lkStat_width p) (widthOf (g.lanes p) (g.rg (F.lkStat_laneBad p)))).inc (F.lkStat_restarts p)
    let g := match upIdx p with | some u => g.dropAllHeads u | none => g
    if p < 34 then g.wr (F.tmPort_state p) 1 else g

def execLinkTrainStart (p : Nat) (s : State) : Host.Outcome State Fault Refusal := gnStep s (fun g => if g.alive then g.trainStart p else g)

/-- LINK_TRAIN_DONE: TRAIN to ALIGN. A peer's port of one lane, as a foster parent's child port may be (R227), makes the width 1. In compatibility mode a TC-2
collector on a child port is known from its training (R234; the topology has no entry for it: DESIGN CHOICE, assumption log 42). -/
def Gn.trainDone (g : Gn) (p : Nat) (peer : TrainPeer) : Gn :=
  if g.rg (F.lkStat_state p) = 1 then
    let g := g.wr (F.lkStat_state p) 2
    let cs := g.lk.collectors.filter (fun q => q != p)
    let g : Gn := { g with lk := { g.lk with collectors := if peer = .collector ∧ g.flag F.rdCfg_tc2 = true then cs ++ [p] else cs } }
    if peer = .full then g
    else
      let g := g.wr (F.lkStat_width p) 1
      match upIdx p with | some u => g.dropAllHeads u | none => g
  else g

def execLinkTrainDone (x : Trained) (s : State) : Host.Outcome State Fault Refusal :=
  gnStep s (fun g => if g.alive then g.trainDone x.port x.peer else g)

/-- LINK_ALIGN_DONE: ALIGN to CREDIT, or a tap group straight to UP. -/
def Gn.alignDone (g : Gn) (p : Nat) : Gn :=
  if g.rg (F.lkStat_state p) = 2 then g.wr (F.lkStat_state p) (if 34 ≤ p then 5 else 3) else g

def execLinkAlignDone (p : Nat) (s : State) : Host.Outcome State Fault Refusal := gnStep s (fun g => if g.alive then g.alignDone p else g)

/-- The receive credit a port of a Ginath advertises per class: 4,096 beads in all (R190). -/
def classCredit : List Nat := [64, 512, 2048, 1472]

/-- The credit a port advertises: its buffer but for the compressed items that still wait in it. -/
def Port.room (x : Port) : List Nat :=
  (List.range 4).map (fun c => classCredit.getD c 0 - ((x.heldZ.filter (fun a => a.cls == c)).map (fun a => a.beads)).sum)

/-- LINK_CREDIT_DONE: both sides have advertised their receive credits, this one in a link-control frame that needs none yet; the peer's are held; CREDIT to
TIME. -/
def Gn.creditDone (g : Gn) (p : Nat) (cred : List Nat) : Gn :=
  if g.rg (F.lkStat_state p) = 3 then
    let g := (g.putFrame p (g.newFrame (.port p) 0x01 (linkCtlBody (g.port p).room []))).1
    let c := addCred [0, 0, 0, 0] cred
    let g := (g.setPort p { g.port p with cred := c, whole := c, owed := [0, 0, 0, 0] }).wr (F.lkStat_state p) 4
    if g.childPort p then g.timeAsk p else g
  else g

def execLinkCreditDone (p : Nat) (cred : List Nat) (s : State) : Host.Outcome State Fault Refusal :=
  gnStep s (fun g => if g.alive then g.creditDone p cred else g)

/-- LINK_STATE_TIMEOUT: a state's limit has passed and the attempt leaves nothing behind; a lane that failed in TRAIN or ALIGN is excluded. -/
def Gn.stateTimeout (g : Gn) (p : Nat) (lane : Option Nat) : Gn :=
  let st := g.rg (F.lkStat_state p)
  if st = 0 ∨ st = 5 then g
  else
    let g := (g.wr (F.lkStat_state p) 0).wr (F.lkStat_width p) 0
    let g := if p < 34 then { g.wr (F.tmPort_state p) 0 with tm := g.tm.drop p } else g
    let g := g.clearPort p
    if st ≤ 2 then g.failLane p lane else g

def execLinkStateTimeout (p : Nat) (lane : Option Nat) (s : State) : Host.Outcome State Fault Refusal :=
  gnStep s (fun g => if g.alive then g.stateTimeout p lane else g)

/-! ### Link start (R156, R162 to R164) -/

/-- The link-start result of a link in its register: `dmin`, and whether the smaller direction is at least 40 ns; a link that is not
sitting-capable is warned of (record kind 4). -/
def Gn.setLinkStart (g : Gn) (l : LinkRef) (mean d2 : Int) : Gn :=
  let a := g.asymOf l
  let ok := decide (40 * 2 * 65536 * 1000 ≤ d2 * 1000 - (if a < 0 then -a else a) * 65536)
  let dmin := (min 0xFFFF (d2 / 8192).toNat)
  let g := { g with tm := g.tm.keepDelay (linkCode l) mean d2 }
  let g := match l with
    | .port p => (g.wr (F.tmPort_dmin p) dmin).put (F.tmPort_sitOk p) ok
    | .site s => (g.wr (F.tmSite_dmin s) dmin).put (F.tmSite_sitOk s) ok
  if ok then g else g.record prodTime (Config.recCode 4).toNat 3 (linkCode l) dmin 0 0 0

/-- The result of the exchanges gathered on a link, taken and dropped. -/
def Gn.takeLinkStart (g : Gn) (l : LinkRef) : Gn × Option Int :=
  match g.tm.linkStart (linkCode l) with
  | none => (g, none)
  | some (th2, mean, d2) => (({ g with tm := g.tm.drop (linkCode l) } : Gn).setLinkStart l mean d2, some th2)

/-- LINK_START_DONE of a port: TIME to UP. On the port the node takes its time from the 32 exchanges must be in, and an invalid time is set by a step;
after a misalignment the port is UP already and the step is a resynchronisation. The upstream port's result counts whatever source stands (R163). -/
def Gn.portStart (g : Gn) (p : Nat) : Gn :=
  let st := g.rg (F.lkStat_state p)
  let again := st == 5 && g.rg (F.tmPort_state p) == 1
  if !(st == 4 || again) || 34 ≤ p then g
  else
    let child := g.childPort p
    let (g', r) := g.takeLinkStart (.port p)
    if child && r.isNone then g
    else
      let g := (g'.wr (F.lkStat_state p) 5).wr (F.tmPort_state p) 2
      let g := match r with
        | some th2 =>
          if child && !g.timeValid && (p == 32 || g.timePort == some p || g.timePort.isNone) then
            let g := g.setTime (thFix th2)
            let g := if again then g.inc F.tmStat_resync else g
            if p = 33 then g.useSource 2 else if p = 32 then g.useSource 1 else g
          else g
        | none => g
      let g := if p = 32 ∧ g.rg F.tmStat_src ≠ 0 ∧ g.timeValid = true then g.useSource 1 else g
      let starting := g.sites.filter (fun s => g.portUse p == 1 && g.sitePort s == p && g.rg (F.tmSite_state s) == 0)
      let g := forEach starting (fun s (g : Gn) => g.wr (F.tmSite_state s) 1) g
      (if p = 32 ∨ (p = 33 ∧ g.rg F.rdStat_path = 2) then g.movePath.flushHold else g).advertise

/-- Words of a Link register as the tray holds them for a block. -/
def Gn.sendCfg (g : Gn) (site off n : Nat) : Gn :=
  g.sendSite site 0x05 (writeBody off ((List.range n).map (fun i => (Config.blockCfg site (off + 4 * i)).toNat)))

/-- Every Link register of a block is rewritten and the palette committed (R156); the studio tag is the tray's own (R155). -/
def Gn.rewriteBlock (g : Gn) (site : Nat) : Gn :=
  let g := g.sendSite site 0x05 (writeBody 0x3800 [g.studioOf (g.siteRank site)])
  let g := forEach ([(0x0410, 1), (0x0900, 64), (0x0A00, 64), (0x1000, 1), (0x1008, 2), (0x2000, 64), (0x2100, 64), (0x2200, 64), (0x2300, 64),
    (0x2410, 1)] : List (Nat × Nat)) (fun e g => g.sendCfg site e.1 e.2) g
  g.sendSite site 0x05 (writeBody 0x0800 [(Config.blockCfg site 0x0800).toNat % 2 ^ 30 + 2 ^ 30])

/-- LINK_START_DONE of a die route: the block is served again after its configuration, its seeds and its identity (R3, R22, R110, R115, R135,
R156, R238). Whether traffic of classes 1 to 3 is admitted between the link start and the identity's reply the manual leaves open: it only says that the
identity is read at link start. The model admits it until a reply out of range has come (DESIGN CHOICE, assumption log 41). -/
def Gn.siteStart (g : Gn) (s : Nat) : Gn :=
  if !g.siteMapped s || !g.portUp (g.sitePort s) then g
  else
    let g := (g.loseLive s).sitLinkLost (.site s)
    let g := (g.takeLinkStart (.site s)).1
    let g := (g.wr (F.tmSite_state s) 2).proofSiteReset s
    let g := (g.pulseReset s).rewriteBlock s
    (g.seedsTo s).sendSite s 0x06 (readBody 0 2 tagIdent)

def execLinkStartDone (l : LinkRef) (s : State) : Host.Outcome State Fault Refusal :=
  gnStep s (fun g => if !g.alive then g else match l with
    | .port p => g.portStart p
    | .site x => g.siteStart x)

end Sys2Proof.Machine
end

