-- ==== Sys2Proof/Machine/Reset.lean ====
section
/-! DEFINITION. The reset domains (chapter 13, R285 to R288, R347): what each clears, the steps before a reset, and the commands that ask for one.
The image loading of R358 stands here because a die warm reset repeats it. -/

namespace Sys2Proof.Machine

/-! ### What a domain owns -/

/-- The register that holds an offset. -/
def regAt (off : Nat) : Option RegDef :=
  regTable.find? (fun r => decide (r.base ≤ off) &&
    (if r.stride = 0 then off == r.base else (off - r.base) % r.stride == 0 && decide ((off - r.base) / r.stride < r.count)))

/-- Function, offset and low bit of a field's key. -/
def keyFn (k : Nat) : Nat := k / 64 / 2 ^ 21
def keyOff (k : Nat) : Nat := k / 64 % 2 ^ 21
def keyLo (k : Nat) : Nat := k % 64

/-- A field of the i-th copy of a register, of function `fn` where each function has its own. -/
def fieldRef (fn : Nat) (r : RegDef) (i : Nat) (f : Fld) : FRef := ⟨if r.perFn then fn else 0, r.base + r.stride * i, f.lo, f.len⟩

/-- Owner of the register that holds a field (R285, R355). -/
def ownerOf (k : Nat) : Owner := match regAt (keyOff k) with | some r => r.own | none => .cold

/-- A field survives a die warm reset: its register is owned by module cold reset, it is marked S, or it is a register of the event window (R276,
R288). -/
def survivesWarm (k : Nat) : Bool :=
  match regAt (keyOff k) with
  | none => true
  | some r => r.own == .cold || r.own == .const || r.base == 0x60018 ||
      (match r.flds.find? (fun f => f.lo == keyLo k) with | some f => f.src == .survives | none => false)

/-- Keep the register fields that a test on their keys keeps: the others hold their reset values. -/
def Gn.keepRegs (g : Gn) (keep : Nat → Bool) : Gn := { g with regs := g.regs.filter (fun e => keep e.1) }

/-! ### F fields (R351, R358) -/

/-- F fields from the configuration image. -/
def Gn.loadCfg (g : Gn) : Gn :=
  match g.sc.cfg with
  | none => g
  | some c =>
    let g := ((g.wr F.ckCfg_srcSel c.srcSel).wr F.ckCfg_hsDelayMs c.hsDelayMs).wr F.pwCap_capW c.capW
    let g := (g.put F.rdCfg_tc2 c.tc2).onEv (fun e => { e with coalCodes := c.coalCodes })
    forEach (c.pol.filter (fun e => decide (e.1 < 112))) (fun e g => (g.wr (F.lkPol_rate e.1) e.2.1).wr (F.lkPol_burst e.1) e.2.2) g

/-- A signed picosecond value in its 16-bit field. -/
def asym16 (a : Int) : Nat := (a % 65536).toNat

/-- F fields from the accepted topology. -/
def Gn.loadTopo (g : Gn) : Gn :=
  match g.rd.topo with
  | none => g
  | some t =>
    let g := ((g.wr F.rdCfg_node t.node).wr F.rdCfg_level t.level).put F.rdCfg_top t.top
    let g := forEach ((t.ports.take 34).zipIdx) (fun e g => g.wr (F.tmPort_asym e.2) (asym16 e.1.asym)) g
    forEach ((t.sites.take 112).zipIdx) (fun e g => g.wr (F.tmSite_asym e.2) (asym16 e.1.asym)) g

/-! ### The steps before a reset (R287) -/

/-- Class-0 frames leave before the arbiters are frozen, as far as credits are held for them (R190). -/
def Gn.sendClass0 (g : Gn) : Gn :=
  forEach ((List.range 34).filter g.portUp) (fun p g =>
    let x := g.port p
    let g := g.setPort p { x with sendQ := x.sendQ.filter (fun f => f.cls != 0) }
    forEach (x.sendQ.filter (fun f => f.cls == 0)) (fun f g => if (g.port p).hasCredit f then (g.putFrame p f).1 else g) g) g

/-- Accepted exports that have no verdict. -/
def Gn.unanswered (g : Gn) : List Exp :=
  g.pf.exps.filter (fun e => match e.st with | .waiting _ => true | .running => true | _ => false)

/-- Firmware answers: the hardware watchdog has not fired, and the debug port does not hold control core 0, the supervisor (DESIGN CHOICE, assumption log 9). -/
def Gn.firmwareUp (g : Gn) : Bool := !g.flag F.hgBeat_hwWdFired && !g.hg.halted.toNat.testBit 0

/-- Steps 2 to 4: LATE answers with record 0x0D07, then the flush of R276 with its marker. Where firmware does not answer, the always-on block runs without step 2. The freeze of step 3 ends with the reset, which clears `frz`. -/
def Gn.preReset (g : Gn) (occasion : Nat) : Gn :=
  let g := if !g.firmwareUp then g
    else
      let es := g.unanswered
      let g := forEach es (fun e g => (g.answer e 4 0 0 0xFFFFFFFF []).recordDrain) g
      (g.record prodProof 0x0D07 2 0 es.length 0 0 0).recordDrain.sendClass0
  g.recordDrain.resetFlush occasion

/-! ### Die warm reset (R285, R288) -/

/-- The bytes in HBM of a resident image still have their CRC-32C (R288). -/
def Gn.imageIntact (g : Gn) (i : ResImg) : Bool := imageCrcOk (g.hbmRead (hbmImage i.num) i.img.length)

/-- A key of the module's memory lies in the HBM of one of these images. -/
def inImages (l : List ResImg) (k : Nat) : Bool :=
  l.any (fun i => decide (memKey 2 (hbmImage i.num) ≤ k) && decide (k < memKey 2 (hbmImage i.num) + i.img.length))

/-- What is left of images and of HBM once firmware has revalidated them (R288, R310): every other region counts as empty. -/
def Gn.revalidate (g : Gn) : Gn :=
  let imgs := g.sq.images.filter g.imageIntact
  { g with sq := { SqSt.init with images := imgs, coreWait := g.sq.coreWait }, ar := ArSt.init, ts := TsSt.init, pf := PfSt.init,
           mem := g.mem.filter (fun e => inImages imgs e.1) }

/-- What a die warm reset leaves of the module: the always-on block, the time unit, the recorder's retained stores, studios and secrets, and in HBM
the images whose CRC still holds, the topology and the active rank table. -/
def Gn.warmCore (g : Gn) (cause : Nat) : Gn :=
  let k := g.keepRegs survivesWarm
  let ev := { g.ev with outbox := [], stopped := false, stopDrops := 0, flush := none }
  let hg := { HgSt.init with slots := g.hg.slots, cur := g.hg.cur, dseq := g.hg.dseq, coldAfter := g.hg.coldAfter, beatHt := g.now }
  let tm := { g.tm with xs := [], dmins := [], dmean := [], offLim := 0, unq := 0 }
  let k := k.revalidate
  { k with msix := [], lastRst := cause, ev := ev, hq := HqSt.init, pw := { g.pw with upGates := 0, fosGates := 0 },
           hg := hg, sc := { g.sc with maint := none }, lk := LkSt.init, tm := tm, isls := [], wins := [], sits := [], parked := [],
           rd := { RdSt.init with ranks := g.rd.ranks, topo := g.rd.topo }, sq := { k.sq with coreWait := [] },
           hl := HlSt.init }

/-- Cores in `fail_mask` are withdrawn and no test runs (R288, R290). -/
def Gn.failWithdrawn (g : Gn) (c : Nat) : Gn :=
  (g.wr (F.clPlan_wdMask c) (g.rg (F.clSt_failMask c))).put (F.clSt_curV c) false

/-- Gated islands run again through a reset: each writes its resume record (R168, R309), which the recorder keeps. -/
def Gn.ungate (g : Gn) : Gn :=
  (forEach ((List.range 16).filter (fun i => g.flag (F.pwIsl_gated i))) (fun i g => (g.put (F.pwIsl_gated i) false).islandResume i) g).recordDrain

/-- Die warm reset: bring-up goes on at phase 3 with module-good released and `rst_busy` set. A dump still being written goes on. A hall root's time is invalid until it has
taken it back under R160 (R294). -/
def Gn.warmNow (g : Gn) (cause : Nat) : Gn :=
  let g := g.ungate
  let gen := g.rg F.rdMap_gen
  let st := if g.hg.cur.isSome then g.rg F.hgDump_state else 0
  let cnt := g.rg F.hgStat_warmCnt
  let h := ((g.warmCore cause).wr F.rdMap_gen gen).wr F.hgDump_state st
  let h := (h.wr F.hgStat_warmCnt (cnt + 1)).put F.hgStat_rstBusy true
  let h := ((h.wr F.buStat_phase 3).put F.buStat_mgood false).wr F.pwState_pstate 0
  let h := (h.put F.ckStat_upQ false).put F.ckStat_fosQ false
  let h := forEach (List.range 16) (fun c g => (g.failWithdrawn c).put (F.pwIsl_gated c) false) h
  let h := h.loadCfg.loadTopo.checkHoldover
  if h.isTop then (h.put F.tmStat_valid false).setTq else h

/-! ### Module cold reset (R285) -/

/-- The slot with the highest version not below the minimum among those with an image (R323): its index and content. -/
def bestSlot (l : List ImgSlot) (least : Nat) : Option (Nat × ImgSlot) :=
  (l.zipIdx.filter (fun e => e.1.valid && decide (least ≤ e.1.ver))).foldl (fun acc e => match acc with
    | none => some (e.2, e.1)
    | some o => if o.2.ver < e.1.ver then some (e.2, e.1) else some o) none

/-- The boot header that the always-on block reads before any PLL runs: that of the configuration image with the highest version; 1,000 ms while none is
readable (R298). -/
def Gn.bootHeader (g : Gn) : Gn :=
  match bestSlot g.sc.cfgSlots 0 with
  | some e => g.wr F.ckCfg_hsDelayMs e.2.cfg.hsDelayMs
  | none => g

/-- Sections of a dump in write order as (id, bytes) (R292). -/
def dumpSections (cl : Nat) : List (Nat × Nat) :=
  [(1, 65536), (2, 65536), (3, 1048576), (4, 4194304), (5, 262144), (6, 8388608), (8, 8388608)] ++ (if cl = 0xFFFF then [] else [(7, 26738688)])

/-- Bytes of the sections before the n-th. -/
def bytesBefore (l : List (Nat × Nat)) (n : Nat) : Nat := ((l.take n).map (·.2)).sum

/-- Sections durable at a hall time: those that have left for flash at 2.0 GB/s since the write began, 250 µs after the snapshot (R273, R291; assumption log 9). -/
def DumpHdr.durable (d : DumpHdr) (now : Nat) : Nat :=
  let l := dumpSections d.cl
  ((List.range l.length).filter (fun i => decide (2 * d.since + 4096 + bytesBefore l (i + 1) + 500000 ≤ 2 * now))).length

/-- A loss of power ends the write of a dump: the sections already durable stay (R292). -/
def Gn.cutDump (g : Gn) : Gn :=
  match g.hg.cur with
  | some d => if g.rg F.hgDump_state = 2 then
      { g with hg := { g.hg with slots := g.hg.slots.set (g.rg F.hgDump_newest) (some { d with cut := some (d.durable g.now) }), cur := none } }
    else g
  | none => g

/-- Module cold reset: everything but flash, the reset-cause latch and the trip latch. Flash holds the log, the dumps, the images and the owner
record. The DP_STATUS nonces drawn so far stay behind (`free`). -/
def Gn.coldNow (g : Gn) (cause : Nat) : Gn :=
  Gn.bootHeader { Gn.init with
    lastRst := cause, free := g.free, out := g.out,
    ev := { EvSt.init with flash := g.ev.flash, flashN := g.ev.flashN, turn := g.ev.turn.map (fun t => { t with base := t.base + g.now }) },
    sc := { ScSt.init with fwSlots := g.sc.fwSlots, cfgSlots := g.sc.cfgSlots, owner := g.sc.owner },
    hg := { HgSt.init with slots := g.cutDump.hg.slots, dseq := g.hg.dseq },
    pw := { PwSt.init with trip := g.pw.trip } }

/-- The module is Off (R309, R366): nothing runs; flash and the latches keep their contents. -/
def Gn.offNow (g : Gn) : Gn :=
  let h := g.coldNow g.lastRst
  { h with pw := { h.pw with off := true, inp := .off } }

/-! ### Requests (R286) -/

/-- The UART carries a bring-up phase that a command has reached (R369). -/
def Gn.phaseShown (g0 g : Gn) : Gn := if g.rg F.buStat_phase = g0.rg F.buStat_phase then g else g.emitOut (.uart 0 (g.rg F.buStat_phase))

/-- The reset with this cause, its steps before it included: 6 is the module cold reset, every other cause a die warm reset. -/
def Gn.resetGo (g : Gn) (cause : Nat) : Gn :=
  g.phaseShown (if cause = 6 then (g.preReset 2).coldNow 6 else (g.preReset 1).warmNow cause)

/-- Step 1 of R287: the reset waits for a dump in progress. -/
def Gn.resetAfterDump (g : Gn) (cause : Nat) : Gn :=
  let st := g.rg F.hgDump_state
  if st = 1 ∨ st = 2 then { g with hg := { g.hg with warmAfter := some (cause, g.now) } } else g.resetGo cause

/-- A reset can be ordered now: not Off, not in the safe state, not in Flush, whose flush nothing stops (R275). -/
def Gn.resettable (g : Gn) : Bool := g.alive

/-- A die warm reset is asked for: absorbed by a bring-up or by a reset already under way (R286, R349). -/
def Gn.warmRequest (g : Gn) (cause : Nat) : Gn :=
  if g.resettable && g.ready && g.hg.warmAfter.isNone then g.resetAfterDump cause else g

/-- A module cold reset is asked for: one ordered during a die warm reset follows it; one ordered during a bring-up after a cold reset is absorbed. -/
def Gn.coldRequest (g : Gn) : Gn :=
  if !g.resettable then g
  else if g.rg F.buStat_phase = 7 ∨ g.rg F.buStat_phase = 8 then
    match g.hg.warmAfter with
    | none => g.resetAfterDump 6
    | some (c, _) => if c = 6 then g else { g with hg := { g.hg with coldAfter := true } }
  else if g.flag F.hgStat_rstBusy then { g with hg := { g.hg with coldAfter := true } }
  else g

/-- A write of GN_HG_RST from a virtual function is denied (R286, R317); any other acts. -/
def Gn.hgRst (g : Gn) (fn : Nat) (f : Gn → Gn) : Gn := if fn = 0 then f g else g.deny fn 0x1108

/-- `warm` and `cold` act only with the key in the same write; else warning 0x0D06 names the function. -/
def Gn.keyed (g : Gn) (key : Nat) (f : Gn → Gn) : Gn := if key = 0x5A5A then f g else g.record prodCore 0x0D06 3 0 0 0 0 0

def execWarmReset (fn key : Nat) (s : State) : Host.Outcome State Fault Refusal :=
  gnStep s (fun g => if g.alive then g.hgRst fn (fun g => g.keyed key (fun g => g.warmRequest 1)) else g)

def execColdReset (fn key : Nat) (s : State) : Host.Outcome State Fault Refusal :=
  gnStep s (fun g => if g.alive then g.hgRst fn (fun g => g.keyed key Gn.coldRequest) else g)

/-- PERST# is a die warm reset with cause 2 (R285, R368). -/
def execPcieFundamentalReset (s : State) : Host.Outcome State Fault Refusal := gnStep s (fun g => g.warmRequest 2)

/-! ### Cluster reset, link port reset, function-level reset -/

/-- A key of a field in cluster c's island part (R355). -/
def inIsland (c k : Nat) : Bool := decide (0x100000 + c * 0x10000 ≤ keyOff k) && decide (keyOff k < 0x100450 + c * 0x10000)

/-- What hangs on the island of a cluster (R285): its registers, its cores as on core reset, its shared buffer with its tags, and its crossings. The
node-store slice and its set table stay. -/
def Gn.clearCluster (g : Gn) (c : Nat) : Gn :=
  let g := (g.keepRegs (fun k => !inIsland c k)).coreReset ((List.range 16).map (fun k => 16 * c + k))
  g.onAr (fun a => { a with
    mem := a.mem.filter (fun e => e.1 / 2 ^ 24 != c), tags := a.tags.filter (fun e => e.1 / 2 ^ 21 != c),
    flips := a.flips.filter (fun e => e.1 / 2 ^ 21 != c),
    cross := a.cross.filter (fun e => e.1 / 2 != c), pend := a.pend.filter (fun e => e.1 / 2 != c) })

/-- Cluster reset: running tasks complete HANG, CORE descriptors of the cluster end CANCELLED, failed cores stay withdrawn (R290). -/
def Gn.clusterReset (g : Gn) (c : Nat) : Gn :=
  let g := g.killOn c 4
  let waits := g.sq.coreWait.filter (fun w => w.2.1 == c)
  let tests := g.hq.retests.filter (fun w => w.2.1 == c)
  let g := g.onSq (fun q => { q with coreWait := q.coreWait.filter (fun w => w.2.1 != c) })
  let g := { g with hq := { g.hq with retests := g.hq.retests.filter (fun w => w.2.1 != c) },
                    hg := { g.hg with testing := g.hg.testing.filter (fun k => k / 16 != c), stay := g.hg.stay.filter (fun k => k / 16 != c) } }
  let g := ((g.clearCluster c).failWithdrawn c).coreSettle
  let g := forEach (waits.map (·.1) ++ tests.map (·.1)) (fun h g => g.complete 0x11 h stCancelled []) g
  (g.testNext c).proofSettle

/-- A die warm reset runs, which absorbs requests for the domains inside it (R286). -/
def Gn.inReset (g : Gn) : Bool := g.flag F.hgStat_rstBusy

def execClusterReset (fn c : Nat) (s : State) : Host.Outcome State Fault Refusal :=
  gnStep s (fun g => if g.alive then g.hgRst fn (fun g => if decide (c < 16) && !g.inReset then g.clusterReset c else g) else g)

/-- Link port reset: as on loss, with the port's two registers at their reset values. -/
def Gn.linkPortReset (g : Gn) (p : Nat) : Gn :=
  (g.portDown p).keepRegs (fun k => keyOff k != 0x40000 + 16 * p && keyOff k != 0x40008 + 16 * p)

def execLinkPortReset (fn p : Nat) (s : State) : Host.Outcome State Fault Refusal :=
  gnStep s (fun g => if g.alive then g.hgRst fn (fun g => if decide (p < 38) && !g.inReset then g.linkPortReset p else g) else g)

/-- A key of a field that function-level reset of `fn` owns. -/
def ofFn (fn k : Nat) : Bool := keyFn k == fn && ownerOf k == .flr

/-- FLR (R285, R347): the function's rings, holdback, owed completions, MSI-X table and GN_EV_CUR; the replies of its reads are lost. -/
def Gn.flr (g : Gn) (fn : Nat) : Gn :=
  let g := g.keepRegs (fun k => !ofFn fn k)
  let hq := { g.hq with owed := g.hq.owed.filter (fun o => o.fn != fn), cq := g.hq.cq.filter (fun e => e.1 / 4 != fn),
                        polls := g.hq.polls.filter (fun x => x != fn), levels := g.hq.levels.filter (fun k => k / 8 != fn),
                        ovfPend := g.hq.ovfPend.filter (fun k => k / 4 != fn), tails := g.hq.tails.filter (fun e => e.1 / 4 != fn),
                        dma := g.hq.dma.filter (fun e => e.1 != fn), retires := g.hq.retires.filter (fun e => e.1.fn != fn),
                        stopped := g.hq.stopped.filter (fun k => k / 8 != fn) }
  let mine := fun r : Rd => match r.hdr with | some h => h.fn == fn | none => false
  let g := { g with hq := hq, msix := g.msix.filter (fun e => e.1 / 4096 != fn) }
  g.onRd (fun d => { d with reads := d.reads.map (fun r => if mine r then { r with hdr := none } else r), aggs := d.aggs.filter (fun e => e.1.fn != fn) })

def execFunctionLevelReset (fn : Nat) (s : State) : Host.Outcome State Fault Refusal :=
  gnStep s (fun g => if g.alive && decide (fn < 16) && !g.inReset then g.flr fn else g)

end Sys2Proof.Machine
end

