-- ==== Sys2Proof/Machine/Hang.lean ====
section
/-! DEFINITION. Hangs (chapter 13): monitors, heartbeat and hardware watchdog, the dump sequencer, in-field self-test, withdrawal of cores. -/

namespace Sys2Proof.Machine

def Gn.onHg (g : Gn) (f : HgSt → HgSt) : Gn := { g with hg := f g.hg }

/-! ### The dump sequencer (R291, R292) -/

/-- A trigger: the snapshot starts and takes what the module holds, or the trigger is absorbed and counted while a dump runs. -/
def Gn.dumpStart (g : Gn) (cause : Nat) : Gn :=
  let st := g.rg F.hgDump_state
  if st = 1 ∨ st = 2 then g.inc F.hgDump_dumpLost
  else
    let d : DumpHdr := { cause := cause, complete := false, ht := g.now, dseq := g.hg.dseq + 1, cl := 0xFFFF, nsec := 7,
                         fw := g.rg F.scImg_fwVer, fixed := g.ev.fx, ring := g.ev.pages, regs := g.regs, mem := g.mem.filter (fun e => e.1 / 2 ^ 48 == 1),
                         since := 0, cut := none }
    (g.onHg (fun h => { h with cur := some d, dseq := h.dseq + 1 })).wr F.hgDump_state 1

/-- The slot a new dump takes: an empty one, an acknowledged one (the older when both are), else the newer (R292). -/
def Gn.dumpSlot (g : Gn) : Nat :=
  let un := g.rg F.hgDump_unread
  let nw := g.rg F.hgDump_newest
  let slotAt := fun i => (g.hg.slots.getD i none).isSome
  if !slotAt 0 then 0
  else if !slotAt 1 then 1
  else if un = 3 then nw
  else if un = 0 then 1 - nw
  else if un.testBit 0 then 1 else 0

/-- DUMP_SNAPSHOT_DONE: the arbiters are released and the flash write begins in a slot. -/
def Gn.snapshotDone (g : Gn) : Gn :=
  match g.hg.cur with
  | none => g
  | some d =>
    if g.rg F.hgDump_state ≠ 1 then g
    else
      let i := g.dumpSlot
      let g := if (g.hg.slots.getD i none).isSome && (g.rg F.hgDump_unread).testBit i then g.inc F.hgDump_dumpLost else g
      let d := { d with since := g.now }
      let g := g.onHg (fun h => { h with slots := h.slots.set i (some d), cur := some d })
      let g := (g.wr F.hgDump_newest i).wr F.hgDump_cause d.cause
      (g.wr F.hgDump_unread (g.rg F.hgDump_unread ||| 2 ^ i)).wr F.hgDump_state 2

def execDumpSnapshotDone (s : State) : Host.Outcome State Fault Refusal := gnStep s (fun g => if g.alive then g.snapshotDone else g)

/-- A reset that waited for the dump goes on (R287 step 1). -/
def Gn.afterDump (g : Gn) : Gn :=
  match g.hg.warmAfter with
  | none => g
  | some (c, _) => (g.onHg (fun h => { h with warmAfter := none })).resetGo c

/-- DUMP_WRITE_DONE: every section is durable. -/
def Gn.writeDone (g : Gn) : Gn :=
  match g.hg.cur with
  | none => g
  | some d =>
    if g.rg F.hgDump_state ≠ 2 then g
    else
      let i := g.rg F.hgDump_newest
      let g := g.onHg (fun h => { h with slots := h.slots.set i (some { d with complete := true }), cur := none })
      (g.wr F.hgDump_state 3).afterDump

def execDumpWriteDone (s : State) : Host.Outcome State Fault Refusal := gnStep s (fun g => if g.alive then g.writeDone else g)

/-- DUMP_REQUEST: a write of `dump`, cause 5. -/
def execDumpRequest (fn : Nat) (s : State) : Host.Outcome State Fault Refusal :=
  gnStep s (fun g => if g.alive then g.hgRst fn (fun g => g.dumpStart 5) else g)

/-- DUMP_ACK: a write of 1 to a slot's `unread` bit. -/
def Gn.dumpAck (g : Gn) (slot : Nat) : Gn := g.wr F.hgDump_unread (putBit (g.rg F.hgDump_unread) slot false)

def execDumpAck (slot : Nat) (s : State) : Host.Outcome State Fault Refusal :=
  gnStep s (fun g => if g.alive && decide (slot < 2) then g.dumpAck slot else g)

/-- CONTROL_CORE_TRAP: cause 1. -/
def execControlCoreTrap (s : State) : Host.Outcome State Fault Refusal := gnStep s (fun g => if g.alive then g.dumpStart 1 else g)

/-- SEQUENCER_MEMORY_ERROR: cause 2. -/
def execSequencerMemoryError (s : State) : Host.Outcome State Fault Refusal := gnStep s (fun g => if g.alive then g.dumpStart 2 else g)

/-! ### Monitors (R282) -/

/-- A monitor's source takes its argument. -/
def srcArg (src arg : Nat) : Nat := if src = 1 ∨ src = 2 ∨ src = 4 ∨ src = 5 ∨ src = 8 then arg else 0

/-- The count a monitor watches, and the hall time of its last advance. -/
def Gn.monCount (g : Gn) (src arg : Nat) : Nat := SMap.get (fun _ => 0) g.hg.cnts (src * 256 + srcArg src arg)
def Gn.monCountHt (g : Gn) (src arg : Nat) : Nat := SMap.get (fun _ => 0) g.hg.cnts (65536 + src * 256 + srcArg src arg)

/-- A planned capture is incomplete: a tensor of the current epoch's plan without a whole capture. -/
def Gn.capPending (g : Gn) : Bool :=
  match g.planOf g.pf.epoch with
  | none => false
  | some p => (List.range p.tensors.length).any (fun i => match g.capture g.pf.epoch i with | some c => !c.complete | none => true)

/-- The source has pending work. -/
def Gn.monPending (g : Gn) (src arg : Nat) : Bool :=
  match src with
  | 1 => match g.graph arg with | some x => !x.insts.isEmpty | none => false
  | 2 => decide (arg < 8) && g.rg (F.winCfg_lenUs arg) != 0 && g.timeValid
  | 3 => !g.unanswered.isEmpty
  | 4 => decide (arg < 16) && (List.range 4).any (fun q =>
      let d := (SMap.get (fun _ => 0) g.hq.tails (arg * 4 + q) + 2 ^ 32 - g.rg (F.hqSqs_head arg q)) % 2 ^ 32
      d != 0 && decide (d ≤ 2 ^ g.rg (F.hqSq_lg arg q)))
  | 6 => !g.ev.outbox.isEmpty
  | 7 => g.capPending
  | 8 => decide (arg < 38) && g.portUp arg
  | 9 => (g.portsOf 2).any g.portUp
  | _ => true

def monInit (_ : Nat) : MonSt := ⟨0, 0, 0⟩
def Gn.mon (g : Gn) (n : Nat) : MonSt := SMap.get monInit g.hg.mons n
def Gn.setMon (g : Gn) (n : Nat) (x : MonSt) : Gn := g.onHg (fun h => { h with mons := SMap.set monInit h.mons n x })

/-- `p0` of a monitor's records. -/
def Gn.monP0 (g : Gn) (n : Nat) : Nat := g.rg (F.hgMon_src n) + 16 * g.rg (F.hgMon_arg n)

/-- A monitor leaves its stall: notice 0x0D04, and vector 5 sends again while another cause stands (R346). -/
def Gn.monClear (g : Gn) (n p3 : Nat) : Gn :=
  let c := g.monCount (g.rg (F.hgMon_src n)) (g.rg (F.hgMon_arg n))
  ((g.put (F.hgMon_stalled n) false).record prodCore 0x0D04 2 n (g.monP0 n) (g.rg (F.hgMon_winMs n)) c p3).vec5 true

/-- A monitor declares a stall and acts; the die warm reset of `act` 3 waits for the dump. -/
def Gn.monStall (g : Gn) (n cnt : Nat) : Gn :=
  let g := (g.put (F.hgMon_stalled n) true).inc (F.hgMon_stalls n)
  let g := g.record prodCore 0x0D01 4 n (g.monP0 n) (g.rg (F.hgMon_winMs n)) cnt 0
  let act := g.rg (F.hgMon_act n)
  let g := if 1 ≤ act then g.vec5 false else g
  let g := if 2 ≤ act then g.dumpStart 3 else g
  if act = 3 then g.warmRequest 3 else g

/-- One evaluation of one monitor. -/
def Gn.monEval (g : Gn) (n : Nat) : Gn :=
  let src := g.rg (F.hgMon_src n)
  if src = 0 then g
  else
    let arg := g.rg (F.hgMon_arg n)
    let x := g.mon n
    let c := g.monCount src arg
    let runs := !g.flag (F.hgMon_cond n) || g.monPending src arg
    let from_ := if c = x.cnt then x.seen else max x.seen (g.monCountHt src arg)
    let acc := (if c = x.cnt then x.acc else 0) + (if runs then g.now - from_ else 0)
    let h := g.setMon n { cnt := c, acc := acc, seen := g.now }
    let h := if g.flag (F.hgMon_stalled n) && c != x.cnt then h.monClear n 0 else h
    if !h.flag (F.hgMon_stalled n) && decide (g.rg (F.hgMon_winMs n) * 1000000 ≤ acc) then h.monStall n c else h

/-- A reset that has waited 100 ms for a dump goes on without it (R287 step 1). -/
def Gn.dumpLimit (g : Gn) : Gn :=
  match g.hg.warmAfter with
  | some (_, t) => if t + 100000000 ≤ g.now then g.afterDump else g
  | none => g

/-- MONITOR_EVAL, every 10 µs. -/
def execMonitorEval (s : State) : Host.Outcome State Fault Refusal :=
  gnStep s (fun g => if g.alive then (forEach (List.range 32) (fun n g => g.monEval n) g).dumpLimit else g)

/-- GN_MONITOR_STALL: the evaluation that finds monitor n's window expired. -/
def execGnMonitorStall (n : Nat) (s : State) : Host.Outcome State Fault Refusal :=
  gnStep s (fun g => if g.alive && decide (n < 32) then g.monEval n else g)

/-- A write of the fields of GN_HG_MON[n]: reserved values leave `src` and `win_ms` unchanged (R9); every write restarts the window, and clears a
stall with `p3` = 1. -/
def Gn.monWrite (g : Gn) (n v : Nat) : Gn :=
  let g := if g.flag (F.hgMon_stalled n) then g.monClear n 1 else g
  let g := if bits v 0 4 ≤ 9 then g.wr (F.hgMon_src n) (bits v 0 4) else g
  let g := ((g.wr (F.hgMon_arg n) (bits v 4 8)).put (F.hgMon_cond n) (bit v 12)).wr (F.hgMon_act n) (bits v 13 2)
  let w := bits v 16 16
  let g := if 1 ≤ w ∧ w ≤ 60000 then g.wr (F.hgMon_winMs n) w else g
  (g.setMon n { cnt := g.monCount (g.rg (F.hgMon_src n)) (g.rg (F.hgMon_arg n)), acc := 0, seen := g.now }).vec5 false

def execMonitorConfigWrite (n : Nat) (v : Word) (s : State) : Host.Outcome State Fault Refusal :=
  gnStep s (fun g => if g.alive && decide (n < 32) then g.monWrite n v.toNat else g)

/-! ### Heartbeat and hardware watchdog (R283) -/

/-- SUPERVISOR_HEARTBEAT: every control core has answered and `beat` advances. A control core that the debug port holds halted answers no poll, so `beat`
stands; core 0, which polls, finds the others' heartbeats (R282, R283, R332). -/
def Gn.heartbeat (g : Gn) : Gn :=
  let run := fun c : Nat => !g.hg.halted.toNat.testBit c
  let h := if g.hg.halted = 0 then (g.addWrap F.hgBeat_beat 1).onHg (fun h => { h with beatHt := g.now, wdDone := false }) else g
  if run 0 then forEach ([0, 1, 2, 3].filter run) (fun c g => g.count 5 c) h else h

def execSupervisorHeartbeat (s : State) : Host.Outcome State Fault Refusal := gnStep s (fun g => if g.alive then g.heartbeat else g)

/-- HW_WATCHDOG: only while module-good is asserted; it fires once per stop of `beat`. -/
def Gn.hwWatchdog (g : Gn) : Gn :=
  if g.flag F.buStat_mgood && !g.flag F.hgStat_rstBusy && !g.hg.wdDone && decide (g.hg.beatHt + g.rg F.hgBeat_hwWdMs * 1000000 ≤ g.now) then
    let g := (g.record prodCore 0x0D05 5 0 0 0 0 0).put F.hgBeat_hwWdFired true
    let g := (g.vec5 false).onHg (fun h => { h with wdDone := true })
    g.dumpStart 4
  else g

def execHwWatchdog (s : State) : Host.Outcome State Fault Refusal := gnStep s (fun g => if g.alive then g.hwWatchdog else g)

/-! ### In-field self-test (R289, R290) -/

/-- A core's test may be requested at once: no running task's footprint holds it, no core of its cluster is in test or pending, and the cluster is
under no quarantine test. -/
def Gn.testFree (g : Gn) (k : Nat) : Bool :=
  let c := k / 16
  !(g.busyCores c).testBit (k % 16) && g.rg (F.clPlan_pendMask c) == 0 && !g.hg.testing.any (fun x => x / 16 == c)
    && !g.pf.quar.any (fun q => q.1 == c)

/-- The last due instant of core `k` (R289), when it lies less than 1 µs back: firmware takes that long at most (DESIGN CHOICE, assumption log 8). -/
def Gn.dueHt (g : Gn) (k : Nat) : Option Nat :=
  let off := k * 84375000000
  let t := (g.now - off) / 21600000000000 * 21600000000000 + off
  if off ≤ g.now && decide (g.now < t + 1000) then some t else none

/-- Firmware's access to the GN_CL_PLAN of a gated island is a gated touch of a control core: the request is dropped (R305). -/
def Gn.planTouch (g : Gn) (c : Nat) : Gn := g.gatedAccess 3 0 (F.clPlan_pendMask c).off

/-- A core's test due at `t` waits for its conditions (R289). -/
def Gn.testLater (g : Gn) (k t : Nat) : Gn := g.onHg (fun h => { h with deferred := h.deferred ++ [(k, t)] })

/-- The test of a core that fell due at `t`: requested, deferred, or absorbed into a deferred test (R289). With the cluster's island gated the request does not
reach it, and the test is deferred (DESIGN CHOICE, assumption log 8). -/
def Gn.testAsk (g : Gn) (k t : Nat) : Gn :=
  if g.hg.deferred.any (fun d => d.1 == k) || g.hg.waiting.contains k || g.hg.testing.contains k then g
  else if g.flag (F.pwIsl_gated (k / 16)) then (g.planTouch (k / 16)).testLater k t
  else if g.testFree k then g.fieldTest k
  else g.testLater k t

/-- SELF_TEST_DUE: at the core's due instant, its test is asked for. -/
def Gn.testDue (g : Gn) (k : Nat) : Gn := (g.dueHt k).elim g (g.testAsk k)

def execSelfTestDue (core : Nat) (s : State) : Host.Outcome State Fault Refusal :=
  gnStep s (fun g => if g.alive && decide (core < 256) then g.testDue core else g)

/-- SELF_TEST_START: a deferred test whose conditions hold. -/
def Gn.testStart (g : Gn) (k : Nat) : Gn :=
  if g.hg.deferred.any (fun d => d.1 == k) && g.flag (F.pwIsl_gated (k / 16)) then g.planTouch (k / 16)
  else if g.hg.deferred.any (fun d => d.1 == k) && g.testFree k then
    (g.onHg (fun h => { h with deferred := h.deferred.filter (fun d => d.1 != k) })).fieldTest k
  else g

def execSelfTestStart (core : Nat) (s : State) : Host.Outcome State Fault Refusal :=
  gnStep s (fun g => if g.alive && decide (core < 256) then g.testStart core else g)

/-- SELF_TEST_DEADLINE, 30 minutes after the due instant: withdrawal is requested whatever holds the core; with a core of its cluster in test it waits for that test's end. -/
def Gn.testDeadline (g : Gn) (k : Nat) : Gn :=
  if g.hg.deferred.any (fun d => d.1 == k) && g.flag (F.pwIsl_gated (k / 16)) then g.planTouch (k / 16)
  else if g.hg.deferred.any (fun d => d.1 == k && decide (d.2 + 1800000000000 ≤ g.now)) then
    (g.onHg (fun h => { h with deferred := h.deferred.filter (fun d => d.1 != k), waiting := h.waiting ++ [k] })).testNext (k / 16)
  else g

def execSelfTestDeadline (core : Nat) (s : State) : Host.Outcome State Fault Refusal :=
  gnStep s (fun g => if g.alive && decide (core < 256) then g.testDeadline core else g)

/-- The result of one test: records 0x0D10 and 0x0D11 name the core in `source` (the manual names `p0` only, assumption log 12). -/
def Gn.testResult (g : Gn) (k : Nat) (pass : Bool) (stage : Nat) : Gn :=
  let c := k / 16
  let i := k % 16
  let g := g.inc (F.clSt_tests c)
  if pass && g.hg.stay.contains k then
    (g.onHg (fun h => { h with stay := h.stay.filter (fun x => x != k) })).record prodSeq 0x0D10 1 k 0 0 0 0
  else if pass then
    let g := g.wr (F.clSt_failMask c) (putBit (g.rg (F.clSt_failMask c)) i false)
    (g.wr (F.clPlan_wdMask c) (putBit (g.rg (F.clPlan_wdMask c)) i false)).record prodSeq 0x0D10 1 k 0 0 0 0
  else
    let g := g.onHg (fun h => { h with stay := h.stay.filter (fun x => x != k) })
    let g := (g.wr (F.clSt_failMask c) (putBit (g.rg (F.clSt_failMask c)) i true)).inc (F.clSt_fails c)
    (g.wr (F.clPlan_wdMask c) (putBit (g.rg (F.clPlan_wdMask c)) i true)).record prodSeq 0x0D11 4 k stage 0 0 0

/-- A CORE retest has one core less to test; it completes when none is left. -/
def Gn.retested (g : Gn) (k : Nat) : Gn :=
  let cut := fun r : DescHdr × Nat × Nat => if r.2.1 = k / 16 then (r.1, r.2.1, putBit r.2.2 (k % 16) false) else r
  let rs := g.hq.retests.map cut
  let g := { g with hq := { g.hq with retests := rs.filter (fun r => r.2.2 != 0) } }
  forEach (rs.filter (fun r => r.2.2 == 0)) (fun r g => g.complete 0x11 r.1 stOk []) g

/-- SELF_TEST_DONE of a core in test; the next test of its cluster follows. -/
def Gn.testDone (g : Gn) (k : Nat) (pass : Bool) (stage : Nat) : Gn :=
  let c := k / 16
  if g.hg.testing.contains k && (g.rg (F.clPlan_wdMask c)).testBit (k % 16) then
    let g := (g.onHg (fun h => { h with testing := h.testing.filter (fun x => x != k) })).put (F.clSt_curV c) false
    let g := (g.testResult k pass stage).retested k
    let mark := fun q : Nat × Nat × List Nat => if q.1 = c then (q.1, q.2.1, q.2.2 ++ [k % 16]) else q
    (g.onPf (fun q => { q with quar := q.quar.map mark })).testNext c
  else g

def execSelfTestDone (core : Nat) (pass : Bool) (stage : Nat) (s : State) : Host.Outcome State Fault Refusal :=
  gnStep s (fun g => if g.alive && decide (core < 256) then g.testDone core pass stage else g)

/-! ### CORE (R75, R290, R340) -/

/-- CORE, withdraw: completes when every named core is withdrawn. -/
def Gn.coreWithdraw (g : Gn) (h : DescHdr) (c mask : Nat) : Gn :=
  if 16 ≤ c ∨ 65536 ≤ mask then g.complete 0x11 h stInvalid []
  else
    let g := g.wr (F.clPlan_pendMask c) (g.rg (F.clPlan_pendMask c) ||| (mask &&& (g.rg (F.clPlan_wdMask c) ^^^ 0xFFFF)))
    (g.onSq (fun q => { q with coreWait := q.coreWait ++ [(h, c, mask, true)] })).coreSettle

def execCoreWithdraw (h : DescHdr) (cluster mask : Nat) (s : State) : Host.Outcome State Fault Refusal :=
  gnStep s (fun g => g.desc 0x11 ruleS h (fun g => g.coreWithdraw h cluster mask))

/-- CORE, return: a core in `fail_mask`, which only a retest returns (R290), or in test, refuses the whole. -/
def Gn.coreReturn (g : Gn) (h : DescHdr) (c mask : Nat) : Gn :=
  if 16 ≤ c ∨ 65536 ≤ mask then g.complete 0x11 h stInvalid []
  else if mask &&& g.rg (F.clSt_failMask c) ≠ 0 ∨ g.hg.testing.any (fun k => k / 16 == c && mask.testBit (k % 16)) = true then
    g.complete 0x11 h stRefused []
  else
    let g := g.wr (F.clPlan_wdMask c) (g.rg (F.clPlan_wdMask c) &&& (mask ^^^ 0xFFFF))
    let g := g.wr (F.clPlan_pendMask c) (g.rg (F.clPlan_pendMask c) &&& (mask ^^^ 0xFFFF))
    g.complete 0x11 h stOk []

def execCoreReturn (h : DescHdr) (cluster mask : Nat) (s : State) : Host.Outcome State Fault Refusal :=
  gnStep s (fun g => g.desc 0x11 ruleS h (fun g => g.coreReturn h cluster mask))

/-- CORE, retest: the named cores are tested one at a time; completes when every one has been. -/
def Gn.coreRetest (g : Gn) (h : DescHdr) (c mask : Nat) : Gn :=
  if 16 ≤ c ∨ 65536 ≤ mask then g.complete 0x11 h stInvalid []
  else if mask = 0 then g.complete 0x11 h stOk []
  else ({ g with hq := { g.hq with retests := g.hq.retests ++ [(h, c, mask)] } } : Gn).testNext c

def execCoreRetest (h : DescHdr) (cluster mask : Nat) (s : State) : Host.Outcome State Fault Refusal :=
  gnStep s (fun g => g.desc 0x11 ruleS h (fun g => g.coreRetest h cluster mask))

end Sys2Proof.Machine
end

