-- ==== Sys2Proof/Machine/Sha.lean ====
section
/-! DEFINITION. SHA-384 (FIPS 180-4), HMAC and HKDF over it (RFC 2104, RFC 5869), points of the curve P-384 (SP 800-186), AES-256 decryption of one block
(FIPS 197) and AES key unwrap (RFC 3394): the standard functions that R321, R322, R331 and R340 name. -/

namespace Sys2Proof.Machine

/-- Big-endian number of a byte list. -/
def beNat (b : List Byte) : Nat := leNat b.reverse

/-- The `n` big-endian bytes of a number. -/
def beBytes (n v : Nat) : List Byte := (leBytes n v).reverse

/-! ### SHA-384 -/

/-- The largest root r < 2^k with r^e ≤ v, found from `acc` on. -/
def rootFloor (e v : Nat) : Nat → Nat → Nat
  | 0, acc => acc
  | k + 1, acc => rootFloor e v k (if (acc + 2 ^ k) ^ e ≤ v then acc + 2 ^ k else acc)

/-- The first 80 primes. -/
def shaPrimes : List Nat := (List.range 410).filter (fun n => decide (2 ≤ n) && (List.range n).all (fun d => decide (d < 2) || n % d != 0))

/-- Round constants: 64 bits of the fractional parts of the cube roots of the first 80 primes. -/
def shaK : List (BitVec 64) := shaPrimes.map (fun p => BitVec.ofNat 64 (rootFloor 3 (p * 2 ^ 192) 68 0))

/-- Initial value: 64 bits of the fractional parts of the square roots of the ninth to sixteenth primes. -/
def shaH : List (BitVec 64) := ((shaPrimes.drop 8).take 8).map (fun p => BitVec.ofNat 64 (rootFloor 2 (p * 2 ^ 128) 68 0))

/-- Message schedule: `n` further words after the words `w`. -/
def shaSchedule : Nat → List (BitVec 64) → List (BitVec 64)
  | 0, w => w
  | n + 1, w =>
    let at_ := fun k => w.getD (w.length - k) 0
    let a := at_ 15
    let b := at_ 2
    let s0 := a.rotateRight 1 ^^^ a.rotateRight 8 ^^^ (a >>> 7)
    let s1 := b.rotateRight 19 ^^^ b.rotateRight 61 ^^^ (b >>> 6)
    shaSchedule n (w ++ [at_ 16 + s0 + at_ 7 + s1])

/-- One round: the eight working variables, with the sum of the round's constant and word. -/
def shaRound (v : List (BitVec 64)) (kw : BitVec 64) : List (BitVec 64) :=
  let x := fun i => v.getD i 0
  let s1 := (x 4).rotateRight 14 ^^^ (x 4).rotateRight 18 ^^^ (x 4).rotateRight 41
  let ch := (x 4 &&& x 5) ^^^ (~~~(x 4) &&& x 6)
  let t1 := x 7 + s1 + ch + kw
  let s0 := (x 0).rotateRight 28 ^^^ (x 0).rotateRight 34 ^^^ (x 0).rotateRight 39
  let maj := (x 0 &&& x 1) ^^^ (x 0 &&& x 2) ^^^ (x 1 &&& x 2)
  [t1 + s0 + maj, x 0, x 1, x 2, x 3 + t1, x 4, x 5, x 6]

/-- One block of 128 bytes. -/
def shaBlock (h : List (BitVec 64)) (b : List Byte) : List (BitVec 64) :=
  let w := shaSchedule 64 ((List.range 16).map (fun i => BitVec.ofNat 64 (beNat ((b.drop (8 * i)).take 8))))
  List.zipWith (· + ·) h ((List.zipWith (· + ·) shaK w).foldl shaRound h)

/-- The padded message. -/
def shaPad (m : List Byte) : List Byte := m ++ [0x80] ++ List.replicate ((239 - m.length % 128) % 128) 0 ++ beBytes 16 (8 * m.length)

/-- SHA-384 of a message: 48 bytes. -/
def sha384 (m : List Byte) : List Byte :=
  let p := shaPad m
  let h := (List.range (p.length / 128)).foldl (fun h i => shaBlock h ((p.drop (128 * i)).take 128)) shaH
  ((h.take 6).map (fun w => beBytes 8 w.toNat)).flatten

/-- HMAC-SHA-384 under a key of at most 128 bytes. -/
def hmac384 (key m : List Byte) : List Byte :=
  let k := key ++ List.replicate (128 - key.length) 0
  sha384 (k.map (· ^^^ 0x5C) ++ sha384 (k.map (· ^^^ 0x36) ++ m))

/-- The 48 bytes of the first block of HKDF-SHA-384. -/
def hkdfBlock (ikm salt info : List Byte) : List Byte := hmac384 (hmac384 salt ikm) (info ++ [1])

/-- The first 32 bytes of HKDF-SHA-384. -/
def hkdf384 (ikm salt info : List Byte) : List Byte := (hkdfBlock ikm salt info).take 32

/-! ### P-384 -/

/-- The prime and the coefficient b of the curve. -/
def p384 : Nat := 2 ^ 384 - 2 ^ 128 - 2 ^ 96 + 2 ^ 32 - 1
def p384b : Nat := 0xb3312fa7e23ee7e4988e056be3f82d19181d9c6efe8141120314088f5013875ac656398d8a2ed19d2a85c8edd3ec2aef

/-- The point of 97 bytes in uncompressed SEC 1 form, when it lies on the curve. -/
def ecPoint (b : List Byte) : Option (Nat × Nat) :=
  let x := beNat ((b.drop 1).take 48)
  let y := beNat ((b.drop 49).take 48)
  if u8 b 0 = 4 ∧ x < p384 ∧ y < p384 ∧ (y * y + 3 * x) % p384 = (x * x * x + p384b) % p384 then some (x, y) else none

/-! ### AES decryption and key unwrap -/

/-- Inverse S-box. -/
def aesUnsub (a : Byte) : Byte := aesInv (a.rotateLeft 1 ^^^ a.rotateLeft 3 ^^^ a.rotateLeft 6 ^^^ 0x05)

/-- InvShiftRows. -/
def aesUnshift (s : List Byte) : List Byte := (List.range 16).map (fun i => s.getD (i % 4 + 4 * ((i / 4 + 4 - i % 4) % 4)) 0)

/-- InvMixColumns. -/
def aesUnmix (s : List Byte) : List Byte :=
  (List.range 16).map (fun i =>
    let at_ := fun k => s.getD (i / 4 * 4 + (i + k) % 4) 0
    aesMul 4 (at_ 0) 14 ^^^ aesMul 4 (at_ 1) 11 ^^^ aesMul 4 (at_ 2) 13 ^^^ aesMul 4 (at_ 3) 9)

/-- Inverse rounds, the next of round key `n`. -/
def aesUnrounds (w : List (List Byte)) : Nat → List Byte → List Byte
  | 0, s => s
  | n + 1, s => aesUnrounds w n (aesUnmix (xorBytes ((aesUnshift s).map aesUnsub) (aesKey w (n + 1))))

/-- AES-256 decryption of a block of 16 bytes under a key of 32. -/
def aes256Inv (key block : List Byte) : List Byte :=
  let w := aesExpand 52 ((List.range 8).map (fun i => (key.drop (4 * i)).take 4))
  xorBytes ((aesUnshift (aesUnrounds w 13 (xorBytes block (aesKey w 14)))).map aesUnsub) (aesKey w 0)

/-- One step of the unwrap: register A and the list of 8-byte blocks, with the step's number t and block i. -/
def unwrapStep (kek : List Byte) (x : List Byte × List (List Byte)) (t : Nat) : List Byte × List (List Byte) :=
  let i := (t - 1) % 4
  let b := aes256Inv kek (xorBytes x.1 (beBytes 8 t) ++ x.2.getD i [])
  (b.take 8, x.2.set i (b.drop 8))

/-- AES key unwrap of 40 bytes with the default initial value: the 32-byte key, none when the integrity check fails. -/
def keyUnwrap (kek wrapped : List Byte) : Option (List Byte) :=
  let x := (((List.range 24).map (· + 1)).reverse).foldl (unwrapStep kek) (wrapped.take 8, (List.range 4).map (fun i => (wrapped.drop (8 * (i + 1))).take 8))
  if wrapped.length = 40 ∧ x.1 = List.replicate 8 0xA6 then some x.2.flatten else none

end Sys2Proof.Machine
end

