-- ==== Sys2Proof/Machine/Power.lean ====
section
/-! DEFINITION. Clocks, power and bring-up (chapters 14, 16, 18): references and the safe state, the power cap, power states, Flush and Off, the
input stage, and the phases of bring-up. -/

namespace Sys2Proof.Machine

/-! ### References (R297 to R302) -/

/-- The references of the `src_sel` list, most preferred first: 0 HREF, 1 UPREF, 2 FOSREF. -/
def Gn.refList (g : Gn) : List Nat :=
  match g.rg F.ckCfg_srcSel with
  | 1 => [1, 0]
  | 2 => [1, 2, 0]
  | _ => [0]

def Gn.refQ (g : Gn) (r : Nat) : Bool := if r = 0 then g.flag F.ckStat_hrefQ else if r = 1 then g.flag F.ckStat_upQ else g.flag F.ckStat_fosQ

/-- Qualification of a reference; a link reference that loses it starts its gates over. -/
def Gn.setRefQ (g : Gn) (r : Nat) (q : Bool) : Gn :=
  if r = 0 then g.put F.ckStat_hrefQ q
  else if r = 1 then
    let g := g.put F.ckStat_upQ q
    if q then g else { g with pw := { g.pw with upGates := 0 } }
  else
    let g := g.put F.ckStat_fosQ q
    if q then g else { g with pw := { g.pw with fosGates := 0 } }

/-- The most preferred qualified reference. -/
def Gn.bestRef (g : Gn) : Option Nat := g.refList.find? g.refQ

/-- A glitch-free switch (R300): notice 0x0E02; `p0` the new reference, `p1` the old (the manual gives no parameters, assumption log 12). -/
def Gn.switchRef (g : Gn) (r : Nat) : Gn :=
  let old := g.rg F.ckStat_act
  if r = old then g else ((g.wr F.ckStat_act r).inc F.ckStat_switches).record prodCore 0x0E02 2 0 r old 0 0

/-- The flush in progress stops without a marker; what is durable stays (R313). -/
def Gn.stopFlush (g : Gn) : Gn :=
  let g := g.flushCut
  { g with pw := { g.pw with flushStopped := true } }

/-- Every island stands still at step 0. -/
def Gn.stopAll (g : Gn) (t : Nat) : Gn := forEach (List.range 16) (fun i g => (g.wr (F.pwIsl_step i) 0).stopIsland i t) g

/-- The safe state (R301). -/
def Gn.enterSafe (g : Gn) : Gn :=
  let t := g.now
  let g := ((g.put F.ckStat_safe true).wr F.ckStat_act 3).put F.buStat_mgood false
  let g := ({ g with pw := { g.pw with lossHt := some t } } : Gn).stopAll t
  if g.rg F.pwState_pstate = 3 then g.stopFlush else g

/-- Nominal HREF edges of a 1 ms gate prove a period outside the band of R301: every period in 0.75 to 1.5 times 10 ns leaves 66,666 to 133,334 of them. -/
def hrefBad (href : Nat) : Bool := decide (href < 66666) || decide (133334 < href)

/-- A qualified HREF that is not active is checked too: a gate that shows it lost disqualifies it (R301). -/
def Gn.hrefCheck (g : Gn) (href : Nat) : Gn := if g.flag F.ckStat_hrefQ && g.rg F.ckStat_act != 0 && hrefBad href then g.setRefQ 0 false else g

/-- REF_LOSS: the active reference is lost; another qualified one of the list takes over, else the safe state. -/
def Gn.refLoss (g : Gn) : Gn :=
  let act := g.rg F.ckStat_act
  if act = 3 then g
  else
    let g := (g.setRefQ act false).inc F.ckStat_losses
    match g.bestRef with
    | some r => g.switchRef r
    | none => g.enterSafe

def execRefLoss (s : State) : Host.Outcome State Fault Refusal := gnStep s (fun g => if g.powered then g.refLoss else g)

/-- A gate passes when 16 × link edges and 25 × HREF edges differ by at most `win_ppm` of the latter (R299). -/
def gatePass (ppm link href : Nat) : Bool :=
  let d := if 25 * href ≤ 16 * link then 16 * link - 25 * href else 25 * href - 16 * link
  decide (d * 1000000 ≤ ppm * (25 * href))

/-- REF_COMPARE_GATE of UPREF or FOSREF. A qualified one that fails is disqualified and, when active, left for the best of the others; the eighth
pass qualifies, and a more preferred reference is returned to at this gate boundary. -/
def Gn.compareGate (g : Gn) (foster : Bool) (link href : Nat) : Gn :=
  let r := if foster then 2 else 1
  let g := g.hrefCheck href
  if !g.flag F.ckStat_hrefQ || !g.portUp (if foster then 33 else 32) then g
  else if gatePass (g.rg F.ckCfg_winPpm) link href then
    let n := min 8 ((if foster then g.pw.fosGates else g.pw.upGates) + 1)
    let g := if foster then { g with pw := { g.pw with fosGates := n } } else { g with pw := { g.pw with upGates := n } }
    let g := if n = 8 then g.setRefQ r true else g
    if g.ready then (match g.bestRef with | some b => g.switchRef b | none => g) else g
  else if g.refQ r then
    let g := ((g.setRefQ r false).inc F.ckStat_winFail).record prodCore 0x0E03 3 0 r link href 0
    if g.rg F.ckStat_act = r then (match g.bestRef with | some b => g.switchRef b | none => g) else g
  else g.setRefQ r false

def execRefCompareGate (foster : Bool) (linkEdges hrefEdges : Nat) (s : State) : Host.Outcome State Fault Refusal :=
  gnStep s (fun g => if g.alive then g.compareGate foster linkEdges hrefEdges else g)

/-- Islands stopped by the safe state run again; each resume record is taken into the recorder as it is written. -/
def Gn.resumeIslands (g : Gn) : Gn := forEach (List.range 16) (fun i g => (g.islandResume i).recordDrain) g

/-! ### The end of a studio's close (R326, R328) -/

def Gn.onSc (g : Gn) (f : ScSt → ScSt) : Gn := { g with sc := f g.sc }

/-- Access state after a studio opened or closed (R325): Studio while some studio is ENABLED or OPEN, else Sealed; Maintenance stays. -/
def Gn.setAcc (g : Gn) : Gn :=
  if g.acc = 2 then g
  else g.wr F.scStat_acc (b2n ((List.range 15).any (fun i => g.rg (F.scStu_st (i + 1)) != 0)))

/-- Notice record 0x0F04 of studio n: `p0`, `p1` the `ht`, `p2` the refusal, 0 for a close (the manual names no layout, assumption log 12): 1 `id_ok` is 0,
2 keys erased, 3 Maintenance, 5 bad point or unwrap. -/
def Gn.studioRecord (g : Gn) (n why : Nat) : Gn := g.record prodCore 0x0F04 2 n (lo32 g.now) (hi32 g.now) why 0

/-- The erase of a close ends: the studio becomes CLOSED with notice 0x0F04. -/
def Gn.closeDone (g : Gn) : Gn :=
  match g.sc.closing with
  | [] => g
  | (n, h) :: rest =>
    let g := (g.onSc (fun x => { x with closing := rest })).put F.scStat_busy (!rest.isEmpty)
    (((g.wr (F.scStu_st n) 0).setAcc).studioRecord n 0).complete 0x16 h stOk []

/-- Recovery from the safe state (R295, R302): the gap the qualification timer measured, a free value, is added; time is invalid until it is
resynchronised; an erase that the safe state held ends first (R328); record 0x0D08 carries the `ht` of loss and of requalification; a die warm reset of cause 5 follows, after a
dump in progress (R287). In Flush the flush stays stopped. Before the end of phase 2 the
module cold reset that bring-up belongs to absorbs the warm reset (R286), and HALTED ends in a module cold reset only (R348). -/
def Gn.recover (g : Gn) : Gn :=
  let loss := g.pw.lossHt.getD g.now
  let (g, gap) := g.draw
  let g := { g with tm := { g.tm with fix := g.tm.fix + gap * nsFix }, pw := { g.pw with lossHt := none } }
  let g := ((g.put F.ckStat_safe false).put F.tmStat_valid false).setTq
  let ph := g.rg F.buStat_phase
  if g.rg F.pwState_pstate = 3 then g
  else
    let g := forEach g.sc.closing (fun _ g => g.closeDone) g
    let g := g.resumeIslands.record prodCore 0x0D08 2 0 (lo32 loss) (hi32 loss) (lo32 g.now) (hi32 g.now)
    if ph < 3 ∨ ph = 8 then g
    else
      let g := g.onHg (fun h => { h with warmAfter := none })
      g.recordDrain.resetAfterDump 5

/-- HREF_QUALIFY: the start delay has completed without a restart. It ends the safe state, and Flush where its module cold reset waits for HREF (R312); before any selection
the module runs on HREF. -/
def Gn.hrefQualify (g : Gn) : Gn :=
  if g.pw.coldWait then g.coldNow g.lastRst
  else if g.pw.off || g.pw.inp != .on then g
  else
    let g := g.put F.ckStat_hrefQ true
    let g := if g.rg F.ckStat_act = 3 then g.wr F.ckStat_act 0 else g
    if g.safe then g.recover else g

def execHrefQualify (s : State) : Host.Outcome State Fault Refusal := gnStep s Gn.hrefQualify

/-! ### CLKMON (R304) -/

/-- What the CLKMON output shows: a level, or the active reference divided by 64. -/
inductive Clkmon where
  | low
  | high
  | divided (ref : Nat)
deriving DecidableEq, Repr

/-- CLKMON in its mode; low in the safe state and while the module is off. -/
def Gn.clkmon (g : Gn) : Clkmon :=
  let lvl := fun b : Bool => if b then Clkmon.high else Clkmon.low
  let us := g.rg F.ckMon_periodUs
  if !g.powered then .low
  else if g.rg F.ckMon_mode = 0 then lvl g.timeValid
  else if g.rg F.ckMon_mode = 1 then (if g.rg F.ckStat_act = 3 then .low else .divided (g.rg F.ckStat_act))
  else lvl (g.timeValid && decide (g.now % (us * 1000) < (if us = 1 then 500 else 1000)))

/-! ### The power cap (R307, R308) -/

/-- Running islands. -/
def Gn.runIslands (g : Gn) : List Nat := (List.range 16).filter (fun i => !g.flag (F.pwIsl_gated i))

/-- An island falls `n` steps. -/
def Gn.stepDown (g : Gn) (n i : Nat) : Gn := (g.wr (F.pwIsl_step i) (g.rg (F.pwIsl_step i) - n)).addSat (F.pwIsl_dn i) n

/-- The running island with the lowest step below its `ceil`, the lower index on a tie. -/
def Gn.riser (g : Gn) (run : List Nat) : Option Nat :=
  (run.filter (fun i => decide (g.rg (F.pwIsl_step i) < g.rg (F.pwIsl_ceil i)))).foldl (fun acc i => match acc with
    | none => some i
    | some j => if g.rg (F.pwIsl_step i) < g.rg (F.pwIsl_step j) then some i else some j) none

/-- The controller's rules for P in 0.25 W. -/
def Gn.capRule (g : Gn) (p4 : Nat) : Gn :=
  let cap := g.rg F.pwCap_capW
  let run := g.runIslands
  let top := run.foldl (fun m i => max m (g.rg (F.pwIsl_step i))) 0
  let thr := (List.range 16).any (fun i => g.rg (F.pwIsl_thr i) != 0)
  if 4 * cap < p4 then
    if run = [] then g
    else if top = 0 then
      (forEach (List.range 16) (fun i g => g.wr (F.pwIsl_thr i) (min 7 (g.rg (F.pwIsl_thr i) + 1))) g).record prodCore 0x0E04 2 0 p4 cap 0 0
    else forEach (run.filter (fun i => g.rg (F.pwIsl_step i) == top)) (fun i g => g.stepDown 1 i) g
  else if p4 < 4 * (cap - g.rg F.pwCap_hystW) then
    if thr then forEach (List.range 16) (fun i g => g.wr (F.pwIsl_thr i) (g.rg (F.pwIsl_thr i) - 1)) g
    else match g.riser run with
      | some i => g.wr (F.pwIsl_step i) (g.rg (F.pwIsl_step i) + 1)
      | none => g
  else g

/-- POWER_CAP_EVAL: the latest sample is shown, islands above their `ceil`, gated ones too, come down to it, then the rules apply. -/
def Gn.capEval (g : Gn) (p4 vin iin : Nat) : Gn :=
  let g := ((g.wr F.pwCap_pIn p4).wr F.pwCap_vin vin).wr F.pwCap_iin iin
  let beyond := (List.range 16).filter (fun i => decide (g.rg (F.pwIsl_ceil i) < g.rg (F.pwIsl_step i)))
  let g := forEach beyond (fun i g => g.stepDown (g.rg (F.pwIsl_step i) - g.rg (F.pwIsl_ceil i)) i) g
  g.capRule p4

def execPowerCapEval (p4 vin iin : Nat) (s : State) : Host.Outcome State Fault Refusal :=
  gnStep s (fun g => if g.alive then g.capEval p4 vin iin else g)

/-! ### Power states (R309, R310, R359) -/

/-- Islands are gated and count as stopped (R168). -/
def Gn.gateIslands (g : Gn) : Gn :=
  forEach (List.range 16) (fun i g => (g.put (F.pwIsl_gated i) true).stopIsland i g.now) g

def Gn.enterIdle (g : Gn) : Gn := g.gateIslands.wr F.pwState_pstate 1

/-- POWER, Run: the descriptor itself has ended Idle or Deep idle. -/
def execPowerRun (h : DescHdr) (s : State) : Host.Outcome State Fault Refusal :=
  gnStep s (fun g => g.desc 0x13 ruleS h (fun g => g.complete 0x13 h stOk []))

/-- POWER, Idle. -/
def execPowerIdle (h : DescHdr) (s : State) : Host.Outcome State Fault Refusal :=
  gnStep s (fun g => g.desc 0x13 ruleS h (fun g => g.enterIdle.complete 0x13 h stOk []))

/-- What refuses Deep idle (R310). -/
def Gn.deepBusy (g : Gn) : Bool :=
  !g.sq.graphs.isEmpty || g.pf.plans.any (fun p => p.k != 0) || !g.sits.isEmpty || decide (0 < g.armedCount)
    || (List.range 15).any (fun n => g.rg (F.scStu_st (n + 1)) != 0) || g.rg F.scStat_dbg == 2

/-- Registers of the blocks that Deep idle gates (R355). -/
def deepGated (k : Nat) : Bool :=
  (decide (0x70000 ≤ keyOff k) && decide (keyOff k < 0x90000)) || (List.range 16).any (fun c => inIsland c k)

/-- Entry into Deep idle: the ring is flushed with its marker and empty at the exit, clusters lose their contents, the proofing and tree-store
blocks hold reset values, and of HBM the images, the topology and the rank tables survive. -/
def Gn.enterDeep (g : Gn) : Gn :=
  let g := g.recordDrain.resetFlush 3
  let g := g.gateIslands.keepRegs (fun k => !deepGated k)
  let rd := { g.rd with rods := [], queued := [], spans := [], store := [], hold := [], hist := [], overwritten := [], closed := [], flagged := [] }
  let g := { g.revalidate with rd := rd, parked := [], hg := { g.hg with testing := [], stay := [] } }
  let g := g.onEv (fun e => { e with pages := [] })
  (forEach (List.range 16) (fun c g => g.failWithdrawn c) g).wr F.pwState_pstate 2

/-- POWER, Deep idle. -/
def execPowerDeepIdle (h : DescHdr) (s : State) : Host.Outcome State Fault Refusal :=
  gnStep s (fun g => g.desc 0x13 ruleS h (fun g =>
    if g.deepBusy then g.complete 0x13 h stRefused [] else g.enterDeep.complete 0x13 h stOk []))

/-- Nothing keeps the module from automatic Idle: no task ready or running, no batch formed or gathering, no sitting outstanding. -/
def Gn.quiet (g : Gn) : Bool :=
  let busy := fun t : TSt => match t with | .ready _ => true | .running _ => true | _ => false
  g.sits.isEmpty && g.pf.runs.isEmpty && !g.pf.exps.any (fun e => match e.st with | .waiting _ => true | _ => false) && !g.sq.graphs.any (fun x => x.insts.any (fun i => i.ts.any busy))

/-- AUTO_IDLE: `idle_us` without work has passed; disabled while the debug port is open at the intrusive level (R329). -/
def execAutoIdle (s : State) : Host.Outcome State Fault Refusal :=
  gnStep s (fun g => if g.alive && g.ready && g.flag F.pwState_autoIdle && g.rg F.pwState_pstate == 0 && g.quiet && g.rg F.scStat_dbg != 2
    then g.enterIdle else g)

/-- IDLE_WAKE: Idle ends; only a descriptor ends Deep idle. -/
def execIdleWake (s : State) : Host.Outcome State Fault Refusal :=
  gnStep s (fun g => if g.alive && g.rg F.pwState_pstate == 1 then g.wake else g)

/-! ### Flush and Off (R311 to R313, R366) -/

/-- Entry into Flush: the debug port closes, a dump's write and a waiting reset end, module-good falls, and the fixative flush runs with its limit of
512 pages; without a qualified reference, in the safe state or before HREF first qualifies, no flush runs (R313). A flush of R276 that still runs turns into the fixative flush at
the step it has reached (R276, R286). -/
def Gn.enterFlush (g : Gn) : Gn :=
  let turn := g.turning && !g.safe
  let g := if turn then g.turnBack else g
  let g := ((g.wr F.pwState_pstate 3).put F.buStat_mgood false).wr F.scStat_dbg 0
  let g := g.cutDump.onHg (fun h => { h with cur := none, warmAfter := none, coldAfter := false })
  if g.safe || g.rg F.ckStat_act == 3 then { g with pw := { g.pw with flushStopped := true } }
  else
    let g := { g with pw := { g.pw with flushStopped := false } }
    if turn then g.flushPages (some 512) else g.flushSteps (some 512)

/-- Power is there and the module is not in Flush already. -/
def Gn.canFlush (g : Gn) : Bool := !g.pw.off && g.pw.inp == .on && g.rg F.pwState_pstate != 3

/-- An input that falls while the hold-up capacitors charge ends the start (R365). -/
def Gn.endStart (g : Gn) : Gn := if g.pw.inp = .charging then { g with pw := { g.pw with inp := .off } } else g

def execPfailDetect (s : State) : Host.Outcome State Fault Refusal :=
  gnStep s (fun g => if g.canFlush then (g.inc F.pwState_pfail).enterFlush else g)

def execUndervoltage (s : State) : Host.Outcome State Fault Refusal :=
  gnStep s (fun g => if g.canFlush then (g.inc F.pwState_pfail).enterFlush else g.endStart)

/-- OVERVOLTAGE: the input stage is disconnected and `ovp` counts, in Flush and while the hold-up capacitors charge too; the flush runs from the hold-up capacitors. -/
def Gn.overvoltage (g : Gn) : Gn :=
  if g.pw.inp = .off then g
  else
    let n := g.inc F.pwState_ovp
    let n := if g.canFlush then n.enterFlush else n
    { n with pw := { n.pw with inp := .off } }

def execOvervoltage (s : State) : Host.Outcome State Fault Refusal := gnStep s Gn.overvoltage

/-- Steps 5 and 6 of R275: chunks changed since step 3, then the flush marker; `flushes` and `fl_skip` take its values. -/
def Gn.flushMarker (g : Gn) (dtLast : Nat) : Gn :=
  match g.ev.flush with
  | none => g
  | some f =>
    let more := (List.range 16).filter (fun c => g.ev.chunks.contains c)
    let g := forEach more (fun c g => g.flashChunk c) g
    let n := (g.rg F.evFlash_flushes + 1) % 2 ^ 16
    let g := g.marker 0x0C02 f.ht dtLast n f.pages f.left (f.chunks + more.length) g.ev.stopDrops
    ((g.wr F.evFlash_flushes n).wr F.evFlash_flSkip f.left).onEv (fun e => { e with flush := none })

/-- FLUSH_END (R312): module cold reset when PFAIL_N is high and the input is good, once HREF is qualified; else Off. No code of `last_rst` names this reset, so the latch
keeps its value. -/
def Gn.flushEnd (g : Gn) (pfailHigh vinOk : Bool) (dtLast : Nat) : Gn :=
  if g.pw.off || g.rg F.pwState_pstate != 3 then g
  else
    let g := g.flushMarker dtLast
    if pfailHigh && vinOk then
      if g.safe || !g.flag F.ckStat_hrefQ then { g with pw := { g.pw with coldWait := true } } else g.coldNow g.lastRst
    else g.offNow

def execFlushEnd (pfailHigh vinOk : Bool) (dtLast : Nat) (s : State) : Host.Outcome State Fault Refusal :=
  gnStep s (fun g => g.flushEnd pfailHigh vinOk dtLast)

/-- THERMAL_TRIP (R366): Off at once, no flush, and one that runs stops (R275); the latch takes the trip's bits. -/
def Gn.thermalTrip (g : Gn) (mask : Nat) : Gn :=
  if g.pw.off then g
  else
    let h := g.flushCut.turnCut.offNow
    { h with pw := { h.pw with trip := h.pw.trip ||| (mask % 32), lockOut := true } }

def execThermalTrip (mask : Nat) (s : State) : Host.Outcome State Fault Refusal := gnStep s (fun g => g.thermalTrip mask)

/-! ### The input stage (R365) -/

/-- POWER_APPLY: 48 V after Off, removed and applied again where a trip asks for it; clears the reset-cause latch. -/
def Gn.powerApply (g : Gn) : Gn :=
  if g.pw.off then
    let h := g.coldNow 0
    { h with pw := { h.pw with off := true, inp := .charging, lockOut := false } }
  else g

def execPowerApply (s : State) : Host.Outcome State Fault Refusal := gnStep s Gn.powerApply

/-- HOLDUP_CHARGE_DONE: bring-up begins at phase 0. -/
def Gn.chargeDone (g : Gn) : Gn := if g.pw.inp = .charging then { g with pw := { g.pw with off := false, inp := .on } } else g

def execHoldupChargeDone (s : State) : Host.Outcome State Fault Refusal := gnStep s Gn.chargeDone

/-! ### Bring-up (R348) -/

/-- A configuration image that R300 rejects: a hall root with another reference preference than HREF. -/
def cfgRejected (c : CfgImage) : Bool := !c.tray && c.top && c.srcSel != 0

/-- The keys that the start-up state of the identity array gives (R322 steps 1 to 3): the root secret is the first 32 bytes of SHA-384 of the corrected state, and each
key one block of HKDF (assumption log 4). -/
def deriveKeys (sram : List Byte) : KeyStore :=
  let r := (sha384 (Config.bchCorrect sram)).take 32
  { root := r, ident := hkdfBlock r (Config.kdfSalt 0) (Config.kdfInfo 0), flash := hkdfBlock r (Config.kdfSalt 1) (Config.kdfInfo 1) }

/-- The root secret agrees with the 48-byte check value of the helper data: its SHA-384 (assumption log 4). -/
def KeyStore.matches (k : KeyStore) : Bool := sha384 k.root == beBytes 48 Config.helperCheck.toNat

/-- The identity public key, and the fingerprint in GN_SC_ID: the first 8 bytes of its SHA-384, as a number under R8 (R322; assumption log 4). -/
def KeyStore.pub (k : KeyStore) : List Byte := (List.range 97).map (Config.identityKey k.ident)
def KeyStore.fp (k : KeyStore) : Nat := leNat ((sha384 k.pub).take 8)

/-- End of IDENTITY (R322): the keys are derived; only a match sets `id_ok`. -/
def Gn.endIdentity (g : Gn) (sram : List Byte) : Gn :=
  let k := deriveKeys sram
  let g := (g.onSc (fun x => { x with store := some k })).wr F.buStat_phase 2
  if k.matches then (g.put F.scStat_idOk true).wr F.scId_fp k.fp
  else g.record prodCore 0x0F02 4 0 0 0 0 0

/-- The bytes of an owner record that its MAC covers (assumption log 4). -/
def ownerBytes (cfgKey dbgKey : BitVec 384) (minFw minCfg : Nat) : List Byte :=
  beBytes 48 cfgKey.toNat ++ beBytes 48 dbgKey.toNat ++ leBytes 4 minFw ++ leBytes 4 minCfg

/-- The MAC of an owner record verifies under the flash integrity key in the key store (R324). -/
def Gn.macOk (g : Gn) : Bool :=
  match g.sc.store, g.sc.owner with
  | some k, some o => Config.ownerMac k.flash (ownerBytes o.cfgKey o.dbgKey o.minFw o.minCfg) == o.mac
  | _, _ => false

/-- The owner record in force: one whose MAC failed is treated as absent (R324). -/
def Gn.ownerRec (g : Gn) : Option Owner324 := if g.sc.ownerOk then g.sc.owner else none

/-- The public key, by its hash, under which images of a kind are signed; a configuration image is accepted only under an owner record (R323, R324). -/
def Gn.imageKey (g : Gn) (kind : Nat) : Option (BitVec 384) := if kind = 0 then some Config.bootKey else g.ownerRec.map (·.cfgKey)

/-- The least version of a kind that the owner record admits. -/
def Gn.floorVer (g : Gn) (kind : Nat) : Nat :=
  match g.ownerRec with
  | some o => if kind = 0 then o.minFw else o.minCfg
  | none => 0

/-- The signature of an image of a kind verifies (R323). -/
def Gn.imageSigned (g : Gn) (kind : Nat) (digest sig : List Byte) : Bool :=
  match g.imageKey kind with
  | some k => Config.ecdsaOk k digest sig
  | none => false

/-- The slot bring-up loads for a kind: of those whose signature verifies, the one with the highest version not below the minimum (R323). -/
def Gn.loadable (g : Gn) (kind : Nat) (l : List ImgSlot) : Option (Nat × ImgSlot) :=
  bestSlot (l.map (fun x => { x with valid := x.valid && g.imageSigned kind x.digest x.sig })) (g.floorVer kind)

/-- The record of a rejected configuration image (R15, R300): 0x1002 with the place of `src_sel` in `p0`. The manual lays no configuration image out, so the field is named by
the offset of GN_CK_CFG, its register (DESIGN CHOICE, assumption log 28). -/
def Gn.cfgReject (g : Gn) : Gn := g.record prodCore 0x1002 4 0 F.ckCfg_srcSel.off 0 0 0

/-- Bring-up stays in HALTED for want of an image of a kind (R323). -/
def Gn.haltImages (g : Gn) (kind : Nat) : Gn := (g.wr F.buStat_phase 8).record prodCore 0x0F03 4 0 kind 0 0 0

/-- End of IMAGES (R323, R324, R358): the owner record's MAC is checked, then the firmware and the configuration image to load are chosen; none of a kind, or a rejected
configuration image, leads to HALTED with 0x0F03. -/
def Gn.endImages (g : Gn) : Gn :=
  let g := g.onSc (fun x => { x with ownerOk := g.macOk })
  match g.loadable 0 g.sc.fwSlots, g.loadable 1 g.sc.cfgSlots with
  | none, _ => g.haltImages 0
  | some _, none => g.haltImages 1
  | some f, some c =>
    if cfgRejected c.2.cfg then g.cfgReject.haltImages 1
    else
      let g := g.onSc (fun x => { x with fwLoaded := f.1, cfgLoaded := c.1, cfg := some c.2.cfg })
      ((g.wr F.scImg_fwVer f.2.ver).wr F.scImg_cfgVer c.2.ver).loadCfg.wr F.buStat_phase 3

/-- A marker's code, `source` and `p1`, read from its page. -/
def FlashPg.mark (p : FlashPg) : Nat × Nat × Nat :=
  match p.recs with
  | r :: _ => (r.code, u32 r.body 0, u32 r.body 8)
  | [] => (0, 0, 0)

/-- The flash log scan (R277): `pgno` goes on above the highest found; `flushes` and `fl_skip` from the newest markers; the fixed records of the
newest copy of each chunk are reposted. -/
def Gn.flashScan (g : Gn) : Gn :=
  let ps := g.ev.flash.map (·.2)
  let top := ps.foldl (fun m p => max m p.pgno) 0
  let marks := ps.filter (fun p => p.kind == 3)
  let flushes := match marks.getLast? with | some p => p.mark.2.1 | none => 0
  let skip := match (marks.filter (fun p => p.mark.1 == 0x0C02)).getLast? with | some p => p.mark.2.2 | none => 0
  let g := ((g.onEv (fun e => { e with pgno := top })).wr F.evFlash_flushes flushes).wr F.evFlash_flSkip skip
  let slots := (List.range 16).flatMap (fun c => match (ps.filter (fun p => p.kind == 2 && p.sub == c)).getLast? with
    | some p => p.slots
    | none => [])
  forEach slots (fun x g => g.unsolicited 0 0 0x35 x.r.ht [x.slot, x.r.code, x.r.sev]) g

/-- The flush-marker check (R313): 0x0E06 with the newest page's `pgno` and `ht`. -/
def Gn.markerCheck (g : Gn) : Gn :=
  match g.ev.flash.getLast? with
  | none => g
  | some (_, p) => if p.kind = 3 then g
    else g.record prodCore 0x0E06 4 0 (lo32 p.pgno) (hi32 p.pgno) (lo32 p.ht) (hi32 p.ht)

/-- The dump state as firmware finds it in flash: the newest dump, its cause, and every dump held as unread. -/
def Gn.dumpState (g : Gn) : Gn :=
  let a := g.hg.slots.getD 0 none
  let b := g.hg.slots.getD 1 none
  let nw := match a, b with
    | some x, some y => if x.dseq < y.dseq then 1 else 0
    | none, some _ => 1
    | _, none => 0
  let g := (g.wr F.hgDump_newest nw).wr F.hgDump_unread (b2n a.isSome + 2 * b2n b.isSome)
  match g.hg.slots.getD nw none with
  | some d => g.wr F.hgDump_cause d.cause
  | none => g

/-- The trip latch (R366). -/
def Gn.tripCheck (g : Gn) : Gn :=
  if g.pw.trip = 0 then g
  else ({ g with pw := { g.pw with trip := 0 } } : Gn).record prodCore 0x0E07 4 0 g.pw.trip 0 0 0

/-- End of MEMORY: after a module cold reset the scan of flash; after a die warm reset HBM is found as it was left. -/
def Gn.endMemory (g : Gn) : Gn :=
  let warm := g.flag F.hgStat_rstBusy
  let g := g.markerCheck
  let g := if warm then g else g.flashScan.dumpState
  g.tripCheck.wr F.buStat_phase 4

/-- End of LINKS: the bring-up self-test's results, the reference selected, READY; after a die warm reset record 0x0D20, and 0x0B22 at the root (R249). -/
def Gn.endLinks (g : Gn) (e : PhaseEnd) : Gn :=
  let warm := g.flag F.hgStat_rstBusy
  let test := fun (k : Nat) (g : Gn) => match e.stFail.find? (fun f => f.1 == k) with
    | some f => (g.testResult k false f.2).recordDrain
    | none => (g.testResult k true 0).recordDrain
  let g := if warm then g else ((forEach (List.range 256) test g).put F.buStat_stDone true).wr F.buStat_buMs e.buMs
  let g := match g.bestRef with | some r => g.wr F.ckStat_act r | none => g
  let g := (g.wr F.buStat_phase 7).put F.buStat_mgood true
  let g := g.onHg (fun h => { h with beatHt := g.now, wdDone := false })
  if warm then
    let g := (g.put F.hgStat_rstBusy false).record prodCore 0x0D20 2 0 g.lastRst 0 0 0
    let g := if g.isTop then g.record prodCore 0x0B22 2 0 0 0 0 0 else g
    if g.hg.coldAfter then (g.onHg (fun h => { h with coldAfter := false })).coldRequest else g
  else g

/-- The phase that runs ends when its condition holds. -/
def Gn.phaseEnd (g : Gn) (e : PhaseEnd) : Gn :=
  match g.rg F.buStat_phase with
  | 0 => if g.flag F.ckStat_hrefQ then g.wr F.buStat_phase 1 else g
  | 1 => g.endIdentity e.sram
  | 2 => g.endImages
  | 3 => g.endMemory
  | 4 => g.wr F.buStat_phase 5
  | 5 => if g.flag F.buStat_topoOk then g.wr F.buStat_phase 6 else g
  | 6 => if e.refReady then g.endLinks e else g
  | _ => g

/-- BRINGUP_PHASE_END. -/
def execBringupPhaseEnd (e : PhaseEnd) (s : State) : Host.Outcome State Fault Refusal :=
  gnStep s (fun g => if g.alive && g.pw.inp == .on then g.phaseShown (g.phaseEnd e) else g)

end Sys2Proof.Machine
end

