-- ==== Sys2Proof/Machine/Studio.lean ====
section
/-! DEFINITION. Studios and secrets (chapter 15): opening, keys and closing of studios, the gesso erase, attestation, the flash log and dumps read by the
host, images and enrolment. -/

namespace Sys2Proof.Machine

/-- A studio number of a tenant. -/
def tenant (n : Nat) : Bool := decide (1 ≤ n) && decide (n ≤ 15)

/-! ### STUDIO_OPEN (R315) -/

def Gn.studioOpen (g : Gn) (h : DescHdr) (n : Nat) : Gn :=
  let refuse := fun why : Nat => (g.studioRecord n why).complete 0x15 h stRefused []
  if !tenant n then g.complete 0x15 h stInvalid []
  else if !g.flag F.scStat_idOk then refuse 1
  else if g.flag F.scStat_ksErased then refuse 2
  else if g.acc = 2 then refuse 3
  else if g.flag F.scStat_busy ∨ g.rg (F.scStu_st n) ≠ 0 then g.complete 0x15 h stRefused []
  else ((g.wr (F.scStu_st n) 1).setAcc).complete 0x15 h stOk []

def execStudioOpen (h : DescHdr) (n : Nat) (s : State) : Host.Outcome State Fault Refusal :=
  gnStep s (fun g => g.desc 0x15 ⟨false, false, true, true⟩ h (fun g => g.studioOpen h n))

/-! ### STUDIO_KEY (R321) -/

/-- Info of the key derivation: the ASCII text and the studio. -/
def studioInfo (n : Nat) : List Byte := [0x53, 0x41, 0x4C, 0x4E, 0x55, 0x53, 0x20, 0x53, 0x54, 0x55, 0x44, 0x49, 0x4F, 0x20, 0x4B, 0x45, 0x59, BitVec.ofNat 8 n]

/-- The three steps of R321 on a key block: the point and the shared secret, the transport key with GN_SC_ID as salt, the unwrap, by the bytes of the identity key. None where the point is off
the curve or the integrity check fails. -/
def unwrapSession (key block : List Byte) (fp n : Nat) : Option (List Byte) :=
  if block.length ≠ 137 then none
  else match ecPoint (block.take 97) with
    | none => none
    | some (x, y) => keyUnwrap (hkdf384 (beBytes 48 (Config.ecdhX key x y).toNat) (leBytes 8 fp) (studioInfo n)) (block.drop 97)

/-- STUDIO_KEY, posted by virtual function n for studio n. -/
def Gn.studioKey (g : Gn) (h : DescHdr) (block : List Byte) : Gn :=
  let n := h.fn
  if n = 0 then g.complete 0x17 h stDenied []
  else if !g.flag F.scStat_idOk || g.flag F.scStat_ksErased || g.studioSt n != 1 then g.complete 0x17 h stRefused []
  else match g.sc.store.bind (fun s => unwrapSession s.ident block (g.rg F.scId_fp) n) with
    | none => (g.studioRecord n 5).failed 0x17 h 0x0F04 0
    | some k =>
      let o := g.onSc (fun x => { x with keys := x.keys.filter (fun e => e.1 != n) ++ [(n, k)] })
      (g.retag ((o.wr (F.scStu_st n) 2).addWrap (F.scStu_opens n) 1)).complete 0x17 h stOk []

def execStudioKey (h : DescHdr) (block : List Byte) (s : State) : Host.Outcome State Fault Refusal :=
  gnStep s (fun g => g.desc 0x17 ⟨true, false, true, false⟩ h (fun g => g.studioKey h block))

/-! ### STUDIO_CLOSE (R326) -/

/-- Die sites whose rings are tagged with studio n in the tag map (R325), or whose rank is assigned to it. -/
def Gn.studioSites (g : Gn) (n : Nat) : List Nat := g.sites.filter (fun s => g.sc.tags.contains (s, n) || g.rankStudio (g.siteRank s) == n)

/-- A descriptor owed a completion ends DENIED, started or not. -/
def Gn.endOwed (g : Gn) (o : Owed) : Gn :=
  if g.hq.owed.contains o then ({ g with hq := { g.hq with owed := removeFirst (fun x => x == o) g.hq.owed } } : Gn).answerDesc o stDenied g.now [] else g

/-- What virtual function n has posted and not had completed ends DENIED: reads with the read status, everything else with the completion status. -/
def Gn.denyPosted (g : Gn) (n : Nat) : Gn :=
  let mine := fun r : Rd => match r.hdr with | some h => h.fn == n | none => false
  let g := forEach (g.rd.reads.filter mine) (fun r g => g.settleNo r rdDenied 0) g
  forEach (g.hq.owed.filter (fun o => o.fn == n)) (fun o g => g.endOwed o) g

/-- The buffers tagged n are zeroed (R326 step 3): history rings of the studio's sites, the tap captures and the landing area, whose exports are
answered UNCHECKABLE with NO_CAPTURE. -/
def Gn.eraseBuffers (g : Gn) (n : Nat) : Gn :=
  let ss := g.studioSites n
  let g := forEach (g.pf.exps.filter (fun e => e.st != .answered)) (fun e g => g.uncheckable e 4) g
  let g := g.onPf (fun q => { q with caps := [] })
  let tap := fun k : Nat => decide (memKey 2 0 ≤ k) && decide (k < memKey 2 (48 * 2 ^ 30))
  let land := fun k : Nat => decide (memKey 2 hbmLanding ≤ k) && decide (k < memKey 2 (hbmLanding + 2 ^ 30))
  let g := { g with mem := g.mem.filter (fun e => !(tap e.1 || land e.1)), sc := { g.sc with tags := g.sc.tags.filter (fun e => e.2 != n) } }
  g.onRd (fun d => { d with hist := d.hist.filter (fun x => !ss.contains x.site),
                            overwritten := d.overwritten ++ ss.filter (fun s => !d.overwritten.contains s) })

/-- STUDIO_CLOSE: steps 1 to 3 are taken here; CLOSE_ERASE_DONE ends the erase. -/
def Gn.studioClose (g : Gn) (h : DescHdr) (n : Nat) : Gn :=
  if !tenant n then g.complete 0x16 h stInvalid []
  else if g.flag F.scStat_busy ∨ g.rg (F.scStu_st n) = 0 then g.complete 0x16 h stRefused []
  else
    let d := g.denyPosted n
    let c := d.retag (d.onSc (fun x => { x with keys := x.keys.filter (fun e => e.1 != n), closing := x.closing ++ [(n, h)] }))
    (c.eraseBuffers n).put F.scStat_busy true

def execStudioClose (h : DescHdr) (n : Nat) (s : State) : Host.Outcome State Fault Refusal :=
  gnStep s (fun g => g.desc 0x16 ruleS h (fun g => g.studioClose h n))

/-- CLOSE_ERASE_DONE: a running erase ends. -/
def execCloseEraseDone (s : State) : Host.Outcome State Fault Refusal := gnStep s (fun g => if g.alive then g.closeDone else g)

/-! ### ATTEST (R340) -/

/-- The statement's bytes; the signature covers the 160 before it, and `k` selects its random part. -/
def Gn.statement (g : Gn) (s : KeyStore) (nonce : BitVec 256) (k : Nat) : List Byte :=
  let b := leBytes 32 nonce.toNat ++ leBytes 8 (g.rg F.scId_fp) ++ leBytes 4 (g.rg F.scImg_fwVer) ++ leBytes 4 (g.rg F.scImg_cfgVer) ++ leBytes 1 g.acc
    ++ List.replicate 7 0 ++ s.pub ++ List.replicate 7 0
  b ++ (List.range 96).map (Config.identitySign s.ident k (sha384 b))

/-- ATTEST; refused too once the gesso erase has taken the identity key. -/
def Gn.attest (g : Gn) (h : DescHdr) (nonce : BitVec 256) : Gn :=
  match g.sc.store with
  | none => g.complete 0x18 h stRefused []
  | some s =>
    if !g.flag F.scStat_idOk then g.complete 0x18 h stRefused []
    else
    let b := g.statement s nonce g.free
    (({ g with free := g.free + 1 } : Gn).hostPut h.fn h.addr b).complete 0x18 h stOk [b.length]

def execAttest (h : DescHdr) (nonce : BitVec 256) (s : State) : Host.Outcome State Fault Refusal :=
  gnStep s (fun g => g.desc 0x18 ruleBSM h (fun g => g.attest h nonce))

/-! ### LOG_READ, DUMP_READ (R258 to R261, R273, R292) -/

/-- A stored record's bytes: header, body, varnish word. -/
def RingRec.bytes (r : RingRec) : List Byte :=
  let w := r.sev + 8 * r.tq + 256 * b2n r.fx + 512 * b2n r.conf
  let b := leBytes 2 r.len ++ leBytes 2 r.code ++ leBytes 2 w ++ leBytes 2 r.seq ++ leBytes 8 r.ht ++ r.body
  b ++ leBytes 2 (crc16 b) ++ leBytes 2 r.seq

/-- Cut or fill to n bytes. -/
def fillTo (n : Nat) (v : Byte) (b : List Byte) : List Byte := (b ++ List.replicate (n - b.length) v).take n

/-- The 32 bytes of a slot among those occupied; a free slot is zeros. -/
def slotBytes (l : List FxSlot) (i : Nat) : List Byte :=
  match l.find? (fun x => x.slot == i) with | some x => RecIn.bytes x.r | none => List.replicate 32 0

/-- Data of a flash page: ring page, fixed chunk or marker. -/
def FlashPg.data (p : FlashPg) : List Byte :=
  if p.kind = 2 then (List.range 128).flatMap (fun i => slotBytes p.slots (128 * p.sub + i))
  else fillTo 4096 0 (p.recs.flatMap RingRec.bytes)

/-- Data and spare area of a flash page (R273). -/
def FlashPg.bytes (p : FlashPg) : List Byte :=
  let d := p.data
  let s := leBytes 1 p.kind ++ leBytes 1 p.sub ++ leBytes 2 p.pidx ++ leBytes 8 p.pgno ++ leBytes 8 p.ht ++ leBytes 4 (crc32c d) ++ List.replicate 36 0xFF
  d ++ s ++ leBytes 4 (crc32c s)

/-- LOG_READ of pages with their spare areas; an erased page reads 0xFF. -/
def Gn.logRead (g : Gn) (h : DescHdr) (first count : Nat) : Gn :=
  if count = 0 ∨ 4096 < count ∨ 262144 < first + count then g.complete 0x19 h stInvalid []
  else
    let page := fun i => match g.ev.flash.find? (fun e => e.1 == first + i) with
      | some e => e.2.bytes
      | none => List.replicate 4160 0xFF
    let b := (List.range count).flatMap page
    (g.hostPut h.fn h.addr b).complete 0x19 h stOk [4160 * count]

def execLogRead (h : DescHdr) (first count : Nat) (s : State) : Host.Outcome State Fault Refusal :=
  gnStep s (fun g => g.desc 0x19 ruleBSM h (fun g => g.logRead h first count))

/-- The register that holds the byte at an offset of BAR0, and its copy. -/
def regOfByte (off : Nat) : Option (RegDef × Nat) :=
  (regTable.find? (fun r => decide (r.base ≤ off) &&
    (if r.stride = 0 then decide (off < r.base + r.width / 8)
     else decide ((off - r.base) % r.stride < r.width / 8) && decide ((off - r.base) / r.stride < r.count)))).map
    (fun r => (r, if r.stride = 0 then 0 else (off - r.base) / r.stride))

/-- A byte of the setup-register snapshot: the byte of BAR0 at that offset, from the fields the snapshot took, as the physical function has them. -/
def DumpHdr.setupByte (d : DumpHdr) (off : Nat) : Byte :=
  match regOfByte off with
  | none => 0
  | some (r, i) =>
    let v := (r.flds.map (fun f => if f.acc == .wo then 0 else SMap.get regDefault d.regs (fieldRef 0 r i f).key * 2 ^ f.lo)).sum
    BitVec.ofNat 8 (v / 256 ^ (off - (r.base + r.stride * i)))

/-- Byte i of a section: fixed channel, setup registers at their BAR0 offsets, control-core memories one after the other and event ring, as the snapshot took them; the layout
of the others the manual does not give (assumption log 9). -/
def DumpHdr.secByte (d : DumpHdr) (id i : Nat) : Byte :=
  if id = 3 then d.setupByte i
  else if id = 6 then SMap.get memDefault d.mem (memKey 1 i)
  else if id = 2 then (slotBytes d.fixed (i / 32)).getD (i % 32) 0
  else if id = 8 then (match d.ring.find? (fun p => p.pidx == i / 4096) with
    | some p => (p.recs.flatMap RingRec.bytes).getD (i % 4096) 0
    | none => 0)
  else Config.dumpByte d.dseq (id * 2 ^ 32 + i)

/-- Status of the n-th section: 1 written, 2 cut by power loss, 0 while it is still to be written. -/
def DumpHdr.secSt (d : DumpHdr) (n : Nat) : Nat :=
  if d.complete then 1 else match d.cut with | none => 0 | some k => if n < k then 1 else 2

/-- Directory of a dump. -/
def DumpHdr.dir (d : DumpHdr) : List Byte :=
  let l := dumpSections d.cl
  l.zipIdx.flatMap (fun e => leBytes 2 e.1.1 ++ leBytes 2 (d.secSt e.2) ++ leBytes 4 (4096 + bytesBefore l e.2) ++ leBytes 4 e.1.2
    ++ leBytes 4 (crc32c ((List.range e.1.2).map (d.secByte e.1.1))))

/-- The header of a dump. -/
def DumpHdr.bytes (d : DumpHdr) : List Byte :=
  let b := leBytes 4 0x44504D31 ++ leBytes 2 1 ++ leBytes 1 d.cause ++ leBytes 1 (b2n d.complete) ++ leBytes 8 d.ht ++ leBytes 8 d.dseq ++ leBytes 4 d.fw
    ++ leBytes 2 d.cl ++ leBytes 2 d.nsec ++ fillTo 256 0 d.dir ++ List.replicate 3804 0
  b ++ leBytes 4 (crc32c b)

/-- Byte i of a dump: header, then the sections; one that is not written whole holds what the manual does not say. -/
def DumpHdr.byteAt (d : DumpHdr) (i : Nat) : Byte :=
  let l := dumpSections d.cl
  if i < 4096 then d.bytes.getD i 0
  else match l.zipIdx.find? (fun e => decide (i - 4096 < bytesBefore l (e.2 + 1))) with
    | none => 0xFF
    | some e => if d.secSt e.2 = 1 then d.secByte e.1.1 (i - 4096 - bytesBefore l e.2) else Config.dumpByte d.dseq i

/-- A byte of a dump slot; a slot without a dump is erased. -/
def Gn.dumpAt (g : Gn) (slot i : Nat) : Byte := match g.hg.slots.getD slot none with | none => 0xFF | some d => d.byteAt i

def Gn.dumpRead (g : Gn) (h : DescHdr) (slot off4k n : Nat) : Gn :=
  if 2 ≤ slot ∨ 402653184 < off4k * 4096 + n then g.complete 0x1A h stInvalid []
  else
    let b := (List.range n).map (fun i => g.dumpAt slot (off4k * 4096 + i))
    (g.hostPut h.fn h.addr b).complete 0x1A h stOk [n]

def execDumpRead (h : DescHdr) (slot off4k bytes : Nat) (s : State) : Host.Outcome State Fault Refusal :=
  gnStep s (fun g => g.desc 0x1A ruleBSM h (fun g => g.dumpRead h slot off4k bytes))

/-! ### IMAGE_WRITE, ENROL (R324, R353) -/

/-- An image slot never written. -/
def slotEmpty : ImgSlot := { ver := 0, valid := false, digest := [], sig := [], cfg := ⟨false, false, false, 0, 0, 0, [], []⟩ }

/-- Replace slot i of the two slots of a kind. -/
def setSlot (l : List ImgSlot) (i : Nat) (x : ImgSlot) : List ImgSlot :=
  if i = 0 then [x, l.getD 1 slotEmpty] else [l.getD 0 slotEmpty, x]

/-- The slot that holds the loaded image of a kind; with no configuration loaded there is none. -/
def Gn.loadedSlot (g : Gn) (kind : Nat) : Option Nat := if kind = 0 then some g.sc.fwLoaded else if g.sc.cfg.isSome then some g.sc.cfgLoaded else none

/-- IMAGE_WRITE: the slot is valid only when signature and version pass. The failure's record has kind 23. -/
def Gn.imageWrite (g : Gn) (h : DescHdr) (kind slot : Nat) (x : FwImage) : Gn :=
  if 2 ≤ kind ∨ 2 ≤ slot ∨ x.len = 0 ∨ 63 * 1048576 < x.len then g.complete 0x1D h stInvalid []
  else if g.loadedSlot kind = some slot then g.complete 0x1D h stRefused []
  else
    let ok := g.imageSigned kind x.digest x.sig && decide (g.floorVer kind ≤ x.ver)
    let img : ImgSlot := { ver := x.ver, valid := ok, digest := x.digest, sig := x.sig, cfg := x.cfg }
    let g := if kind = 0 then g.onSc (fun c => { c with fwSlots := setSlot c.fwSlots slot img })
      else g.onSc (fun c => { c with cfgSlots := setSlot c.cfgSlots slot img })
    if ok then g.complete 0x1D h stOk []
    else (g.record prodCore (Config.recCode 23).toNat 4 (2 * kind + slot) x.ver 0 0 0).failed 0x1D h (Config.recCode 23).toNat slot

def execImageWrite (h : DescHdr) (kind slot : Nat) (img : FwImage) (s : State) : Host.Outcome State Fault Refusal :=
  gnStep s (fun g => g.desc 0x1D ruleM h (fun g => g.imageWrite h kind slot img))

/-- An enrolment block is signed by the configuration key of the record in force, over SHA-384 of its other content (R324; assumption log 4). -/
def enrolSigned (m : Owner324) (o : OwnerIn) : Bool := Config.ecdsaOk m.cfgKey (sha384 (ownerBytes o.cfgKey o.dbgKey o.minFw o.minCfg)) o.sig

/-- The owner record that an enrolment leaves, with its MAC: the minimum versions only rise above those of the record in force (R324). -/
def ownerNew (k : KeyStore) (m : Option Owner324) (o : OwnerIn) : Owner324 :=
  let fw := match m with | some m => max m.minFw o.minFw | none => o.minFw
  let cf := match m with | some m => max m.minCfg o.minCfg | none => o.minCfg
  { cfgKey := o.cfgKey, dbgKey := o.dbgKey, minFw := fw, minCfg := cf, mac := Config.ownerMac k.flash (ownerBytes o.cfgKey o.dbgKey fw cf) }

/-- ENROL: the first enrolment needs no signature. Without the flash integrity key no record can be written (assumption log 4). The failure's record has kind 24. -/
def Gn.enrol (g : Gn) (h : DescHdr) (o : OwnerIn) : Gn :=
  match g.sc.store with
  | none => g.complete 0x1E h stRefused []
  | some k =>
    if (match g.ownerRec with | none => true | some m => enrolSigned m o) then
      (g.onSc (fun c => { c with owner := some (ownerNew k g.ownerRec o), ownerOk := true })).complete 0x1E h stOk []
    else (g.record prodCore (Config.recCode 24).toNat 4 0 0 0 0 0).failed 0x1E h (Config.recCode 24).toNat 0

def execEnrol (h : DescHdr) (o : OwnerIn) (s : State) : Host.Outcome State Fault Refusal :=
  gnStep s (fun g => g.desc 0x1E ruleM h (fun g => g.enrol h o))

end Sys2Proof.Machine
end

