-- ==== Sys2Proof/Machine/Setup.lean ====
section
/-! DEFINITION. The topology at bring-up (R15, R210, R350, R351) and the maintenance stop (R352). -/

namespace Sys2Proof.Machine

/-! ### TOPOLOGY -/

/-- Offsets of the port entries, the site entries and the rank table. -/
def portOff (p : Nat) : Nat := 64 + 16 * p
def siteOff (s : Nat) : Nat := 672 + 8 * s
def rankOff (r : Nat) : Nat := 1568 + 4 * r

def portNone : PortEnt := ⟨0, 0xFFFF, 0, 0xFFFF, 0, 0⟩
def siteNone : SiteEnt := ⟨false, 0, 0, 0⟩

/-- The 524,288 bytes of a rank table (R210). -/
def rankBytes (l : List (Nat × Word32)) : List Byte :=
  let m := mkRanks l
  (List.range 131072).flatMap (fun r => leBytes 4 (SMap.get rankDefault m r).toNat)

/-- Port entries of the bytes after the header. -/
def portEnts (b : List Byte) : List PortEnt :=
  (List.range 38).map (fun p =>
    let e := b.drop (16 * p)
    { use := u8 e 0, peer := u16 e 2, asym := sext 16 (u16 e 4), pparent := u16 e 6, rearm := u32 e 8,
      resv := if u8 e 1 ≠ 0 then 2 else if u32 e 12 ≠ 0 then 13 else 0 })

/-- Site entries, which follow them. -/
def siteEnts (b : List Byte) : List SiteEnt :=
  (List.range 112).map (fun s =>
    let e := b.drop (608 + 8 * s)
    { mapped := bit (u8 e 0) 0, port := u8 e 1, asym := sext 16 (u16 e 2), resv := if 2 ≤ u8 e 0 then 1 else if u32 e 4 ≠ 0 then 5 else 0 })

/-- The fields of a topology: `b` is the header before its CRC, `e` the bytes after the header. -/
def topoFields (b e : List Byte) (ranks : List (Nat × Word32)) (ok : Bool) : Topology :=
  { magic := u32 b 0, len := u32 b 4, node := u16 b 8, level := u8 b 10, top := bit (u8 b 11) 0, tray := bit (u8 b 11) 1, parent := u16 b 12,
    foster := u16 b 14, adopt := u8 b 16, gen := u16 b 20, nrank := u32 b 24,
    resv := if 4 ≤ u8 b 11 then 12 else if !zeroBytes b 17 20 then 18 else if !zeroBytes b 22 24 then 23 else if !zeroBytes b 28 60 then 29 else 0,
    crcOk := ok, ports := portEnts e, sites := siteEnts e, ranks := ranks }

/-- `crc` is the CRC-32C of bytes 0 to 59 and of every byte after the header. -/
def topoCrcOk (t : TopoIn) : Bool :=
  t.head.length == 1568 && (t.head.drop 60).take 4 == leBytes 4 (crc32c (t.head.take 60 ++ t.head.drop 64 ++ rankBytes t.ranks))

/-- The topology that the bytes spell. -/
def parseTopo (t : TopoIn) : Topology := topoFields (t.head.take 60) (t.head.drop 64) t.ranks (topoCrcOk t)

/-- A port's use fits the role and the port numbering. -/
def useOk (tray : Bool) (p use : Nat) : Bool :=
  match use with
  | 0 => true
  | 1 => tray && decide (p < 8)
  | 2 => !tray && decide (p < 32)
  | 3 => !tray && decide (p < 32)
  | 4 => p == 32
  | 5 => p == 33
  | 6 => tray && decide (34 ≤ p) && decide (p < 38)
  | _ => false

/-- The configured role: that of the configuration image; without one any role passes. -/
def Gn.roleFits (g : Gn) (tray : Bool) : Bool := match g.sc.cfg with | some c => c.tray == tray | none => true

/-- Header checks as (offset, fails), in ascending offset. The limit of `nrank` is that of the dies on a tray, and of the ranks for a manager (R15; assumption log 28). -/
def Gn.hdrChecks (g : Gn) (t : Topology) : List (Nat × Bool) :=
  let useAt := fun p => (t.ports.getD p portNone).use
  [ (0, t.magic != 0x54504731),
    (4, t.len != 525856),
    (10, decide (4 ≤ t.level) || (t.tray != (t.level == 0))),
    (11, !g.roleFits t.tray || (t.top && g.rg F.ckCfg_srcSel != 0) || t.resv == 12),
    (14, t.foster == t.parent && t.foster != 0xFFFF),
    (16, t.adopt != 0xFF && (!t.top || useAt t.adopt != 2)),
    (17, t.resv == 18),
    (22, t.resv == 23),
    (24, decide ((if t.tray then 112 else 131072) < t.nrank)),
    (28, t.resv == 29),
    (60, !t.crcOk) ]

/-- Port checks: reserved bytes, use, and the parents' ports present exactly when the header names them. -/
def portChecks (t : Topology) : List (Nat × Bool) :=
  (List.range 38).flatMap (fun p =>
    let e := t.ports.getD p portNone
    let up := if p = 32 then (e.use == 4) != (t.parent != 0xFFFF) else if p = 33 then (e.use == 5) != (t.foster != 0xFFFF) else false
    [(portOff p, !useOk t.tray p e.use || up), (portOff p + (e.resv - 1), e.resv != 0)])

/-- Site checks: `mapped` agrees with the rank table, the down port exists, reserved bytes are 0. -/
def siteChecks (t : Topology) (m : SMap Word32) : List (Nat × Bool) :=
  (List.range 112).flatMap (fun s =>
    let e := t.sites.getD s siteNone
    let inMap := t.tray && m.any (fun x => bits x.2.toNat 0 8 == s)
    [(siteOff s, e.mapped != inMap || e.resv == 1), (siteOff s + 1, decide (8 ≤ e.port)), (siteOff s + 4, e.resv == 5)])

/-- The byte offset of the first field that fails, none when the topology passes. -/
def Gn.topoBad (g : Gn) (t : Topology) (m : SMap Word32) : Option Nat :=
  let checks := g.hdrChecks t ++ portChecks t ++ siteChecks t m
  match checks.find? (fun c => c.2) with
  | some c => some c.1
  | none => match t.ranks.find? (fun e => decide (131072 ≤ e.1)) with
    | some _ => some (rankOff 131072)
    | none => (rankBad t.tray m).map rankOff

/-- TOPOLOGY: accepted with its F fields loaded, or FAILED with 0x1002; REFUSED once one is accepted. -/
def Gn.topology (g : Gn) (h : DescHdr) (t : Topology) : Gn :=
  let m := mkRanks t.ranks
  if g.flag F.buStat_topoOk then g.complete 0x01 h stRefused []
  else match g.topoBad t m with
    | some off => ((g.inc F.buStat_topoRej).record prodCore 0x1002 4 0 off 0 0 0).failed 0x01 h 0x1002 off
    | none =>
      let g := (g.onRd (fun d => { d with topo := some t, ranks := m })).loadTopo
      ((g.wr F.rdMap_gen t.gen).put F.buStat_topoOk true).complete 0x01 h stOk []

def execTopology (h : DescHdr) (t : TopoIn) (s : State) : Host.Outcome State Fault Refusal :=
  gnStep s (fun g => g.desc 0x01 ⟨false, true, false, false⟩ h (fun g => g.topology h (parseTopo t)))

/-! ### MAINT_STOP (R352) -/

/-- Step 3: an ensemble slot unloads; a staging in progress ends CANCELLED. -/
def Gn.dropEns (g : Gn) (slot : Nat) : Gn :=
  let e := g.ens slot
  if e.st == .empty || e.st == .unloading then g
  else
    let g := match e.hdr with | some h => g.complete 0x08 h stCancelled [] | none => g
    (g.setEns slot { e with st := .unloading, hdr := none, new := none, left := [], writing := [] }).ensSettle slot

/-- Step 1: every graph unloads; its running tasks go on to their next break point (R84). -/
def Gn.maintGraphs (g : Gn) : Gn :=
  forEach ((g.sq.graphs.filter (fun x => !x.unloading)).map (·.slot)) (fun k g => g.unloadGraph k none) g

/-- Steps 2 and 3, once no graph is left. -/
def Gn.maintDrop (g : Gn) : Gn :=
  let g := (g.onPf (fun q => { q with plans := [], seeds := [] })).proofSettle
  forEach (g.ts.slots.map (·.1)) (fun k g => g.dropEns k) g

/-- Steps 4 to 6, once every ensemble slot is EMPTY. -/
def Gn.maintEnd (g : Gn) (h : DescHdr) : Gn :=
  let g := forEach g.sits (fun x g => g.retireSit x) g
  (((g.recordDrain.resetFlush 4).wr F.scStat_acc 2).onSc (fun x => { x with maint := none })).complete 0x1C h stOk []

/-- The steps of a maintenance stop that runs, each as soon as the one before has finished; firmware looks once each time-unit increment (R352; assumption log 28). -/
def Gn.maintGo (g : Gn) : Gn :=
  match g.sc.maint with
  | none => g
  | some h =>
    if !g.alive || !g.sq.graphs.isEmpty then g
    else
      let g := g.maintDrop
      if g.ts.slots.any (fun e => e.2.st != .empty) then g else g.maintEnd h

/-- MAINT_STOP: REFUSED outside Sealed; else its steps begin. -/
def Gn.maintStop (g : Gn) (h : DescHdr) : Gn :=
  if g.acc != 0 then g.complete 0x1C h stRefused [] else (g.maintGraphs.onSc (fun x => { x with maint := some h })).maintGo

def execMaintStop (h : DescHdr) (s : State) : Host.Outcome State Fault Refusal :=
  gnStep s (fun g => g.desc 0x1C ruleS h (fun g => g.maintStop h))

end Sys2Proof.Machine
end

