-- ==== Sys2Proof/Machine/Flags.lean ====
section
/-! DEFINITION. The register fields that show other state: status flags, masks, counts and levels computed at each read (R10; the register tables of the
chapters). Every other field is held in `Gn.regs`. -/

namespace Sys2Proof.Machine

/-- Ranks of the active table that a test on (route, froute, studio) admits. -/
def Gn.countRanks (g : Gn) (test : Nat → Nat → Nat → Bool) : Nat :=
  (g.rd.ranks.filter (fun e => test (bits e.2.toNat 0 8) (bits e.2.toNat 8 8) (bits e.2.toNat 16 4))).length

/-- GN_ID_ALARM (R360): each bit follows its source. -/
def Gn.alarmBit (g : Gn) (i : Nat) : Bool :=
  match i with
  | 0 => (List.range 32).any (fun n => g.flag (F.hgMon_stalled n) && decide (1 ≤ g.rg (F.hgMon_act n)))
  | 1 => g.flag F.hgBeat_hwWdFired
  | 2 => g.flag F.evStat_fxFull
  | 3 => g.flag F.hlJob_alarm
  | 4 => !g.timeValid
  | 5 => !g.pf.quar.isEmpty || !g.pf.barred.isEmpty
  | 6 => (List.range 16).any (fun c => g.rg (F.clSt_failMask c) != 0)
  | 7 => g.flag F.pwGtouch_valid
  | _ => false

/-- GN_PF_POOL (R129). -/
def Gn.poolField (g : Gn) (lo : Nat) : Nat :=
  let pool := match g.planOf g.pf.epoch with | some p => p.pool | none => 0
  let all := match g.planOf g.pf.epoch with | some p => p.dblAll | none => false
  match lo with
  | 0 => pool
  | 16 => maskOf (g.pf.quar.map (·.1) ++ g.pf.barred)
  | 32 => if all then pool else maskOf ((List.range 16).filter (fun c => pool.testBit c && g.inTest c))
  | _ => min 0xFF ((g.sq.graphs.map (fun x => (x.insts.filter (fun i => i.cluster.isSome)).length)).sum)

/-- GN_PF_CAP (R129): the region in use in 64 MiB units, epochs with captures, the active epoch. -/
def Gn.capField (g : Gn) (lo : Nat) : Nat :=
  match lo with
  | 0 => ceilDiv ((g.pf.caps.map (·.size)).sum) 67108864
  | 10 => (((g.pf.caps.filter (fun c => !c.freed)).map (·.epoch)).eraseDups).length
  | _ => g.pf.epoch

/-- State code of a slot (R107); an unload shows as a commit, as which it works (R106). -/
def EnsSt.code : EnsSt → Nat
  | .empty => 0
  | .ready => 1
  | .staging => 2
  | .commit => 3
  | .unloading => 3

/-- Model tasks that wait at the barrier of a slot. -/
def Gn.barrierWait (g : Gn) (slot : Nat) : Nat :=
  if !(g.ens slot).closed then 0
  else
    let waits := fun (x : Graph) (i : Inst) => i.ts.zipIdx.filter (fun e => match e.1, x.tasks[e.2]? with
      | .ready _, some t => t.kind == 0 && (g.imgSlots t.image).contains slot && !i.bind.any (fun b => b.1 == slot)
      | _, _ => false)
    (g.sq.graphs.map (fun x => (x.insts.map (fun i => (waits x i).length)).sum)).sum

/-- An instance still holds a count on a slot (R103): a quantizing task that has not completed, or a walking one with a panel it has not passed. -/
def Gn.holdsCount (g : Gn) (slot : Nat) (x : Graph) (i : Inst) : Bool :=
  match i.bind.find? (fun b => b.1 == slot) with
  | none => false
  | some b =>
    let panels := match (g.ens slot).find b.2 with | some ep => ep.panels | none => []
    i.ts.zipIdx.any (fun e => match x.tasks[e.2]? with
      | none => false
      | some t => t.kind == 0 && (g.imgSlots t.image).contains slot && (match e.1 with
        | .done _ => false
        | .running r => g.quants t.image || (g.walks t.image && panels.any (fun p => !r.released.contains (slot, p.num)))
        | _ => g.quants t.image || g.walks t.image))

/-- GN_TS_EPOCH and GN_TS_STATE of a slot (R107). -/
def Gn.tsField (g : Gn) (slot lo : Nat) (isState : Bool) : Nat :=
  let e := g.ens slot
  let held := fun (x : Graph) => (x.insts.filter (g.holdsCount slot x)).length
  let cur := match e.cur with | some x => x.epoch | none => 0
  if !isState then
    if lo = 0 then cur else (match e.new with | some x => x.epoch | none => 0)
  else match lo with
    | 0 => e.st.code
    | 2 => (match e.cur with | some x => x.panels.length | none => 0)
    | 11 => if e.st = .commit then e.left.length else 0
    | 20 => (g.sq.graphs.map held).sum
    | 31 => min 0xFF (g.barrierWait slot)
    | _ => b2n (e.damaged.any (fun d => d.1 == cur))

/-- GN_HL_RANK of the rank in GN_HL_SEL (R257). -/
def Gn.rankField (g : Gn) (lo : Nat) : Nat :=
  let x := g.hr (g.rg F.hlSel_rank)
  match lo with
  | 0 => scoreOf x.p
  | 10 => x.st.code
  | 13 => x.p
  | _ => x.causes

/-- GN_EV_STAT (R278). -/
def Gn.evField (g : Gn) (lo : Nat) : Option Nat :=
  match lo with
  | 0 => some (g.ev.pages.filter Page.dirty).length
  | 12 => some g.ev.fx.length
  | 25 => some (b2n g.ev.flush.isSome)
  | 26 => some g.ev.coal.length
  | _ => none

/-- The value of a computed field of function `fn`'s register `r` with index `i`, none for a field that is held. -/
def Gn.computed (g : Gn) (fn : Nat) (r : RegDef) (i lo : Nat) : Option Nat :=
  if r.base = 0x1110 then (if lo = 0 then some g.lastRst else if lo = 20 then some g.monStalled else none)
  else if r.base = 0x2000 then some (b2n (g.alarmBit lo))
  else if r.base = 0x20108 then (if lo = 2 then some (g.countRanks (fun _ _ s => s == i + 1)) else none)
  else if r.base = 0x30208 then (if lo = 32 then some (g.cq fn i).hold.length else none)
  else if r.base = 0x42000 then (if lo = 8 then some (b2n (g.flag (F.arb_frz i))) else none)
  else if r.base = 0x44008 then (if lo = 6 then some (g.rd.rods.length + g.rd.spans.length) else if lo = 12 then some (ceilDiv g.area 1048576) else none)
  else if r.base = 0x44018 then (if lo = 16 then some g.armedCount else none)
  else if r.base = 0x44020 then
    (if lo = 32 then some (g.countRanks (fun a b _ => if g.isTray then decide (a < 112) else decide (a < 32) || decide (b < 32))) else none)
  else if r.base = 0x45010 then (if lo = 46 then some g.hQueue.length else none)
  else if r.base = 0x45028 then some (g.rankField lo)
  else if r.base = 0x50000 then some g.now
  else if r.base = 0x50018 then
    (if lo = 0 then some g.sits.length else if lo = 32 then some (ceilDiv ((g.sits.map (·.chanBytes)).sum) 1024) else none)
  else if r.base = 0x60000 then some g.ev.pgno
  else if r.base = 0x60008 then g.evField lo
  else if r.base = 0x70010 then some (g.poolField lo)
  else if r.base = 0x70018 then (if lo = 44 then none else some (g.capField lo))
  else if r.base = 0x80000 then some (g.tsField i lo false)
  else if r.base = 0x80008 then (if lo = 39 then none else some (g.tsField i lo true))
  else none

/-- GN_LK_SHP of class 0 of an uplink, q = 0 and 4: class 0 is never shaped, and its shaper reads 0 (R198, R205). -/
def deadShaper (r : RegDef) (i : Nat) : Bool := r.base == 0x40C00 && i % 4 == 0


/-- What a field reads as. A WO field reads 0 (R10). -/
def Gn.fieldVal (g : Gn) (fn : Nat) (r : RegDef) (i : Nat) (f : Fld) : Nat :=
  if f.acc = .wo || deadShaper r i then 0
  else match g.computed fn r i f.lo with
    | some v => v % 2 ^ f.len
    | none => g.rg (fieldRef fn r i f)

/-- What a register reads as, all 64 or 32 bits. -/
def Gn.regVal (g : Gn) (fn : Nat) (r : RegDef) (i : Nat) : Nat := (r.flds.map (fun f => g.fieldVal fn r i f * 2 ^ f.lo)).sum

end Sys2Proof.Machine
end

