-- ==== Sys2Proof/Machine/Operands.lean ====
section
/-! DEFINITION. The forms of a BAR0 access (R12, R356): width and alignment, the areas of a virtual function, the registers an access touches,
and how the bits it carries meet a field. -/

namespace Sys2Proof.Machine

/-- Width or alignment outside R12. -/
def badAccess (off width : Nat) : Bool := !(width == 4 || width == 8) || off % width != 0

/-- Index of the register of an array whose 32-bit half stands at an offset, and the low bit of that half. -/
def RegDef.hit (r : RegDef) (h : Nat) : Option (Nat × Nat) :=
  let at_ := fun (i d : Nat) => if d = 0 then some (i, 0) else if d = 4 ∧ r.width = 64 then some (i, 32) else none
  if h < r.base then none
  else if r.stride = 0 then at_ 0 (h - r.base)
  else if (h - r.base) / r.stride < r.count then at_ ((h - r.base) / r.stride) ((h - r.base) % r.stride)
  else none

/-- The register half at an offset. -/
def halfAt (h : Nat) : Option (RegDef × Nat × Nat) :=
  regTable.findSome? (fun r => match r.hit h with | some (i, b) => some (r, i, b) | none => none)

/-- What an access covers of one register: index, the register's bits [lo, hi), and the bit of the data at which `lo` stands. -/
structure RegPart where
  r : RegDef
  i : Nat
  lo : Nat
  hi : Nat
  sh : Nat
deriving DecidableEq, Repr

/-- One 32-bit half as a part. -/
def halfPart (h sh : Nat) : List RegPart := match halfAt h with | some (r, i, b) => [⟨r, i, b, b + 32, sh⟩] | none => []

/-- The registers a good access covers: a whole 64-bit register, a half, or two 32-bit neighbours in one cycle (R356). None: no register there. -/
def regParts (off width : Nat) : List RegPart :=
  if width = 8 then
    match halfAt off with
    | some (r, i, 0) => if r.width = 64 then [⟨r, i, 0, 64, 0⟩] else ⟨r, i, 0, 32, 0⟩ :: halfPart (off + 4) 32
    | some (r, i, b) => ⟨r, i, b, b + 32, 0⟩ :: halfPart (off + 4) 32
    | none => halfPart (off + 4) 32
  else halfPart off 0

/-- Bits of a field that an access carries, as a position within the field, a length and the data there. -/
def RegPart.carried (p : RegPart) (f : Fld) (v : Nat) : Nat × Nat × Nat :=
  let a := max p.lo f.lo
  let n := min p.hi (f.lo + f.len) - a
  (a - f.lo, n, bits v (a - p.lo + p.sh) n)

/-- The field after a write of the carried bits over its old value. -/
def RegPart.merge (p : RegPart) (f : Fld) (v old : Nat) : Nat :=
  match p.carried f v with
  | (s, n, x) => old % 2 ^ s + x * 2 ^ s + old / 2 ^ (s + n) * 2 ^ (s + n)

/-- The access covers the whole field. -/
def RegPart.covers (p : RegPart) (f : Fld) : Bool := decide (p.lo ≤ f.lo) && decide (f.lo + f.len ≤ p.hi)

/-- The access reaches some bit of the field. -/
def RegPart.reaches (p : RegPart) (f : Fld) : Bool := decide (p.lo < f.lo + f.len) && decide (f.lo < p.hi)

/-- A value a write may place in a field: any when the table gives no range, else one in a range (R9). -/
def Fld.takes (f : Fld) (v : Nat) : Bool := f.ok.isEmpty || f.ok.any (fun e => decide (e.1 ≤ v) && decide (v ≤ e.2))

/-- The offset lies in an area of a virtual function's BAR0 (R317, R355): the identity part read-only, its host queues, its event cursor and windows. -/
def vfArea (off : Nat) (write : Bool) : Bool :=
  (!write && decide (off < 0x1000)) || (decide (0x30000 ≤ off) && decide (off < 0x40000)) || (decide (0x60018 ≤ off) && decide (off < 0x60020))
    || (decide (0x61000 ≤ off) && decide (off < 0x63000))

/-- Cluster whose island part holds an offset (R355). -/
def islandAt (off : Nat) : Option Nat :=
  if 0x100000 ≤ off ∧ off < 0x200000 ∧ off % 0x10000 < 0x450 then some ((off - 0x100000) / 0x10000) else none

/-- An offset of a block that Deep idle gates (R355). -/
def deepBlock (off : Nat) : Bool := decide (0x70000 ≤ off) && decide (off < 0x90000)

/-- An offset of the always-on block, as the debug port finds it in Deep idle (R329): the identity, clocks-and-power and security blocks, the event
window's registers and fixed window, and each cluster's always-on part. -/
def alwaysOn (off : Nat) : Bool :=
  decide (off < 0x30000) || (decide (0x60000 ≤ off) && decide (off < 0x61000)) || (decide (0x62000 ≤ off) && decide (off < 0x63000))
    || (decide (0x100000 ≤ off) && decide (0x450 ≤ off % 0x10000))

end Sys2Proof.Machine
end

