-- ==== Sys2Proof/Machine/Bar.lean ====
section
/-! DEFINITION. Accesses to BAR0 (R10, R12, R317, R354 to R357, R362), the windows of R271 and the MSI-X table, and the commands that make them. -/

namespace Sys2Proof.Machine

/-! ### Windows and the MSI-X table -/

/-- A ring record as a function sees it: whole, or in the withheld form of R320. -/
def Gn.shown (g : Gn) (fn : Nat) (r : RingRec) : List Byte :=
  if fn = 0 ∨ r.code = 0x0C00 ∨ (r.studio = fn ∧ g.studioSt fn = 2) then r.bytes
  else
    let b := leBytes 2 r.len ++ leBytes 2 0x0F01 ++ leBytes 2 0 ++ leBytes 2 r.seq ++ List.replicate (r.len - 12) 0
    b ++ leBytes 2 (crc16 b) ++ leBytes 2 r.seq

/-- The ring window of a function (R271). -/
def Gn.ringWindow (g : Gn) (fn : Nat) : List Byte :=
  match g.ev.pages.find? (fun p => p.pidx == g.rg (F.evCur_pg fn)) with
  | some p => fillTo 4096 0 (p.recs.flatMap (g.shown fn))
  | none => []

/-- The fixed window: zeros for a virtual function (R318). -/
def Gn.fixedWindow (g : Gn) (fn : Nat) : List Byte :=
  if fn = 0 then (List.range 128).flatMap (fun i => slotBytes g.ev.fx (128 * g.rg (F.evCur_fxBlk 0) + i)) else []

/-- Vectors of a function (R334). -/
def vectors (fn : Nat) : Nat := if fn = 0 then 6 else 5

/-- A word of the MSI-X table or of the PBA; none where there is none. -/
def msixWord (fn off : Nat) : Option Nat :=
  if 0x38000 ≤ off ∧ off < 0x38000 + 16 * vectors fn then some (off - 0x38000) else none

def pbaWord (off : Nat) : Bool := decide (0x39000 ≤ off) && decide (off < 0x39008)

def Gn.msixRead (g : Gn) (fn off : Nat) : Nat :=
  match msixWord fn off with
  | some w => SMap.get msixDefault g.msix (msixKey fn w)
  | none => if off = 0x39000 then SMap.get msixDefault g.msix (msixKey fn 0x800) else 0

/-- A write of an MSI-X table word: address words keep bits [1:0] 0, the control word holds the mask bit; unmasking sends what is pending
(R346, PCIe 6.0). -/
def Gn.msixWrite (g : Gn) (fn off v : Nat) : Gn :=
  match msixWord fn off with
  | none => g
  | some w =>
    let x := if w % 16 = 12 then v % 2 else if w % 16 = 0 then v - v % 4 else v
    let g := { g with msix := SMap.set msixDefault g.msix (msixKey fn w) x }
    let pend := SMap.get msixDefault g.msix (msixKey fn 0x800)
    if w % 16 = 12 ∧ x = 0 ∧ pend.testBit (w / 16) then
      let m := SMap.set msixDefault g.msix (msixKey fn 0x800) (putBit pend (w / 16) false)
      ({ g with msix := m } : Gn).sendVec fn (w / 16)
    else g

/-! ### Reads -/

/-- A register's value at a read. While `ev_valid` is 0 the event fields of GN_CL_SPARSE are undefined: each read draws a free value (R68). -/
def Gn.readReg (g : Gn) (fn : Nat) (p : RegPart) : Gn × Nat :=
  if p.r.base = 0x100408 ∧ g.flag (F.clSparse_evValid p.i) = false then
    match g.draw with
    | (g', x) => (g', g.regVal fn p.r p.i % 2 ^ 48 + x % 2 ^ 7 * 2 ^ 48)
  else (g, g.regVal fn p.r p.i)

/-- Clear the RC fields that a read covers whole (R10, R12). -/
def Gn.clearRead (g : Gn) (fn : Nat) (p : RegPart) : Gn :=
  forEach (p.r.flds.filter (fun f => f.acc == .rc && p.covers f)) (fun f g => g.wr (fieldRef fn p.r p.i f) 0) g

def Gn.readParts (g : Gn) (fn : Nat) : List RegPart → Gn × Nat
  | [] => (g, 0)
  | p :: ps => match g.readReg fn p with
    | (g1, x) => match (g1.clearRead fn p).readParts fn ps with
      | (g2, y) => (g2, bits x p.lo (p.hi - p.lo) * 2 ^ p.sh + y)

/-- A gated touch of a function's BAR0 access (R305). -/
def Gn.gatedTouch (g : Gn) (fn off : Nat) : Gn := g.gatedAccess (min fn 1) fn off

/-- An access where no register exists (R356 rule 4). -/
def Gn.unmap (g : Gn) (fn off : Nat) : Gn :=
  let g := g.inc F.idUnmap_count
  if g.flag F.idUnmap_valid then g
  else (((g.put F.idUnmap_valid true).wr F.idUnmap_who (min fn 1)).wr F.idUnmap_fn fn).wr F.idUnmap_addr off

/-- The block at an offset is gated now (R305, R309, R355). -/
def Gn.gatedAt (g : Gn) (off : Nat) : Bool :=
  (deepBlock off && g.rg F.pwState_pstate == 2) || (match islandAt off with | some c => g.flag (F.pwIsl_gated c) | none => false)

/-- A read of good width and alignment, in the order of R356. -/
def Gn.barRead (g : Gn) (fn off width : Nat) : Gn × Nat :=
  if fn != 0 && !vfArea off false then (g.deny fn off, 0)
  else if g.gatedAt off then (g.gatedTouch fn off, 0)
  else if 0x61000 ≤ off ∧ off < 0x62000 then (g, uN (g.ringWindow fn) (off - 0x61000) width)
  else if 0x62000 ≤ off ∧ off < 0x63000 then (g, uN (g.fixedWindow fn) (off - 0x62000) width)
  else if (msixWord fn off).isSome ∨ pbaWord off then
    (g, if width = 8 then g.msixRead fn off + g.msixRead fn (off + 4) * 2 ^ 32 else g.msixRead fn off)
  else match regParts off width with
    | [] => (g.unmap fn off, 0)
    | ps => g.readParts fn ps

/-! ### Writes -/

/-- What a write does to one field by its access code; a reserved value leaves the field unchanged (R9, R10). -/
def Gn.writeFld (g : Gn) (fn : Nat) (p : RegPart) (v : Nat) (f : Fld) : Gn :=
  let ref := fieldRef fn p.r p.i f
  if !p.reaches f then g
  else match f.acc with
    | .rw => let x := p.merge f v (g.rg ref)
             if f.takes x then g.wr ref x else g
    | .w1c => g.wr ref (maskDiff (g.rg ref) (p.merge f v 0))
    | _ => g

def Gn.writeFlds (g : Gn) (fn : Nat) (p : RegPart) (v : Nat) : Gn := forEach p.r.flds (fun f g => g.writeFld fn p v f) g

/-- The data of a write in the places of the register's bits; bits not carried are 0. -/
def RegPart.place (p : RegPart) (v : Nat) : Nat := bits v p.sh (p.hi - p.lo) * 2 ^ p.lo

/-- A write of 1 to a one-bit W1C field that is set. -/
def Gn.clears (g : Gn) (p : RegPart) (v : Nat) (f : FRef) : Bool := g.flag f && bit (p.place v) f.lo

/-- GN_HG_RST (R285 to R287): the actions of one write, cluster and link resets first, then the dump, then `warm` or `cold` under the key. -/
def Gn.rstWrite (g : Gn) (v : Nat) : Gn :=
  let g := when (bit v 10 && !g.inReset) (fun g : Gn => g.clusterReset (bits v 0 4)) g
  let g := when (bit v 11 && !g.inReset && decide (bits v 4 6 < 38)) (fun g : Gn => g.linkPortReset (bits v 4 6)) g
  let g := when (bit v 12) (fun g : Gn => g.dumpStart 5) g
  when (bit v 13 || bit v 14) (fun g : Gn => g.keyed (bits v 48 16) (fun g => if bit v 14 then g.coldRequest else g.warmRequest 1)) g

/-- GN_HL_SRCH (R257): `persist` and `span` keep their values when the write would leave `persist` above `span`. -/
def Gn.srchWrite (g : Gn) (p : RegPart) (v : Nat) : Gn :=
  let x := g.writeFlds 0 p v
  if x.rg F.hlSrch_span < x.rg F.hlSrch_persist then
    (x.wr F.hlSrch_persist (g.rg F.hlSrch_persist)).wr F.hlSrch_span (g.rg F.hlSrch_span)
  else x

/-- GN_LK_SHP (R198): credit gathered so far stands at the old rate; in Restart mode an empty queue has gathered none. -/
def Gn.shaperWrite (g : Gn) (p : RegPart) (v : Nat) : Gn :=
  let q := p.i
  if deadShaper p.r q then g
  else
    let waits := (g.port (32 + q / 4)).sendQ.any (fun f => f.cls == q % 4)
    let c := if g.flag (F.lkShp_mode q) && !waits then (SMap.get shaperDefault g.lk.shapers q).c else g.shaperNow q
    let x : Shaper := { c := c, last := g.now }
    ({ g with lk := { g.lk with shapers := SMap.set shaperDefault g.lk.shapers q x } } : Gn).writeFlds 0 p v

/-- GN_HQ_SQ and GN_HQ_CQ: clearing `en` stops the ring first (R338). -/
def Gn.ringWrite (g : Gn) (fn : Nat) (p : RegPart) (v : Nat) (cq : Bool) : Gn :=
  let stop := decide (p.lo = 0) && !bit (p.place v) 8
  (when stop (fun g : Gn => g.ringDisable fn cq p.i) g).writeFlds fn p v

/-- A register's write (R10) with the action its table states. -/
def Gn.writeReg (g : Gn) (fn : Nat) (p : RegPart) (v : Nat) : Gn :=
  let x := p.place v
  if p.r.base = 0x1000 then (if p.lo = 0 then g.monWrite p.i x else g)
  else if p.r.base = 0x1100 then
    let c := g.clears p v F.hgBeat_hwWdFired
    (g.writeFlds fn p v).vec5 c
  else if p.r.base = 0x1108 then g.rstWrite x
  else if p.r.base = 0x30100 then g.ringWrite fn p v false
  else if p.r.base = 0x30200 then g.ringWrite fn p v true
  else if p.r.base = 0x30300 then g.nudge fn
  else if p.r.base = 0x40C00 then g.shaperWrite p v
  else if p.r.base = 0x40D00 then
    when (bit x 40) (fun g : Gn => g.gateCommit p.i) (g.writeFlds fn p v)
  else if p.r.base = 0x45008 then g.srchWrite p v
  else if p.r.base = 0x50200 then
    let old := g.rg (F.winCfg_lenUs p.i) + g.rg (F.winCfg_closeUs p.i) * 2 ^ 20
    g.winCfg p.i (old % 2 ^ p.lo + x + old / 2 ^ p.hi * 2 ^ p.hi)
  else if p.r.base = 0x60008 then
    let c := g.clears p v F.evStat_fxFull
    (g.writeFlds fn p v).vec5 c
  else if p.r.base = 0x60010 then forEach (List.range 16) (fun n g => g.vec4 n false) (g.writeFlds fn p v)
  else if p.r.base = 0x60020 then g.clearNew (x % 256)
  else if p.r.base = 0x60028 then (if p.lo = 0 then g.fxack (x % 2048) else g)
  else g.writeFlds fn p v

def Gn.writeParts (g : Gn) (fn v : Nat) (ps : List RegPart) : Gn := forEach ps (fun p g => g.writeReg fn p v) g

/-- A write of good width and alignment, in the order of R356. The windows take no write. -/
def Gn.barWrite (g : Gn) (fn off width v : Nat) : Gn :=
  if fn != 0 && !vfArea off true then g.deny fn off
  else if g.gatedAt off then g.gatedTouch fn off
  else if 0x61000 ≤ off ∧ off < 0x63000 then g
  else if (msixWord fn off).isSome ∨ pbaWord off then
    when (decide (width = 8)) (fun g : Gn => g.msixWrite fn (off + 4) (v / 2 ^ 32)) (g.msixWrite fn off (v % 2 ^ 32))
  else match regParts off width with
    | [] => g.unmap fn off
    | ps => g.writeParts fn v ps

/-! ### The commands -/

/-- Record 0x0001 of an access settled by rule 1 of R356 (R362). -/
def Gn.badRecord (g : Gn) (fn master off width : Nat) (write : Bool) : Gn := g.record prodCore 0x0001 2 (fn + 16 * master) off width (b2n write) 0

/-- The PCIe port answers: not Off, not in the safe state, not in Flush (R301, R309). -/
def Gn.hostUp (g : Gn) : Bool := g.alive

def Gn.hostRead (g : Gn) (fn off width : Nat) : Gn :=
  if !g.hostUp then g
  else if badAccess off width then (g.badRecord fn 0 off width false).emitOut .abort
  else match g.barRead fn off width with | (g', v) => g'.emitOut (.rdata v)

/-- REGISTER_READ: a PCIe read of BAR0 (R356). -/
def execRegisterRead (fn off width : Nat) (s : State) : Host.Outcome State Fault Refusal := gnStep s (fun g => g.hostRead fn off width)

def Gn.hostWrite (g : Gn) (fn off width v : Nat) : Gn :=
  if !g.hostUp then g
  else if badAccess off width then (g.badRecord fn 0 off width true).emitOut .abort
  else g.barWrite fn off width v

/-- REGISTER_WRITE: a PCIe write of BAR0 (R356). -/
def execRegisterWrite (fn off width : Nat) (v : Word) (s : State) : Host.Outcome State Fault Refusal :=
  gnStep s (fun g => g.hostWrite fn off width v.toNat)

/-- Access width of a REG descriptor. -/
def regWidth (w64 : Bool) : Nat := if w64 then 8 else 4

def Gn.regReadDesc (g : Gn) (h : DescHdr) (off : Nat) (w64 : Bool) : Gn :=
  if badAccess off (regWidth w64) then (g.badRecord 0 1 off (regWidth w64) false).complete 0x1B h stInvalid []
  else match g.barRead 0 off (regWidth w64) with | (g', v) => g'.complete 0x1B h stOk [v]

/-- REG_READ: a REG descriptor reads the physical function's map (R340, R357). -/
def execRegRead (h : DescHdr) (off : Nat) (w64 : Bool) (s : State) : Host.Outcome State Fault Refusal :=
  gnStep s (fun g => g.desc 0x1B ruleBSM h (fun g => g.regReadDesc h off w64))

def Gn.regWriteDesc (g : Gn) (h : DescHdr) (off : Nat) (w64 : Bool) (v : Nat) : Gn :=
  if badAccess off (regWidth w64) then (g.badRecord 0 1 off (regWidth w64) true).complete 0x1B h stInvalid []
  else (g.barWrite 0 off (regWidth w64) v).complete 0x1B h stOk []

/-- REG_WRITE: a REG descriptor writes under the register's rules (R340, R342). -/
def execRegWrite (h : DescHdr) (off : Nat) (w64 : Bool) (data : Word) (s : State) : Host.Outcome State Fault Refusal :=
  gnStep s (fun g => g.desc 0x1B ruleBSM h (fun g => g.regWriteDesc h off w64 data.toNat))

end Sys2Proof.Machine
end

