-- ==== Sys2Proof/Machine/PlBase.lean ====
section
/-! DEFINITION. The Plovlugo block's shared operations (chapter 07): its pins, message port, event buffer, hall time and reset. -/

namespace Sys2Proof.Machine

/-- The block's hall time. -/
def Pl.now (p : Pl) : Nat := p.tm.ht

/-- Time quality of the block's stamps (R163, R166, R167): the hold bit and the code of 1 ns per ms in holdover; unbounded while time is invalid. -/
def Pl.tq (p : Pl) : Nat :=
  let ms := match p.tm.holdSince with | none => 0 | some t => (p.now - t) / 1000000
  b2n p.tm.holdSince.isSome * 2 + (if p.valid then uncCode ms else 7) * 4

/-- The studio tag in force: 0 until the first link write (R155). -/
def Pl.tag (p : Pl) : Nat := if p.tagValid then p.studio else 0

/-- Counters of the block. -/
def Pl.nctr (p : Pl) : Nat := p.par.nbank * 64

/-- Bytes of the circular buffer. -/
def Pl.trBytes (p : Pl) : Nat := 2 ^ (p.par.trbufLog + 10)

/-- Add to a counter that saturates. -/
def sat (len n : Nat) : Nat := min (2 ^ len - 1) n

/-! ### Pins (R130) -/

/-- Names of the pins in `Out.pin`: selection answer (sel + 2 × seq), lp_ack (core × 2 + level), verdict (seq × 8 + code), REPLAY_REQ (0, or 1 + 2 ×
rp_info), FREEZE, pl_irq, tr_stall (core × 2 + level), px_rex (seq), px_ready. -/
def pinSel : Nat := 0
def pinLpAck : Nat := 1
def pinVerdict : Nat := 2
def pinReplay : Nat := 3
def pinFreeze : Nat := 4
def pinIrq : Nat := 5
def pinStall : Nat := 6
def pinRex : Nat := 7
def pinReady : Nat := 8

def Pl.emitOut (p : Pl) (o : Out) : Pl := { p with out := p.out ++ [o] }

/-- FREEZE is asserted while some sitting keeps it so (R143). -/
def Pl.freeze (p : Pl) : Bool := !p.frzs.isEmpty

/-- `pl_irq` (R157): some bit is set in both PL_INT_STAT and PL_INT_EN. -/
def Pl.irq (p : Pl) : Bool := p.intStat &&& p.intEn != 0

/-- `rp_info` of the presented request (R130). -/
def Replay.info (r : Replay) : Nat :=
  r.id.step % 2 ^ 32 + r.id.tensor % 2 ^ 16 * 2 ^ 32 + r.id.op % 2 ^ 8 * 2 ^ 48 + r.id.rb % 2 ^ 32 * 2 ^ 56 + r.seq % 2 ^ 32 * 2 ^ 88 + r.code % 8 * 2 ^ 120

/-- What REPLAY_REQ and `rp_info` show. -/
def Pl.replayPin (p : Pl) : Nat := match p.rpUp, p.rpQ with | true, r :: _ => 1 + 2 * r.info | _, _ => 0

/-- `px_ready` (R151 step 4): low while frames of an export wait at the message port. A stream's last beat is accepted when it is high, which PX_STREAM_END
stands for (assumption log 34). -/
def Pl.pxReady (p : Pl) : Bool := !p.q.any (fun it => it.typ == 0x20)

/-- Put out the levels that differ between two states of the block: FREEZE, REPLAY_REQ, pl_irq, px_ready. -/
def Pl.showPins (p q : Pl) : Pl :=
  let one := fun (name a b : Nat) => if a = b then [] else [Out.pin name b]
  { q with out := q.out ++ one pinFreeze (b2n p.freeze) (b2n q.freeze) ++ one pinReplay p.replayPin q.replayPin
                    ++ one pinIrq (b2n p.irq) (b2n q.irq) ++ one pinReady (b2n p.pxReady) (b2n q.pxReady) }

/-- The outcome of a command to the block: its effect, and the pins that follow their levels. -/
def plDo (s : State) (f : Pl → Pl) : Host.Outcome State Fault Refusal := plStep s (fun p => p.showPins (f p))

/-- Set an interrupt bit (R157): 0 rp_pend, 1 pg_stall, 2 tr_loss, 3 time_inv, 4 link_down, 5 frz, 6 deny. -/
def Pl.raise (p : Pl) (b : Nat) : Pl := { p with intStat := putBit p.intStat b true }

/-! ### Message port (R152) -/

/-- An item built now. -/
def Pl.item (p : Pl) (typ cls : Nat) (body : List Byte) : PlItem :=
  { typ := typ, cls := cls, ht := p.now, studio := p.tag, tq := p.tq, body := body, segs := 0, key := 0, mark := 0, chunks := [], gap := (0, 0),
    acc := 0 }

def Pl.queue (p : Pl) (it : PlItem) : Pl := { p with q := p.q ++ [it] }

/-- Queue an item built now. -/
def Pl.send (p : Pl) (typ cls : Nat) (body : List Byte) : Pl := p.queue (p.item typ cls body)

/-- A sitting image waits while a frame built before its instant is queued (R174). -/
def Pl.eligible (p : Pl) (it : PlItem) : Bool := it.typ != 0x19 || !p.q.any (fun x => decide (x.ht < it.ht))

/-- A frame may leave: all types once the link is up, while it starts those of the link-start exchange only (R134, R162). -/
def Pl.mayLeave (p : Pl) (it : PlItem) : Bool := p.lkState == 2 || (p.lkState == 1 && (it.typ == 0x02 || it.typ == 0x00))

/-- The item at the head of a class; the rest of an item in progress comes first (R189). -/
def Pl.headItem (p : Pl) (cls : Nat) : Option PlItem :=
  match p.q.find? (fun it => it.cls == cls && it.segs != 0) with
  | some it => if p.mayLeave it then some it else none
  | none => match p.q.find? (fun it => it.cls == cls && p.mayLeave it) with
    | some it => if p.eligible it then some it else none
    | none => none

/-- The class of the next grant (R152): the lowest number with a frame, but class 3 after 7 grants made while it waited. -/
def Pl.grantClass (p : Pl) : Option Nat :=
  let has := fun c : Nat => (p.headItem c).isSome
  if 7 ≤ p.grants ∧ has 3 then some 3 else (List.range 4).find? has

/-- Bytes of 64-bit words. -/
def wordBytes (ws : List Word) : List Byte := ws.flatMap (fun w => leBytes 8 w.toNat)

/-- The gap notice of a shipment (R147). -/
def gapNotice (bytes ht : Nat) : List Word :=
  if bytes = 0 then [] else [BitVec.ofNat 64 (0xE * 2 ^ 60 + 0xFF * 2 ^ 52 + 2 ^ 50 + bytes % 2 ^ 48), BitVec.ofNat 64 ht]

/-- Whole words of one frame's body. -/
def frameWords : Nat := 509

/-- As many whole pieces as `n` words hold: their words, and the pieces left. -/
def takePieces : Nat → List Chunk → List Word × List Chunk
  | _, [] => ([], [])
  | n, (pos, ws) :: cs =>
    if ws.length ≤ n then match takePieces (n - ws.length) cs with | (t, r) => (ws ++ t, r)
    else ([], (pos, ws) :: cs)

/-- Bytes an item of a trace-extract reply holds at most (R189). -/
def extractItem : Nat := 262144

/-- The next frame of an item: its body, whether a segment of the same item follows, and the item after it, none when nothing is left. A trace-extract
shipment leaves in consecutive items of at most 256 KiB, each frame with whole pieces of trace (R147, R189). -/
def PlItem.nextFrame (it : PlItem) : List Byte × Bool × Option PlItem :=
  if it.typ = 0x15 then
    let notice := gapNotice it.gap.1 it.gap.2
    match takePieces (frameWords - notice.length) it.chunks with
    | (ws, rest) =>
      let b := wordBytes (notice ++ ws)
      let more := !rest.isEmpty && decide (it.acc + b.length + 8 * frameWords ≤ extractItem)
      let left := { it with gap := (0, 0), chunks := rest, segs := if more then it.segs + 1 else 0, acc := if more then it.acc + b.length else 0 }
      (b, more, if rest.isEmpty then none else some left)
  else
    let bs := bodies it.body
    let more := decide (it.segs + 1 < bs.length)
    (bs.getD it.segs [], more, if more then some { it with segs := it.segs + 1 } else none)

/-- The 32 bytes of an event record (R258). -/
def recBytes (r : RecIn) : List Byte :=
  leBytes 8 r.ht ++ leBytes 2 r.code ++ leBytes 1 (r.sev % 8 + r.tq % 32 * 8) ++ leBytes 1 (r.rep % 64) ++ leBytes 4 r.source.toNat ++ leBytes 4 r.p0.toNat
    ++ leBytes 4 r.p1.toNat ++ leBytes 4 r.p2.toNat ++ leBytes 4 r.p3.toNat

/-- Effects of an item's last frame: an event record leaves the local buffer, a sitting image its buffer, the last part of an export counts and a
first one moves the watermark (R142, R152, R154, R157). -/
def Pl.itemSent (p : Pl) (it : PlItem) : Pl :=
  if it.typ = 0x10 then { p with evs := removeFirst (fun x => recBytes x == it.body) p.evs }
  else if it.typ = 0x19 then
    (if p.q.any (fun x => x.typ == 0x19 && x.ht == it.ht) then p else { p with images := p.images.filter (fun t => t != it.ht) })
  else if it.mark = 1 then { p with exports := (p.exports + 1) % 2 ^ 16, watermark := it.key }
  else if it.mark = 2 then { p with exports := (p.exports + 1) % 2 ^ 16 }
  else p

/-- Replace the first element that equals `x`. -/
def replaceFirst (x y : PlItem) : List PlItem → List PlItem
  | [] => []
  | a :: as => if a = x then y :: as else a :: replaceFirst x y as

/-- Send one frame of an item: the next `seq` of its class; the link layer writes t1 of a time request (R152, R187 to R189). -/
def Pl.sendFrame (p : Pl) (it : PlItem) : Pl :=
  match it.nextFrame with
  | (b, more, left) =>
    let f : Frame := { dst := .site p.par.site, typ := it.typ, cls := it.cls, stamp := it.ht % 2 ^ 48, z := false, more := more, seg := it.segs % 256,
                       studio := it.studio, tq := it.tq, src := p.par.site, seq := p.seqs.getD it.cls 0, body := b }
    let f := stampTime p.tm.fix f
    let p := if it.typ = 0x02 then { p with tm := p.tm.requested 0 (u16 b 10) } else p
    let q := match left with | none => removeFirst (fun x => x == it) p.q | some y => replaceFirst it y p.q
    let seqs := p.seqs.zipIdx.map (fun e => if e.2 = it.cls then (e.1 + 1) % 2 ^ 16 else e.1)
    let p := { p with q := q, seqs := seqs, out := p.out ++ [.beats f.bytes] }
    if left.isNone then p.itemSent it else p

/-- FRAME_SEND at the message port: the network accepts a frame (`mo_ready`), and one grant is made. -/
def Pl.grant (p : Pl) : Pl :=
  let wait3 := p.q.any (fun it => it.cls == 3)
  match p.grantClass with
  | none => if wait3 then p else { p with grants := 0 }
  | some c => match p.headItem c with
    | none => p
    | some it => ({ p with grants := if c = 3 ∨ wait3 = false then 0 else p.grants + 1 } : Pl).sendFrame it

/-- The keep-alive frame; it carries the export watermark when the block has proof export (R152, R188). -/
def Pl.keepalive (p : Pl) : PlItem := p.item 0x00 0 (if p.par.px then leBytes 4 p.watermark else [])

/-- KEEPALIVE_TIMER at the message port: 1 µs without a frame. A keep-alive is queued unless one waits already; none leaves while the link is down. -/
def Pl.keepaliveTimer (p : Pl) : Pl := if p.lkState = 0 ∨ p.q.any (fun it => it.typ == 0x00) then p else p.queue p.keepalive

/-! ### Event buffer (R154, R266, R267, R371) -/

/-- Class of an event record (R152). -/
def recCls (r : RecIn) : Nat := if 3 ≤ r.sev then 1 else 3

/-- A record takes a slot and its place at the port. -/
def Pl.putRec (p : Pl) (r : RecIn) : Pl := ({ p with evs := p.evs ++ [r] } : Pl).send 0x10 (recCls r) (recBytes r)

/-- Write a record into the local buffer of 2,048 slots: when it is full, over the oldest of equal or lower severity not yet shipped (R267). -/
def Pl.storeRec (p : Pl) (r : RecIn) : Pl :=
  if p.evs.length < 2048 then p.putRec r
  else match p.evs.find? (fun x => decide (x.sev ≤ r.sev)) with
    | none => { p with evDropped := sat 12 (p.evDropped + 1) }
    | some old =>
      let q := removeFirst (fun it => it.typ == 0x10 && it.body == recBytes old) p.q
      ({ p with evs := removeFirst (fun x => x == old) p.evs, q := q, pentimento := sat 8 (p.pentimento + 1) } : Pl).putRec r

/-- A record of the block, never coalesced (R371). -/
def Pl.record (p : Pl) (code sev source p0 p1 p2 p3 : Nat) : Pl :=
  p.storeRec { ht := p.now, code := code, sev := sev, tq := p.tq, rep := 0, source := BitVec.ofNat 32 source, p0 := BitVec.ofNat 32 p0,
               p1 := BitVec.ofNat 32 p1, p2 := BitVec.ofNat 32 p2, p3 := BitVec.ofNat 32 p3 }

/-- An occurrence matches an entry of the coalescing table (R266). -/
def recMatches (e r : RecIn) : Bool := e.code == r.code && e.source == r.source && decide (e.ht ≤ r.ht) && decide (r.ht < e.ht + 1000000)

/-- The entry of oldest `ht`, the lower `source` on a tie (R266). -/
def oldestRec (l : List RecIn) : Option RecIn :=
  l.foldl (fun acc c => match acc with
    | none => some c
    | some o => if c.ht < o.ht ∨ (c.ht = o.ht ∧ c.source.toNat < o.source.toNat) then some c else some o) none

/-- An entry leaves the table for the local buffer. -/
def Pl.flushRec (p : Pl) (e : RecIn) : Pl := ({ p with coal := removeFirst (fun x => x == e) p.coal } : Pl).storeRec e

/-- A coalesced occurrence in the table of 8 entries (R266, R267): an entry that reaches `rep` = 63 is closed. -/
def Pl.coalesce (p : Pl) (r : RecIn) : Pl :=
  match p.coal.find? (fun e => recMatches e r) with
  | some e =>
    let f := { e with rep := e.rep + 1 }
    let p := { p with coal := p.coal.map (fun x => if x = e then f else x) }
    if 63 ≤ f.rep then p.flushRec f else p
  | none =>
    let p := if p.coal.length < 8 then p else match oldestRec p.coal with | none => p | some o => p.flushRec o
    { p with coal := p.coal ++ [r] }

/-- RECORD_SUBMIT at the block (R154): a host-die record, stamped by the block. Severities above 5 are not the block's to write; such a record is dropped
(assumption log 34). -/
def Pl.hostRecord (p : Pl) (r : RecIn) : Pl :=
  let r := { r with ht := p.now, tq := p.tq, rep := 0 }
  if 6 ≤ r.sev then { p with evDropped := sat 12 (p.evDropped + 1) }
  else if Config.blockCoal r.code then p.coalesce r else p.storeRec r

/-- Entries whose `ht` + 1 ms has come (R266). -/
def Pl.coalesceDue (p : Pl) : Pl := forEach (p.coal.filter (fun e => decide (e.ht + 1000000 ≤ p.now))) (fun e p => p.flushRec e) p

/-! ### Reset (R134) -/

/-- Cores whose `tr_stall` or `lp_ack` is high. -/
def Pl.highPins (p : Pl) : List Out :=
  p.cores.flatMap (fun e => (if e.2.stall then [Out.pin pinStall (2 * e.1)] else []) ++ (if e.2.lp = .asleep then [Out.pin pinLpAck (2 * e.1)] else []))

/-- Block reset: nothing survives but the parameters, every output falls; the link-start exchange starts with the next cycle. -/
def Pl.reset (p : Pl) : Pl := { Pl.init p.par with out := p.out ++ p.highPins }

/-- BLOCK_RESET: `pl_rst_n`. -/
def execBlockReset (s : State) : Host.Outcome State Fault Refusal := plDo s Pl.reset

/-- SOFT_RESET: a write of 1 to `soft_rst`, by link or with mp_priv. -/
def execSoftReset (priv link : Bool) (s : State) : Host.Outcome State Fault Refusal := plDo s (fun p => if priv || link then p.reset else p)

/-! ### Hall time of the block (R133, R158, R161 to R163) -/

/-- A refusal frame of a sitting request (R141): 1 FULL, 2 LATE, 3 TIME_INVALID, 4 DUPLICATE. -/
def Pl.refuse (p : Pl) (ident reason : Nat) : Pl := p.send 0x04 0 (leBytes 1 0x18 ++ leBytes 3 reason ++ leBytes 4 ident)

/-- A time request with the next `xid` (R162); its t1 is written as it leaves. -/
def Pl.timeAsk (p : Pl) : Pl :=
  let q := p.send 0x02 0 (leBytes 10 0 ++ leBytes 2 p.tm.xid)
  { q with tm := { q.tm with xid := (q.tm.xid + 1) % 2 ^ 16 } }

/-- Time becomes invalid: the resynchronisation is counted, held sitting requests are refused, an error record is written (kind 25), the link-start exchange runs
again (R133, R141, R161). -/
def Pl.timeLost (p : Pl) : Pl :=
  let p := forEach p.sitReqs (fun e p => p.refuse e.1 3) p
  let t := { p.tm with offLim := 0, unq := 0 }
  let p := ({ p with sitReqs := [], valid := false, resync := sat 8 (p.resync + 1), tm := t.drop 0 } : Pl).raise 3
  (p.record (Config.recCode 25).toNat 4 0 0 0 0 0).timeAsk

/-- The link is up again: its first frame is a keep-alive, so the count of grants that class 3 waited through starts anew; holdover ends (R152, R163). -/
def Pl.linkUp (p : Pl) : Pl :=
  if p.lkState = 1 then
    { p with lkState := 2, grants := 0, restarts := sat 8 (p.restarts + 1), q := p.keepalive :: p.q.filter (fun it => it.typ != 0x00),
             tm := { p.tm with holdSince := none } }
  else p

/-- The 32 exchanges of a link start are in (R134, R140, R162): an invalid time is set by a step and becomes valid. -/
def Pl.timeFound (p : Pl) (th2 mean d2 : Int) : Pl :=
  let t := (p.tm.drop 0).keepDelay 0 mean d2
  let p := if p.valid then { p with tm := t }
    else { p with tm := { t.stepBy (thFix th2) with offLim := 0, unq := 0 }, valid := true, resumed := 3, skips := (0, 0) }
  p.linkUp

/-- TIME_REPLY_FRAME at the block: the reply to the request under way, with t1 of its start and t4 of now; the next request follows until 8 exchanges are in, or
32 at a link start (R162). `a` is the asymmetry correction of the block's die site. -/
def Pl.timeReply (p : Pl) (a : Int) (xid : Nat) (x : Xchg) : Pl :=
  match p.tm.reqs.find? (fun e => e.2.1 == xid) with
  | none => p
  | some r =>
    let t := { p.tm with reqs := [] }
    let t := t.addExch (mkExch 0 a { x with t1 := r.2.2, t4 := p.tm.frac })
    let p := { p with tm := t }
    if p.valid && p.lkState == 2 then (if t.xs.length < 8 then p.timeAsk else p)
    else match t.linkStart 0 with
      | none => p.timeAsk
      | some (th2, mean, d2) => p.timeFound th2 mean d2

/-- A time request is under way or waits. -/
def Pl.asking (p : Pl) : Bool := !p.tm.reqs.isEmpty || p.q.any (fun it => it.typ == 0x02)

/-- The exchanges of the next refresh begin, unless a round is under way (assumption log 15). -/
def Pl.nextRound (p : Pl) : Pl := if p.lkState = 2 ∧ p.asking = false then p.timeAsk else p

/-- The refresh of the block's one source, which ends a round (R161). -/
def Pl.applyRound (p : Pl) (th2 : Int) (qual : Bool) : Pl :=
  match (p.tm.drop 0).applyRefresh th2 qual with
  | (t, bad) => if bad then ({ p with tm := t } : Pl).timeLost else ({ p with tm := t } : Pl).nextRound

/-- TIME_REFRESH of the block. A request without an answer is given up: at a link start it is sent again, in a round it makes the refresh unqualified
(log 15). -/
def Pl.timeRefresh (p : Pl) : Pl :=
  if p.lkState = 0 then p
  else if !p.valid || p.lkState != 2 then
    let p := { p with tm := { p.tm with reqs := [] } }
    if p.asking then p else p.timeAsk
  else match p.tm.refresh 0 with
    | none => if p.asking || !p.tm.xs.isEmpty then p.applyRound 0 false else p.nextRound
    | some (th2, qual) => p.applyRound th2 qual

/-- LINK_LOSS at the block: its one source is lost, so it enters holdover (R163); half-received time exchanges are dropped. What waits at the message port
keeps its place. The next cycle starts the link again. -/
def Pl.linkLoss (p : Pl) : Pl :=
  if p.lkState = 0 then p
  else
    let h := match p.tm.holdSince with | none => some p.now | some t => some t
    { p with lkState := 0, tm := { p.tm.drop 0 with holdSince := h }, q := p.q.filter (fun it => it.typ != 0x02 && it.typ != 0x00) }

/-- A link that is down starts (R134, R157): the exchange begins; `link_down` says that it is a restart. -/
def Pl.linkBegin (p : Pl) : Pl :=
  if p.lkState = 0 then
    let p := if p.tm.holdSince.isSome then p.raise 4 else p
    ({ p with lkState := 1 } : Pl).timeAsk
  else p

/-- One cycle of the block's clock: time; a link that is down starts; coalesced records come due; the next replay request is presented, at least one cycle after
REPLAY_REQ fell (R153). -/
def Pl.tick (p : Pl) : Pl :=
  let p := ({ p with tm := p.tm.tick, wrote := [] } : Pl).linkBegin.coalesceDue
  if p.rpLow then { p with rpLow := false }
  else if !p.rpUp && !p.rpQ.isEmpty && p.par.px then ({ p with rpUp := true } : Pl).raise 0 else p

/-! ### The two time units' commands -/

/-- One cycle of the module's time unit (R158). It runs in Flush too, where the flush stamps what it writes (DESIGN CHOICE, assumption log 9). -/
def Gn.tick (g : Gn) : Gn := if g.powered then ({ g with tm := g.tm.tick } : Gn).setTq else g

/-- TIME_UNIT_INCREMENT (R158), with the steps of a maintenance stop that have come due (R352). -/
def execTimeUnitIncrement (u : TimeUnit) (s : State) : Host.Outcome State Fault Refusal :=
  match u with
  | .ginath => gnStep s (fun g => g.tick.maintGo)
  | .block => plDo s Pl.tick

/-- TIME_REFRESH (R161). -/
def execTimeRefresh (u : TimeUnit) (s : State) : Host.Outcome State Fault Refusal :=
  match u with
  | .ginath => gnStep s Gn.timeRefresh
  | .block => plDo s Pl.timeRefresh

/-- TIME_REPLY_FRAME (R162). The block's correction is the topology's value for its die site, 0 where none is given; how it reaches the block the manual does
not say (assumption log 15). -/
def execTimeReplyFrame (u : TimeUnit) (l : LinkRef) (r : TimeReply) (s : State) : Host.Outcome State Fault Refusal :=
  match u with
  | .ginath => gnStep s (fun g => if g.alive then g.timeReply l r.xid r.x else g)
  | .block => plDo s (fun p => p.timeReply (s.gn.asymOf (.site p.par.site)) r.xid r.x)

end Sys2Proof.Machine
end

