-- ==== Sys2Proof/Machine/PlTrace.lean ====
section
/-! DEFINITION. Trace of the Plovlugo block (R144 to R148): words, bursts, the circular buffer in its two modes, low power. -/

namespace Sys2Proof.Machine

/-! ### A core's local buffer -/

def coreDefault (_ : Nat) : TrCore := { items := [], lost := 0, stall := false, lp := .on }

def Pl.core (p : Pl) (c : Nat) : TrCore := SMap.get coreDefault p.cores c

def Pl.setCore (p : Pl) (c : Nat) (x : TrCore) : Pl := { p with cores := SMap.set coreDefault p.cores c x }

/-- Words an item takes: a marker's two, and the payload. -/
def TrItem.size (i : TrItem) : Nat := 2 + i.words.length

/-- Words in use of the 256. -/
def TrCore.used (x : TrCore) : Nat := (x.items.map TrItem.size).sum

/-- Words not reserved for markers (R146). -/
def unreserved : Nat := 252

/-- Whether tr_stall is to be asserted: the core's stall bit, and 4 or fewer unreserved words free. -/
def Pl.wantStall (p : Pl) (c : Nat) : Bool := p.trStall.testBit c && decide (unreserved ≤ (p.core c).used + 4)

/-- Bring tr_stall of a core up to date. -/
def Pl.restall (p : Pl) (c : Nat) : Pl :=
  let x := p.core c
  let w := p.wantStall c
  if x.stall = w then p else (p.setCore c { x with stall := w }).emitOut (.pin pinStall (2 * c + b2n w))

/-- A marker or a burst that begins now. -/
def Pl.mkItem (p : Pl) (c kind val : Nat) (words : List Word) : TrItem :=
  { kind := kind, ht := p.now, val := val, inv := !p.valid, stalled := (p.core c).stall, words := words, tick := p.now / 4 }

def Pl.pushItem (p : Pl) (c : Nat) (i : TrItem) : Pl :=
  let x := p.core c
  p.setCore c { x with items := x.items ++ [i] }

/-- A word is dropped and counted (R144, R146). -/
def Pl.dropWord (p : Pl) (c : Nat) : Pl :=
  let x := p.core c
  (p.setCore c { x with lost := x.lost + 1 }).raise 2

/-- A loss marker with the words dropped. -/
def Pl.lossMarker (p : Pl) (c n : Nat) : Pl :=
  let p := p.pushItem c (p.mkItem c 0xE n [])
  let x := p.core c
  { p.setCore c { x with lost := 0 } with loss := sat 12 (p.loss + 1) }

/-- A payload word as stored (R144). -/
def payload (kind dt : Nat) (data : BitVec 48) : Word := BitVec.ofNat 64 (kind * 2 ^ 60 + dt * 2 ^ 48 + data.toNat)

/-- The burst that the next word may join (R145): the core's newest item, with room below 32 words, within 4,095 ticks, and no loss between. -/
def Pl.openBurst (p : Pl) (c : Nat) : Option TrItem :=
  match (p.core c).items.getLast? with
  | some i => if i.kind = 0xC ∧ i.words.length < 32 ∧ p.now / 4 - i.tick ≤ 4095 ∧ (p.core c).lost = 0 then some i else none
  | none => none

/-- A word joins its burst, or begins one. -/
def Pl.storeWord (p : Pl) (c kind : Nat) (data : BitVec 48) : Pl :=
  match p.openBurst c with
  | some i =>
    let j := { i with words := i.words ++ [payload kind (p.now / 4 - i.tick) data], tick := p.now / 4 }
    let x := p.core c
    p.setCore c { x with items := x.items.dropLast ++ [j] }
  | none => p.pushItem c (p.mkItem c 0xC 0 [payload kind 0 data])

/-- A trace word of a core: kinds 0xC to 0xF are the block's; a loss marker stands before the word that follows a loss. -/
def Pl.traceWord (p : Pl) (c kind : Nat) (data : BitVec 48) : Pl :=
  if p.trEn = false ∨ p.par.ncore ≤ c then p
  else if 0xC ≤ kind then p.dropWord c
  else
    let need := if (p.openBurst c).isSome then 1 else 3
    if unreserved < (p.core c).used + need then p.dropWord c
    else
      let p := if (p.core c).lost = 0 then p else p.lossMarker c (p.core c).lost
      (p.storeWord c kind data).restall c

def execTraceWord (core kind : Nat) (data : BitVec 48) (s : State) : Host.Outcome State Fault Refusal :=
  plDo s (fun p => p.traceWord core kind data)

/-! ### The circular buffer (R145, R147) -/

/-- Bytes of a run of pieces. -/
def chunkBytes (cs : List Chunk) : Nat := (cs.map (fun c => 8 * c.2.length)).sum

/-- Drop the oldest pieces until the rest fits: what stays, what goes. -/
def trimChunks (limit : Nat) : List Chunk → List Chunk × List Chunk
  | [] => ([], [])
  | c :: cs => if chunkBytes (c :: cs) ≤ limit then (c :: cs, []) else match trimChunks limit cs with | (k, d) => (k, c :: d)

/-- Bytes the writer overtakes leave a shipment before they ship; one gap notice takes their place, with the `ht` at which the first of them was overtaken (R147). -/
def PlItem.overtake (it : PlItem) (now : Nat) (gone : List Nat) : PlItem :=
  if it.typ = 0x15 ∧ it.chunks.any (fun c => gone.contains c.1) then
    let n := chunkBytes (it.chunks.filter (fun c => gone.contains c.1))
    { it with chunks := it.chunks.filter (fun c => !gone.contains c.1), gap := (it.gap.1 + n, if it.gap.1 = 0 then now else it.gap.2) }
  else it

/-- Write a piece into the circular buffer. In STREAM mode the writer waits for room (none); in RING mode it overwrites the oldest. -/
def Pl.putChunk (p : Pl) (ws : List Word) : Option Pl :=
  let cs := p.circ ++ [(p.written, ws)]
  let w := p.written + 8 * ws.length
  if p.trMode then
    match trimChunks p.trBytes cs with
    | (keep, gone) =>
      let q := p.q.map (fun it => it.overtake p.now (gone.map (·.1)))
      some { p with circ := keep, written := w, q := q }
  else if p.trBytes < chunkBytes cs then none
  else some { p with circ := cs, written := w }

/-- A marker's first word (R144). -/
def markWord (kind core val : Nat) (inv stalled : Bool) : Word :=
  BitVec.ofNat 64 (kind * 2 ^ 60 + core * 2 ^ 52 + b2n stalled * 2 ^ 49 + b2n inv * 2 ^ 48 + val % 2 ^ 48)

/-- An item as it is written. -/
def TrItem.encode (i : TrItem) (core : Nat) : List Word :=
  let val := if i.kind = 0xC then i.words.length else i.val
  [markWord i.kind core val i.inv i.stalled, BitVec.ofNat 64 i.ht] ++ i.words

/-- A stamp marker with an `ht`, if there is room for it. -/
def Pl.putStamp (p : Pl) (ht : Nat) : Option Pl :=
  match p.putChunk [markWord 0xF 0xFF p.written false false, BitVec.ofNat 64 ht] with
  | some x => some { x with lastStamp := p.written, stampEnd := x.written }
  | none => none

/-- Write a stamp marker before a burst (R145), which waits for room as well when there is none. Stamps are suspended while time is invalid (R134). -/
def Pl.stamp (p : Pl) : Pl := if !p.valid then p else (p.putStamp p.now).getD p

/-- Stamp markers that waited for room are written in order as far as there is room: no marker is ever dropped (R141, R146). -/
def Pl.stampsDue (p : Pl) : List Nat → Pl
  | [] => { p with stampPend := [] }
  | t :: ts => match p.putStamp t with
    | none => { p with stampPend := t :: ts }
    | some x => x.stampsDue ts

/-- A marker in the trace stream of its own: a sitting's, or the timer's. Written now, or behind those that wait for room. -/
def Pl.sitStamp (p : Pl) : Pl := p.stampsDue (p.stampPend ++ [p.now])

/-- Write an item of a core, behind sitting markers that wait, and with a stamp before a burst that would start 1,024 or more bytes after the previous one. -/
def Pl.circPut (p : Pl) (c : Nat) (i : TrItem) : Option Pl :=
  let p := p.stampsDue p.stampPend
  if p.stampPend ≠ [] then none
  else (if i.kind = 0xC ∧ 1024 ≤ p.written - p.lastStamp then p.stamp else p).putChunk (i.encode c)

/-- Take the oldest item from a core's buffer. -/
def Pl.popItem (p : Pl) (c : Nat) : Pl :=
  let x := p.core c
  (p.setCore c { x with items := x.items.drop 1 }).restall c

/-- Move a core's items in order while there is room. -/
def Pl.drainCore (p : Pl) (c : Nat) : List TrItem → Pl
  | [] => p
  | i :: is => match p.circPut c i with
    | none => p
    | some x => (x.popItem c).drainCore c is

/-- The low-power handshake completes once the core's buffer is empty (R148). -/
def Pl.lpSettle (p : Pl) (c : Nat) : Pl :=
  let x := p.core c
  match x.lp with
  | .entering _ => if x.items = [] then (p.setCore c { x with lp := .asleep }).emitOut (.pin pinLpAck (2 * c + 1)) else p
  | _ => p

/-- The core whose burst the DMA takes next: in rotation from the one after the last served. -/
def Pl.dmaCore (p : Pl) : Option Nat :=
  ((List.range p.par.ncore).map (fun i => (p.dmaLast + 1 + i) % p.par.ncore)).find? (fun c => !(p.core c).items.isEmpty)

/-- TRACE_BURST_DMA: one burst or marker moves; a core that could not be served keeps its turn. -/
def Pl.dma (p : Pl) : Pl :=
  match p.dmaCore with
  | none => p.stampsDue p.stampPend
  | some c => match (p.core c).items with
    | [] => p
    | i :: _ => match p.circPut c i with
      | none => p
      | some x => (({ x with dmaLast := c } : Pl).popItem c).lpSettle c

def execTraceBurstDma (s : State) : Host.Outcome State Fault Refusal := plDo s Pl.dma

/-- The 10 µs stamp (R145): at least one byte has been written since the previous one; one that finds no room waits, and is the previous one of those that
follow. -/
def Pl.timerStamp (p : Pl) : Pl := if p.valid && decide (p.stampEnd < p.written) && p.stampPend.isEmpty then p.sitStamp else p

/-- STAMP_MARKER_TIMER: 10 µs since the previous stamp, with at least one byte written since it. -/
def execStampMarkerTimer (s : State) : Host.Outcome State Fault Refusal := plDo s Pl.timerStamp

/-! ### Shipping (R147, R189) -/

/-- Take the oldest `n` words. -/
def takeWords : Nat → List Chunk → List Word × List Chunk
  | _, [] => ([], [])
  | n, (pos, ws) :: cs =>
    if ws.length ≤ n then match takeWords (n - ws.length) cs with | (t, r) => (ws ++ t, r)
    else (ws.take n, (pos + 8 * n, ws.drop n) :: cs)

/-- TRACE_FRAME_SHIP in STREAM mode: a trace frame of what waits. -/
def Pl.shipTrace (p : Pl) : Pl :=
  if p.trMode ∨ p.circ = [] then p
  else match takeWords frameWords p.circ with
    | (ws, rest) => (({ p with circ := rest } : Pl).send 0x13 3 (wordBytes ws)).stampsDue p.stampPend

def execTraceFrameShip (s : State) : Host.Outcome State Fault Refusal := plDo s Pl.shipTrace

/-- An incoming frame that is discarded whole (R152). -/
def Pl.badFrame (p : Pl) : Pl := { p with rxBad := sat 16 (p.rxBad + 1) }

/-- TRACE_EXTRACT: in RING mode the last `n` bytes from a marker boundary on, as one shipment. A count that is no multiple of 64, or above TRBUF, is
discarded. -/
def Pl.extract (p : Pl) (n : Nat) : Pl :=
  if n % 64 ≠ 0 ∨ p.trBytes < n then p.badFrame
  else if p.trMode = false then p
  else
    let cs := (trimChunks n p.circ).1
    if cs = [] then p else p.queue { p.item 0x15 3 [] with chunks := cs }

def execTraceExtract (n : Nat) (s : State) : Host.Outcome State Fault Refusal := plDo s (fun p => p.extract n)

/-! ### Low power (R148) -/

/-- A sleep or wake marker, while capture is on. -/
def Pl.lpMarker (p : Pl) (c val : Nat) : Pl := if p.trEn then p.pushItem c (p.mkItem c 0xD val []) else p

/-- LP_ENTRY: `lp_req` rises. -/
def Pl.lpEntry (p : Pl) (c : Nat) : Pl :=
  if p.par.ncore ≤ c ∨ (p.core c).lp ≠ .on then p
  else
    let p := p.lpMarker c 0
    let p := p.drainCore c (p.core c).items
    let x := p.core c
    (p.setCore c { x with lp := .entering p.now }).lpSettle c

def execLpEntry (core : Nat) (s : State) : Host.Outcome State Fault Refusal := plDo s (fun p => p.lpEntry core)

/-- LP_ENTRY_TIMEOUT: payload still held is discarded; markers are kept, then the loss marker, then the sleep marker. -/
def Pl.lpTimeout (p : Pl) (c : Nat) : Pl :=
  let x := p.core c
  match x.lp with
  | .entering _ =>
    let n := (x.items.map (fun i => i.words.length)).sum + x.lost
    let isSleep := fun i : TrItem => i.kind == 0xD && i.val == 0
    let p := p.setCore c { x with items := x.items.filter (fun i => i.kind != 0xC && !isSleep i) }
    let p := (p.lossMarker c n).raise 2
    let p := forEach (x.items.filter isSleep) (fun i p => p.pushItem c i) p
    let y := p.core c
    ((p.setCore c { y with lp := .asleep }).restall c).emitOut (.pin pinLpAck (2 * c + 1))
  | _ => p

def execLpEntryTimeout (core : Nat) (s : State) : Host.Outcome State Fault Refusal := plDo s (fun p => p.lpTimeout core)

/-- LP_EXIT: `lp_req` falls. -/
def Pl.lpExit (p : Pl) (c : Nat) : Pl :=
  if p.par.ncore ≤ c ∨ (p.core c).lp = .on then p
  else
    let p := p.lpMarker c 1
    let x := p.core c
    (p.setCore c { x with lp := .on }).emitOut (.pin pinLpAck (2 * c))

def execLpExit (core : Nat) (s : State) : Host.Outcome State Fault Refusal := plDo s (fun p => p.lpExit core)

end Sys2Proof.Machine
end

