-- ==== Sys2Proof/Machine/PlRegs.lean ====
section
/-! DEFINITION. The registers of the Plovlugo window (R12, R131, R155 to R157, R363): management port, link writes and reads, counters and the
palette. -/

namespace Sys2Proof.Machine

/-! ### Counters (R137) -/

def zeroWord (_ : Nat) : Word := 0

/-- Value of a counter. -/
def Pl.ctr (p : Pl) (i : Nat) : Word := SMap.get zeroWord p.cnt i

/-- One lane of `ci_b`: its 8 bits are added modulo 2^64; a lane of a bank that does not exist adds nothing. -/
def Pl.addLane (p : Pl) (i v : Nat) : Pl :=
  if i < p.nctr then { p with cnt := SMap.set zeroWord p.cnt i (p.ctr i + BitVec.ofNat 64 (v % 256)) } else p

/-- COUNTER_INCREMENT: the lanes of one cycle as (counter, value). -/
def execCounterIncrement (lanes : List (Nat × Nat)) (s : State) : Host.Outcome State Fault Refusal :=
  plDo s (fun p => forEach lanes (fun e p => p.addLane e.1 e.2) p)

/-- A counter of a privileged bank. -/
def Pl.privCtr (p : Pl) (i : Nat) : Bool := decide (i < p.nctr) && p.par.privs.testBit (i / 64)

/-! ### Progress monitors' state (R149) -/

def monDefault (_ : Nat) : PlMon :=
  { en := false, report := false, winMs := 0x3E8, count := 0, last := 0, since := 0, stalled := false, pend := false, recov := false, recHt := none }

def Pl.mon (p : Pl) (n : Nat) : PlMon := SMap.get monDefault p.mons n

def Pl.setMon (p : Pl) (n : Nat) (m : PlMon) : Pl := { p with mons := SMap.set monDefault p.mons n m }

/-! ### Reads -/

/-- Offset of PL_PAL[b] and of PL_PG_CFG[n]; none outside the block's banks and monitors. -/
def Pl.palBank (p : Pl) (off : Nat) : Option Nat :=
  if 0x900 ≤ off ∧ off < 0x900 + 8 * p.par.nbank then some ((off - 0x900) / 8) else none

def Pl.pgCfg (p : Pl) (off : Nat) : Option Nat :=
  if 0x2000 ≤ off ∧ off < 0x2000 + 4 * p.par.nmon then some ((off - 0x2000) / 4) else none

/-- The 64-bit value whose low word stands at an offset. -/
def Pl.wide (p : Pl) (off : Nat) : Option Nat :=
  if off = 0x400 then some p.now
  else if off = 0xB04 then some (if p.cntIdx < p.nctr then (p.ctr p.cntIdx).toNat else 0)
  else if off = 0x1008 then some p.trStall
  else if off = 0x2408 then some (if p.pgSel < p.par.nmon then (p.mon p.pgSel).last else 0)
  else match p.palBank off with
    | some b => if (off - 0x900) % 8 = 0 then some (SMap.get zeroWord p.pal b).toNat else none
    | none => none

/-- What a 32-bit register reads as; an unmapped address reads 0 (R131). -/
def Pl.narrow (p : Pl) (off : Nat) : Nat :=
  if off = 0x0 then 0x504C0302
  else if off = 0x4 then p.par.nbank + p.par.nmon * 2 ^ 7 + b2n p.par.px * 2 ^ 16 + p.par.ncore * 2 ^ 17 + p.par.trbufLog * 2 ^ 24
  else if off = 0x10 then p.intStat
  else if off = 0x14 then p.intEn
  else if 0x100 ≤ off ∧ off < 0x100 + 4 * p.par.nbank then
    p.par.units.getD ((off - 0x100) / 4) 0 + b2n (p.par.privs.testBit ((off - 0x100) / 4)) * 2 ^ 7
  else if off = 0x408 then b2n p.valid + p.resync * 2 ^ 8
  else if off = 0x410 then b2n p.frzEn + p.frzMaxUs * 2 ^ 8
  else if off = 0x414 then p.sitReqs.length + p.overrun * 2 ^ 8
  else if off = 0x800 then p.ivl + b2n p.palArmed * 2 ^ 31
  else if off = 0x804 then p.skipCnt + p.palGen * 2 ^ 16
  else if off = 0xB00 then p.cntIdx
  else if off = 0x1000 then b2n p.trEn + b2n p.trMode * 2
  else if off = 0x1010 then p.written % p.trBytes + p.loss * 2 ^ 20
  else if off = 0x1800 then p.exps.length + p.rpQ.length * 2 ^ 4 + p.seedMiss * 2 ^ 8 + p.selSkip * 2 ^ 16
  else if off = 0x1804 then p.exports + p.rpMerge * 2 ^ 16 + p.vdUnknown * 2 ^ 24
  else if off = 0x2400 then p.pgSel
  else if off = 0x2404 then (if p.pgSel < p.par.nmon then (p.mon p.pgSel).count else 0)
  else if off = 0x2410 then p.rpMon + b2n p.rpEn * 2 ^ 8
  else if 0x2420 ≤ off ∧ off < 0x2440 then bits p.pgStall (8 * (off - 0x2420)) 32
  else if off = 0x2800 then p.evs.length + p.evDropped * 2 ^ 12 + p.pentimento * 2 ^ 24
  else if off = 0x3000 then p.lkState + p.restarts * 2 ^ 8 + p.rxBad * 2 ^ 16
  else if off = 0x3800 then p.studio + b2n p.tagValid * 2 ^ 4 + p.mpDeny * 2 ^ 16
  else match p.pgCfg off with
    | some n => b2n (p.mon n).en + b2n (p.mon n).report * 2 + (p.mon n).winMs * 2 ^ 8
    | none => 0

/-- Clear the RC fields of a register that is read. -/
def Pl.clearRc (p : Pl) (off : Nat) : Pl :=
  if off = 0x408 then { p with resync := 0 }
  else if off = 0x414 then { p with overrun := 0 }
  else if off = 0x804 then { p with skipCnt := 0 }
  else if off = 0x1010 then { p with loss := 0 }
  else if off = 0x1800 then { p with seedMiss := 0, selSkip := 0 }
  else if off = 0x1804 then { p with exports := 0, rpMerge := 0, vdUnknown := 0 }
  else if off = 0x2800 then { p with evDropped := 0, pentimento := 0 }
  else if off = 0x3000 then { p with restarts := 0, rxBad := 0 }
  else if off = 0x3800 then { p with mpDeny := 0 }
  else p

/-- Key of a latched high word: its low word's offset, and the reader (0 management port, 1 link). R12 does not say whether the two readers share a latch: the model keeps one
per register and per reader (DESIGN CHOICE, assumption log 43). -/
def latchKey (off : Nat) (link : Bool) : Nat := 2 * off + b2n link

/-- Read a word (R12, R131): a low word latches the high one, which the next read of the high word returns. -/
def Pl.readWord (p : Pl) (off : Nat) (link : Bool) : Pl × Nat :=
  match p.wide off with
  | some v =>
    let others := p.latches.filter (fun e => e.1 != latchKey off link)
    ({ p with latches := others ++ [(latchKey off link, v / 2 ^ 32 % 2 ^ 32)] }, v % 2 ^ 32)
  | none => match (if 4 ≤ off then p.wide (off - 4) else none) with
    | some v => match p.latches.find? (fun e => e.1 == latchKey (off - 4) link) with
      | some e => ({ p with latches := p.latches.filter (fun x => x.1 != e.1) }, e.2)
      | none => (p, v / 2 ^ 32 % 2 ^ 32)
    | none => (p.clearRc off, p.narrow off)

/-- A management-port access is denied (R156). -/
def Pl.deny (p : Pl) : Pl := ({ p with mpDeny := sat 16 (p.mpDeny + 1) } : Pl).raise 6

/-- Offsets of PL_PAL, and of PL_CNT while it shows a privileged counter: closed to unprivileged reads (R156). -/
def Pl.privOff (p : Pl) (off : Nat) : Bool := (p.palBank off).isSome || ((off == 0xB04 || off == 0xB08) && p.privCtr p.cntIdx)

/-- A management-port read; address bits [1:0] are 0 (R130). -/
def Pl.mpRead (p : Pl) (addr : Nat) (priv : Bool) : Pl :=
  let off := addr - addr % 4
  if !priv && p.privOff off then p.deny.emitOut (.rdata 0)
  else match p.readWord off false with | (x, v) => x.emitOut (.rdata v)

/-- MP_REGISTER_READ. -/
def execMpRegisterRead (addr : Nat) (priv : Bool) (s : State) : Host.Outcome State Fault Refusal := plDo s (fun p => p.mpRead addr priv)

/-- PL_CNT_LOW_READ: the read of a low word, which latches. -/
def execPlCntLowRead (addr : Nat) (priv : Bool) (s : State) : Host.Outcome State Fault Refusal := plDo s (fun p => p.mpRead addr priv)

/-! ### Writes -/

/-- Registers whose Behaviour begins "Link:". -/
def Pl.linkOnly (p : Pl) (off : Nat) : Bool :=
  off == 0x410 || off == 0x800 || off == 0x1000 || off == 0x1008 || off == 0x100C || off == 0x2410 || off == 0x3800 || (p.palBank off).isSome
    || (p.pgCfg off).isSome

/-- Replace one half of a 64-bit value. -/
def putHalf (old : Nat) (hi : Bool) (v : Nat) : Nat := if hi then old % 2 ^ 32 + v * 2 ^ 32 else old / 2 ^ 32 * 2 ^ 32 + v

/-- PAL_COMMIT (R138): the pending palette is armed. -/
def Pl.palCommit (p : Pl) : Pl := { p with palArmed := true }

/-- PAL_WRITE (R138): a word of the pending palette; an armed commit is disarmed. -/
def Pl.palWrite (p : Pl) (off v : Nat) : Pl :=
  match p.palBank off with
  | none => p
  | some b =>
    let x := putHalf (SMap.get zeroWord p.palPend b).toNat (decide (4 ≤ (off - 0x900) % 8)) v
    { p with palPend := SMap.set zeroWord p.palPend b (BitVec.ofNat 64 x), palArmed := false }

/-- PL_PG_CFG[n] (R149): setting `en` starts its window; a reserved `win_ms` leaves that field unchanged (R9). -/
def Pl.pgWrite (p : Pl) (n v : Nat) : Pl :=
  let m := p.mon n
  let w := bits v 8 16
  let win := if 1 ≤ w ∧ w ≤ 60000 then w else m.winMs
  let since := if bit v 0 && !m.en then p.now else m.since
  p.setMon n { m with en := bit v 0, report := bit v 1, winMs := win, since := since }

/-- A write of a Link register (R138, R141, R143, R147, R150, R155). -/
def Pl.linkReg (p : Pl) (off v : Nat) : Pl :=
  if off = 0x410 then
    let us := bits v 8 16
    { p with frzEn := bit v 0, frzMaxUs := if 1 ≤ us ∧ us ≤ 10000 then us else p.frzMaxUs }
  else if off = 0x800 then
    let n := bits v 0 30
    let p := { p with ivl := if n = 0 ∨ (1000 ≤ n ∧ n ≤ 1000000000) then n else p.ivl }
    if bit v 30 then p.palCommit else p
  else if off = 0x1000 then { p with trEn := bit v 0, trMode := bit v 1 }
  else if off = 0x1008 ∨ off = 0x100C then
    forEach (List.range p.par.ncore) (fun c p => p.restall c) { p with trStall := putHalf p.trStall (off == 0x100C) v }
  else if off = 0x2410 then { p with rpMon := bits v 0 8, rpEn := bit v 8 }
  else if off = 0x3800 then { p with studio := bits v 0 4, tagValid := true }
  else if (p.palBank off).isSome then p.palWrite off v
  else match p.pgCfg off with
    | some n => p.pgWrite n v
    | none => p

/-- A write of a register that both ports reach; `soft` says that the write may reset the block (R134). -/
def Pl.openReg (p : Pl) (off v : Nat) (soft : Bool) : Pl :=
  if off = 0x8 then (if bit v 0 && soft then p.reset else p)
  else if off = 0x10 then { p with intStat := maskDiff p.intStat v }
  else if off = 0x14 then { p with intEn := v % 128 }
  else if off = 0xB00 then { p with cntIdx := v % 4096 }
  else if off = 0x2400 then { p with pgSel := v % 256 }
  else if 0x2420 ≤ off ∧ off < 0x2440 then
    let sh := 8 * (off - 0x2420)
    { p with pgStall := p.pgStall - (bits p.pgStall sh 32 &&& v) * 2 ^ sh }
  else p

/-- RW registers that both ports write (R157). -/
def bothWrite (off : Nat) : Bool := off == 0x14 || off == 0xB00 || off == 0x2400

/-- Note the write of a RW register in this cycle. -/
def Pl.noteWrite (p : Pl) (off : Nat) (link : Bool) : Pl :=
  if bothWrite off then { p with wrote := p.wrote.filter (fun e => e.1 != off) ++ [(off, link)] } else p

/-- MP_REGISTER_WRITE (R131, R156): a write to a Link register is dropped and counted, and so is one that meets a link write of the same RW register in one cycle
(R157). -/
def Pl.mpWrite (p : Pl) (addr v : Nat) (priv : Bool) : Pl :=
  let off := addr - addr % 4
  if p.linkOnly off || p.wrote.contains (off, true) then p.deny else (p.noteWrite off false).openReg off v priv

def execMpRegisterWrite (addr : Nat) (v : Word32) (priv : Bool) (s : State) : Host.Outcome State Fault Refusal :=
  plDo s (fun p => p.mpWrite addr v.toNat priv)

/-- One word of a register-write frame. -/
def Pl.linkWrite (p : Pl) (off v : Nat) : Pl :=
  if p.linkOnly off then p.linkReg off v
  else
    let p := if p.wrote.contains (off, false) then p.deny else p
    (p.noteWrite off true).openReg off v true

/-- The words of a register-write frame, to consecutive offsets. -/
def Pl.linkWrites (p : Pl) (off : Nat) : List Word32 → Pl
  | [] => p
  | v :: vs => (p.linkWrite off v.toNat).linkWrites (off + 4) vs

/-- The word count of a register frame is 1 to 64 (R188). -/
def wordsOk (n : Nat) : Bool := decide (1 ≤ n) && decide (n ≤ 64)

/-- REG_WRITE_FRAME. -/
def execRegWriteFrame (off : Nat) (data : List Word32) (s : State) : Host.Outcome State Fault Refusal :=
  plDo s (fun p => if wordsOk data.length then p.linkWrites (off - off % 4) data else p.badFrame)

/-- Read consecutive words over the link. -/
def Pl.linkReads (p : Pl) (off : Nat) : Nat → Pl × List Nat
  | 0 => (p, [])
  | n + 1 => match p.readWord off true with
    | (x, v) => match x.linkReads (off + 4) n with | (y, vs) => (y, v :: vs)

/-- REG_READ_FRAME: the reply names the tag and the count, and carries the words (R188). -/
def Pl.regRead (p : Pl) (off n tag : Nat) : Pl :=
  if wordsOk n then match p.linkReads (off - off % 4) n with | (x, vs) => x.send 0x07 0 (leBytes 2 tag ++ leBytes 2 n ++ vs.flatMap (leBytes 4))
  else p.badFrame

def execRegReadFrame (off n tag : Nat) (s : State) : Host.Outcome State Fault Refusal := plDo s (fun p => p.regRead off n tag)

/-- PAL_COMMIT: a link write of 1 to `pal_commit`. -/
def execPalCommit (s : State) : Host.Outcome State Fault Refusal := plDo s Pl.palCommit

/-- PAL_WRITE: a link write of a word of PL_PAL. -/
def execPalWrite (off : Nat) (data : Word32) (s : State) : Host.Outcome State Fault Refusal := plDo s (fun p => p.palWrite off data.toNat)

end Sys2Proof.Machine
end

