-- ==== Sys2Proof/Machine/PlSample.lean ====
section
/-! DEFINITION. Sampling instants, sittings and FREEZE at the Plovlugo block (R138 to R143, R174). -/

namespace Sys2Proof.Machine

/-! ### Sampler (R138 to R140) -/

/-- Selected counters of the active palette in privileged or other banks, ascending (R139). -/
def Pl.selected (p : Pl) (priv : Bool) : List Nat :=
  (List.range p.nctr).filter (fun i => (SMap.get zeroWord p.pal (i / 64)).getLsbD (i % 64) && p.par.privs.testBit (i / 64) == priv)

/-- Bytes of a sample record of n counters; none is built for 0. -/
def sampleLen (n : Nat) : Nat := if n = 0 then 0 else 16 + 8 * n

/-- Bytes in the 40 KiB sample output buffer (R139). -/
def Pl.sampleUsed (p : Pl) : Nat := ((p.q.filter (fun it => it.typ == 0x12)).map (·.body.length)).sum

/-- An armed palette becomes active whole (R138). -/
def Pl.takePalette (p : Pl) : Pl :=
  if p.palArmed then { p with pal := p.palPend, palGen := (p.palGen + 1) % 2 ^ 16, palArmed := false } else p

/-- Counter values in the body of a record. -/
def ctrBytes (m : SMap Word) (is : List Nat) : List Byte := is.flatMap (fun i => leBytes 8 (SMap.get zeroWord m i).toNat)

/-- Build the record of one kind (R139, R140, R155): the first after time became valid carries `resumed` and `skip` 0; privileged records carry studio 0. -/
def Pl.buildSample (p : Pl) (t : Nat) (priv : Bool) : Pl :=
  let is := p.selected priv
  if is = [] then p
  else
    let resumed := p.resumed.testBit (b2n priv)
    let skip := if resumed then 0 else if priv then p.skips.2 else p.skips.1
    let studio := if priv then 0 else p.tag
    let body := leBytes 8 t ++ leBytes 2 is.length ++ leBytes 2 skip ++ leBytes 2 p.palGen ++ leBytes 1 (b2n priv + 2 * b2n resumed) ++ leBytes 1 studio
      ++ ctrBytes p.shadow is
    { p with q := p.q ++ [{ p.item 0x12 3 body with studio := studio }], resumed := putBit p.resumed (b2n priv) false,
             skips := if priv then (p.skips.1, 0) else (0, p.skips.2) }

/-- SAMPLING_INSTANT: the capture cycle of T = the latest multiple of `ivl_ns`. Without room for what is to be built the instant is skipped (R140). -/
def Pl.samplingInstant (p : Pl) : Pl :=
  if !p.valid || p.ivl == 0 then p
  else
    let p := p.takePalette
    let t := p.now - p.now % p.ivl
    let n0 := (p.selected false).length
    let n1 := (p.selected true).length
    let need := sampleLen n0 + sampleLen n1
    if 40960 < p.sampleUsed + need then
      { p with skipCnt := sat 16 (p.skipCnt + 1),
               skips := (if n0 = 0 then p.skips.1 else sat 16 (p.skips.1 + 1), if n1 = 0 then p.skips.2 else sat 16 (p.skips.2 + 1)) }
    else (({ p with shadow := p.cnt } : Pl).buildSample t false).buildSample t true

def execSamplingInstant (s : State) : Host.Outcome State Fault Refusal := plDo s Pl.samplingInstant

/-! ### Sittings (R141 to R143) -/

/-- BLOCK_SITTING_REQUEST: held, or refused with the first reason that applies: TIME_INVALID, LATE, DUPLICATE, FULL. -/
def Pl.sitRequest (p : Pl) (ident t : Nat) : Pl :=
  if !p.valid then p.refuse ident 3
  else if t ≤ p.now then p.refuse ident 2
  else if p.sitReqs.any (fun e => e.1 == ident) then p.refuse ident 4
  else if 8 ≤ p.sitReqs.length then p.refuse ident 1
  else { p with sitReqs := p.sitReqs ++ [(ident, t)] }

def execBlockSittingRequest (ident t : Nat) (s : State) : Host.Outcome State Fault Refusal := plDo s (fun p => p.sitRequest ident t)

/-- A sitting keeps FREEZE asserted from now on (R143). -/
def Pl.assertFreeze (p : Pl) (ident : Nat) : Pl :=
  let first := p.frzs.isEmpty
  let p := { p with frzs := p.frzs.filter (fun e => e != ident) ++ [ident], frzSit := ident, frzSince := if first then p.now else p.frzSince }
  if first then p.raise 5 else p

/-- What one sitting of the captured instant does: FREEZE, record 0x0701, the marker in the trace stream, its image item (R141, R371). -/
def Pl.captureOne (p : Pl) (t ident : Nat) : Pl :=
  let p := if p.frzEn then p.assertFreeze ident else p
  let p := p.record 0x0701 1 ident (lo32 t) (hi32 t) (b2n p.freeze) 0
  let p := if p.trEn then p.sitStamp else p
  let n := p.nctr
  let body := leBytes 8 t ++ leBytes 1 ident ++ leBytes 1 0 ++ leBytes 2 n ++ leBytes 2 p.palGen ++ leBytes 1 p.tag ++ leBytes 1 (b2n p.freeze)
    ++ ctrBytes p.sitShadow (List.range n)
  p.queue { p.item 0x19 3 body with ht := t, key := ident }

/-- A sitting that finds both images occupied (R142). -/
def Pl.overrunOne (p : Pl) (t ident : Nat) : Pl :=
  ({ p with overrun := sat 8 (p.overrun + 1) } : Pl).send 0x1A 0 (leBytes 8 (ident % 256) ++ leBytes 8 t)

/-- SITTING_CAPTURE in the capture cycle of T; sittings with the same T share one copy of the counters (R178). -/
def Pl.sitCapture (p : Pl) (t : Nat) : Pl :=
  let ids := (p.sitReqs.filter (fun e => e.2 == t)).map (·.1)
  if ids = [] ∨ p.now < t then p
  else
    let p := { p with sitReqs := p.sitReqs.filter (fun e => e.2 != t) }
    if 2 ≤ p.images.length then forEach ids (fun i p => p.overrunOne t i) p
    else forEach ids (fun i p => p.captureOne t i) { p with sitShadow := p.cnt, images := p.images ++ [t] }

def execSittingCapture (t : Nat) (s : State) : Host.Outcome State Fault Refusal := plDo s (fun p => p.sitCapture t)

/-- The image of a sitting is discarded, whatever of it has already left (R180). -/
def Pl.dropImage (p : Pl) (ident : Nat) : Pl :=
  let q := p.q.filter (fun it => !(it.typ == 0x19 && it.key == ident))
  { p with q := q, images := p.images.filter (fun t => q.any (fun it => it.typ == 0x19 && it.ht == t)) }

/-- SITTING_RELEASE: the sitting no longer keeps FREEZE asserted. A retire also drops its held request and its image (R180). -/
def Pl.sitRelease (p : Pl) (ident : Nat) (retire : Bool) : Pl :=
  let p := { p with frzs := p.frzs.filter (fun e => e != ident) }
  if retire then ({ p with sitReqs := p.sitReqs.filter (fun e => e.1 != ident) } : Pl).dropImage ident else p

def execSittingRelease (ident : Nat) (retire : Bool) (s : State) : Host.Outcome State Fault Refusal :=
  plDo s (fun p => p.sitRelease ident retire)

/-- FREEZE_EXPIRY (R143): `frz_max_us` after its assertion FREEZE falls, whatever sittings keep it; warning 0x0702. -/
def Pl.freezeExpiry (p : Pl) : Pl :=
  if p.freeze && decide (p.frzSince + p.frzMaxUs * 1000 ≤ p.now) then
    ({ p with frzs := [] } : Pl).record 0x0702 3 p.frzSit p.frzMaxUs (lo32 p.frzSince) (hi32 p.frzSince) 0
  else p

def execFreezeExpiry (s : State) : Host.Outcome State Fault Refusal := plDo s Pl.freezeExpiry

end Sys2Proof.Machine
end

