-- ==== Sys2Proof/Machine/PlProof.lean ====
section
/-! DEFINITION. Progress monitors, the proof export tap and the replay queue of the Plovlugo block (R110, R113, R115, R149 to R153). -/

namespace Sys2Proof.Machine

/-! ### Progress monitors (R149, R150) -/

/-- Send a progress record of a monitor; the replay-complete flag is on every record of the monitor PL_PG_RPMON names (R149, R150). -/
def Pl.progress (p : Pl) (n ht flags : Nat) : Pl :=
  let m := p.mon n
  let f := flags + (if p.rpEn && p.rpMon == n then 4 else 0)
  let b := leBytes 8 ht ++ leBytes 1 n ++ leBytes 1 f ++ leBytes 2 p.rpQ.length ++ leBytes 4 m.count
  (p.setMon n { m with recHt := some p.now, pend := false, recov := false }).send 0x11 1 b

/-- A microsecond has passed since the monitor's last progress record. -/
def PlMon.ready (m : PlMon) (now : Nat) : Bool := match m.recHt with | none => true | some t => decide (t + 1000 ≤ now)

/-- Send what a monitor has not yet reported, or keep it for its next record. -/
def Pl.report (p : Pl) (n : Nat) : Pl :=
  let m := p.mon n
  if m.ready p.now then p.progress n m.last (if m.recov then 2 else 0) else p

/-- PROGRESS_PULSE. -/
def Pl.pulse (p : Pl) (n : Nat) : Pl :=
  if p.par.nmon ≤ n then p
  else
    let m := p.mon n
    let say := m.stalled || m.report || m.pend
    let p := p.setMon n { m with count := (m.count + 1) % 2 ^ 32, last := p.now, since := p.now, stalled := false, pend := say,
                                 recov := m.recov || m.stalled }
    if say then p.report n else p

def execProgressPulse (mon : Nat) (s : State) : Host.Outcome State Fault Refusal := plDo s (fun p => p.pulse mon)

/-- PROGRESS_RECORD_SEND: the record that the limit of one a microsecond held back. -/
def execProgressRecordSend (mon : Nat) (s : State) : Host.Outcome State Fault Refusal :=
  plDo s (fun p => if (p.mon mon).pend then p.report mon else p)

/-- The hall time at which a monitor's window ends. -/
def PlMon.expiry (m : PlMon) : Nat := m.since + m.winMs * 1000000

/-- PROGRESS_STALL: the window has passed without a pulse. The stall record carries the instant of expiry; 0x0703 and PL_PG_STALL follow. -/
def Pl.stallMon (p : Pl) (n : Nat) : Pl :=
  let m := p.mon n
  if p.par.nmon ≤ n ∨ m.en = false ∨ m.stalled = true ∨ p.now < m.expiry then p
  else
    let p := (p.setMon n { m with stalled := true }).progress n m.expiry 1
    let p := p.record 0x0703 4 n m.winMs (lo32 m.since) (hi32 m.since) m.count
    ({ p with pgStall := putBit p.pgStall n true } : Pl).raise 1

def execProgressStall (mon : Nat) (s : State) : Host.Outcome State Fault Refusal := plDo s (fun p => p.stallMon mon)

/-! ### Seeds (R110, R151) -/

/-- Store a seed entry: in place of the one for its epoch, else of the lowest epoch when three are held. -/
def Pl.storeSeed (p : Pl) (e : PlSeed) : Pl :=
  let others := p.seeds.filter (fun x => x.epoch != e.epoch)
  let low := others.foldl (fun m x => min m x.epoch) ((others.map (·.epoch)).headD 0)
  { p with seeds := (if others.length < 3 then others else others.filter (fun x => x.epoch != low)) ++ [e] }

/-- SEED_FRAME: a reserved `k` discards the frame (R152). -/
def Pl.seedFrame (p : Pl) (e : PlSeed) : Pl := if e.k = 0 ∨ (3 ≤ e.k ∧ e.k ≤ 20) then p.storeSeed e else p.badFrame

def execSeedFrame (epoch deadlineUs k : Nat) (sd : BitVec 128) (s : State) : Host.Outcome State Fault Refusal :=
  plDo s (fun p => p.seedFrame { epoch := epoch, seed := sd, k := k, deadlineUs := deadlineUs })

/-! ### Selection (R111, R151 steps 1 to 3) -/

/-- Answer an identity. -/
def Pl.answer (p : Pl) (sel : Bool) (seq : Nat) : Pl := p.emitOut (.pin pinSel (b2n sel + 2 * seq))

/-- Identity of the selection test. -/
def pxIdent (i : PxId) : RbIdent := { epoch := i.epoch, step := i.step, rb := i.rb, tensor := i.tensor, op := i.op }

/-- The same row-block. -/
def pxSame (i j : PxId) : Bool := pxIdent i == pxIdent j

/-- A row-block that passes the test takes an export, unless 8 are held or 8 replay requests are queued. -/
def Pl.takeExport (p : Pl) (i : PxId) (e : PlSeed) : Pl :=
  if 8 ≤ p.exps.length ∨ 8 ≤ p.rpQ.length then ({ p with selSkip := sat 16 (p.selSkip + 1) } : Pl).answer false 0
  else
    let x : PlExp := { id := i, seq := p.nextSeq, attempt := 0, htDone := none, deadlineUs := e.deadlineUs, rex := .none }
    ({ p with exps := p.exps ++ [x], inStream := p.inStream ++ [p.nextSeq], nextSeq := (p.nextSeq + 1) % 2 ^ 32 } : Pl).answer true p.nextSeq

/-- An identity that no seed entry can judge. -/
def Pl.missSeed (p : Pl) : Pl := ({ p with seedMiss := sat 8 (p.seedMiss + 1) } : Pl).answer false 0

/-- PX_IDENTITY. -/
def Pl.identity (p : Pl) (i : PxId) : Pl :=
  if !p.par.px then p.answer false 0
  else if !p.valid then p.missSeed
  else match p.seeds.find? (fun e => e.epoch == i.epoch) with
    | none => p.missSeed
    | some e => if e.k = 0 then p.answer false 0
      else if Machine.selected e.seed e.k (pxIdent i) p.par.site then p.takeExport i e
      else p.answer false 0

def execPxIdentity (i : PxId) (s : State) : Host.Outcome State Fault Refusal := plDo s (fun p => p.identity i)

/-- Change the export held under a sequence number. -/
def Pl.onExp (p : Pl) (seq : Nat) (f : PlExp → PlExp) : Pl := { p with exps := p.exps.map (fun x => if x.seq = seq then f x else x) }

/-- PX_REEXPORT_IDENTITY (R151 step 6): answered 1 for an export of that identity whose request is outstanding. -/
def Pl.reidentity (p : Pl) (i : PxId) : Pl :=
  match (if p.par.px then p.exps.find? (fun x => pxSame x.id i && x.rex == .outstanding) else none) with
  | some x => ({ p.onExp x.seq (fun y => { y with rex := .streaming, attempt := 1 }) with
                   rexQ := p.rexQ.filter (fun q => q != x.seq), inStream := p.inStream ++ [x.seq] } : Pl).answer true x.seq
  | none => p.answer false 0

def execPxReexportIdentity (i : PxId) (s : State) : Host.Outcome State Fault Refusal := plDo s (fun p => p.reidentity i)

/-! ### Shipping (R113 to R115, R151 step 4) -/

/-- The 64-byte header of an export. -/
def exportHeader (x : PlExp) (site fmt kred nout : Nat) (a e : List Byte) : List Byte :=
  let b := leBytes 8 (x.htDone.getD 0) ++ leBytes 4 x.id.epoch ++ leBytes 4 x.id.step ++ leBytes 2 x.id.tensor ++ leBytes 1 x.id.op
    ++ leBytes 1 fmt ++ leBytes 4 x.id.rb ++ leBytes 4 kred ++ leBytes 4 nout ++ leBytes 4 (crc32c a) ++ leBytes 4 (crc32c e)
    ++ leBytes 4 a.length ++ leBytes 4 e.length ++ leBytes 1 site ++ leBytes 1 x.attempt ++ leBytes 2 0 ++ leBytes 4 x.seq ++ leBytes 4 0
  b ++ leBytes 4 (crc32c b)

/-- Bytes of an export that one part carries after its prefix. -/
def partMax : Nat := 1043448

/-- Queue the parts of an export, `i` the number of the next one and `n` how many there are. -/
def Pl.shipParts (p : Pl) (x : PlExp) (data : List Byte) (n : Nat) : Nat → Pl
  | 0 => p
  | k + 1 =>
    let i := n - (k + 1)
    let b := (data.drop (i * partMax)).take partMax
    let it := p.item 0x20 2 (leBytes 4 x.seq ++ leBytes 2 i ++ leBytes 2 n ++ b)
    (p.queue { it with key := x.seq, mark := if k = 0 then 1 + x.attempt else 0 }).shipParts x data n k

/-- PX_STREAM_END: the last E beat of the oldest selected row-block whose streams are still due (R151 steps 1 and 4). A first export takes its `ht_done`; a
re-export keeps the original's. The streams of an export that has left the block are taken in and ship nothing. -/
def Pl.streamEnd (p : Pl) (fmt kred nout : Nat) (a e : List Byte) : Pl :=
  match p.inStream with
  | [] => p
  | seq :: rest =>
    let p := { p with inStream := rest }
    match p.exps.find? (fun x => x.seq == seq) with
    | none => p
    | some x =>
      let y := if x.attempt = 0 then { x with htDone := some p.now } else { x with rex := .done }
      let data := exportHeader y p.par.site fmt kred nout a e ++ a ++ e
      let n := ceilDiv data.length partMax
      (p.onExp seq (fun _ => y)).shipParts y data n n

def execPxStreamEnd (fmt kred nout : Nat) (a e : List Byte) (s : State) : Host.Outcome State Fault Refusal :=
  plDo s (fun p => p.streamEnd fmt kred nout a e)

/-! ### Verdicts, replay and release (R151 steps 5 to 7, R153) -/

/-- An export leaves the block. -/
def Pl.release (p : Pl) (seq : Nat) : Pl :=
  { p with exps := p.exps.filter (fun x => x.seq != seq), rexQ := p.rexQ.filter (fun q => q != seq) }

/-- Queue a replay request; one for a step already queued or presented merges into it (R153). -/
def Pl.replay (p : Pl) (x : PlExp) (code : Nat) : Pl :=
  if p.rpQ.any (fun r => r.id.step == x.id.step) then { p with rpMerge := sat 8 (p.rpMerge + 1) }
  else
    let up := p.rpQ.isEmpty && !p.rpUp && !p.rpLow && p.par.px
    let p := { p with rpQ := p.rpQ ++ [{ id := x.id, seq := x.seq, code := code }] }
    if up then ({ p with rpUp := true } : Pl).raise 0 else p

/-- What a verdict does to the export it names: a first TRANSPORT asks for a re-export; ENGINE_FAULT and UNRESOLVED ask for a replay; every
other verdict is final. -/
def Pl.judge (p : Pl) (x : PlExp) (code : Nat) : Pl :=
  let p := p.emitOut (.pin pinVerdict (x.seq * 8 + code))
  if code = 3 ∧ x.attempt = 0 ∧ x.rex = .none then
    ({ p.onExp x.seq (fun y => { y with rex := .outstanding }) with rexQ := p.rexQ ++ [x.seq] } : Pl).emitOut (.pin pinRex x.seq)
  else
    let p := p.release x.seq
    if code = 2 ∨ code = 5 then p.replay x code else p

/-- A verdict that is discarded. -/
def Pl.unknownVerdict (p : Pl) : Pl := { p with vdUnknown := sat 8 (p.vdUnknown + 1) }

/-- VERDICT_FRAME: the 32-byte verdict record of R125; a malformed one, a reserved code, or a `seq` not held is discarded and counted. -/
def Pl.verdict (p : Pl) (b : List Byte) : Pl :=
  let code := u8 b 20 % 8
  if b.length ≠ 32 ∨ code = 7 then p.unknownVerdict
  else match p.exps.find? (fun x => x.seq == u32 b 16) with
    | none => p.unknownVerdict
    | some x => p.judge x code

def execVerdictFrame (body : List Byte) (s : State) : Host.Outcome State Fault Refusal := plDo s (fun p => p.verdict body)

/-- PX_REX_GONE: answers the oldest outstanding request; nothing more is sent for its export. -/
def Pl.rexGone (p : Pl) : Pl :=
  match p.rexQ with
  | [] => p
  | seq :: _ => ({ p with q := p.q.filter (fun it => !(it.typ == 0x20 && it.key == seq)) } : Pl).release seq

def execPxRexGone (s : State) : Host.Outcome State Fault Refusal := plDo s Pl.rexGone

/-- `deadline_us` of an export: of the seed entry of its epoch, or as it stood when the export was selected. -/
def Pl.deadline (p : Pl) (x : PlExp) : Nat :=
  match p.seeds.find? (fun e => e.epoch == x.id.epoch) with | some e => e.deadlineUs | none => x.deadlineUs

/-- EXPORT_SLOT_TIMEOUT: `ht_done` + `deadline_us` + 20 µs. -/
def Pl.slotTimeout (p : Pl) (seq : Nat) : Pl :=
  match p.exps.find? (fun x => x.seq == seq) with
  | none => p
  | some x => match x.htDone with
    | none => p
    | some t => if p.now < t + p.deadline x * 1000 + 20000 then p else p.release seq

def execExportSlotTimeout (seq : Word32) (s : State) : Host.Outcome State Fault Refusal := plDo s (fun p => p.slotTimeout seq.toNat)

/-- RP_ACK: the presented request leaves the queue and REPLAY_REQ falls for at least a cycle. -/
def execRpAck (s : State) : Host.Outcome State Fault Refusal :=
  plDo s (fun p => if p.rpUp then { p with rpQ := p.rpQ.drop 1, rpUp := false, rpLow := true } else p)

/-- WATERMARK_KEEPALIVE (R152). -/
def execWatermarkKeepalive (s : State) : Host.Outcome State Fault Refusal :=
  plDo s (fun p => if p.par.px && !p.exps.isEmpty then p.queue p.keepalive else p)

end Sys2Proof.Machine
end

