-- ==== Sys2Proof/Machine/Ends.lean ====
section
/-! DEFINITION. The commands that a port of the module and the block's message port share: a frame leaves, arrives, is missed; and a record submitted
to the module or to the block (R152, R154, R184, R190, R195, R264). -/

namespace Sys2Proof.Machine

/-! ### Frames at the block's message port (R152) -/

/-- Length of the body of a type the block accepts fits it (R188); a verdict's is step 5's own check (R151). -/
def plBodyOk (typ : Nat) (b : List Byte) : Bool :=
  if typ = 0x03 then b.length == 22
  else if typ = 0x05 then decide (4 ≤ b.length) && b.length == 4 + 4 * u16 b 2
  else if typ = 0x06 then b.length == 6
  else if typ = 0x14 then b.length == 4
  else if typ = 0x18 then b.length == 16
  else if typ = 0x1B ∨ typ = 0x1C then b.length == 2
  else if typ = 0x22 then b.length == 32
  else typ == 0x00 || typ == 0x21

/-- A flit tag passes its check and belongs to the frame (R186, R195). -/
def tagFits (f : RxFrame) (tag : Word) : Bool :=
  crc8 (leBytes 7 tag.toNat) == bits tag.toNat 56 8 && bits tag.toNat 0 48 == f.stamp && bits tag.toNat 54 2 == f.cls

/-- FRAME_RECEIVE at the block, which always has room for a beat (`mi_ready`): a frame of a type it does not accept, or that fails `tcrc`, `fcrc` or a length
check, is discarded and counted, a verdict frame as an unknown verdict (R151 step 5); a keep-alive is ignored; what any other holds acts through the command
of its type. -/
def Pl.frameReceive (p : Pl) (tags : List Word) (raw : List Byte) : Pl :=
  let f := parseFrame raw
  if !frameOk raw f || !tags.all (tagFits f) || !plBodyOk f.typ f.body then (if f.typ = 0x21 then p.unknownVerdict else p.badFrame)
  else if f.typ = 0x00 then p
  else p.emitOut (.item p.par.site f.src f.typ (extStamp p.now f.stamp) f.body)

/-! ### Meanings -/

/-- FRAME_SEND (R152, R190 to R203). -/
def execFrameSend (o : Outlet) (s : State) : Host.Outcome State Fault Refusal :=
  match o with
  | .port p => gnStep s (fun g => g.frameSend p)
  | .block => plDo s Pl.grant

/-- FRAME_RECEIVE (R152, R195). The bytes come with the command at the block; at a port the flits have brought them (R193). -/
def execFrameReceive (i : Inlet) (raw : List Byte) (s : State) : Host.Outcome State Fault Refusal :=
  match i with
  | .port p => gnStep s (fun g => g.frameReceive p)
  | .block tags => plDo s (fun p => p.frameReceive tags raw)

/-- KEEPALIVE_TIMER (R133, R152, R184). -/
def execKeepaliveTimer (o : Outlet) (s : State) : Host.Outcome State Fault Refusal :=
  match o with
  | .port p => gnStep s (fun g => g.keepaliveTimer p)
  | .block => plDo s Pl.keepaliveTimer

/-- LINK_LOSS (R157, R163, R184). -/
def execLinkLoss (o : Outlet) (lane : Option Nat) (s : State) : Host.Outcome State Fault Refusal :=
  match o with
  | .port p => gnStep s (fun g => if g.alive then g.losePort p lane else g)
  | .block => plDo s Pl.linkLoss

/-- RECORD_SUBMIT (R154, R263 to R267). -/
def execRecordSubmit (r : RecSource) (s : State) : Host.Outcome State Fault Refusal :=
  match r with
  | .producer prod => gnStep s (fun g => g.recordSubmit prod)
  | .hostDie r => plDo s (fun p => p.hostRecord r)

end Sys2Proof.Machine
end

