-- ==== Sys2Proof/Machine/Jtag.lean ====
section
/-! DEFINITION. The TAP and the debug port (R327 to R332, R369). A command stands for one scan of its instruction: what the capture returns goes to
`out`, what the update does follows. -/

namespace Sys2Proof.Machine

/-- The TAP has power (R369). -/
def Gn.tapOn (g : Gn) : Bool := !g.pw.off

/-- Select a TAP instruction. -/
def Gn.tap (g : Gn) (ir : Nat) : Gn := g.onSc (fun x => { x with tapIr := ir })

/-- BYPASS: one bit, captured as 0 (IEEE 1149.1). -/
def Gn.bypass (g : Gn) : Gn := (g.tap 0xFF).emitOut (.jtag 1 0)

def execBypass (s : State) : Host.Outcome State Fault Refusal := gnStep s (fun g => when g.tapOn Gn.bypass g)

/-- IDCODE (R330). -/
def execIdcode (s : State) : Host.Outcome State Fault Refusal :=
  gnStep s (fun g => when g.tapOn (fun g => (g.tap 0x01).emitOut (.jtag 32 0x1B10A4E3)) g)

/-- The boundary instructions are available: before the configuration image is verified, and in Maintenance (R330). -/
def Gn.boundaryOn (g : Gn) : Bool :=
  g.sc.cfg.isNone || g.acc == 2

/-- A boundary instruction; elsewhere it acts as BYPASS. -/
def Gn.boundary (g : Gn) (ir : Nat) : Gn := if !g.tapOn then g else if g.boundaryOn then g.tap ir else g.bypass

def execExtest (s : State) : Host.Outcome State Fault Refusal := gnStep s (fun g => g.boundary 0x00)

def execSamplePreload (s : State) : Host.Outcome State Fault Refusal := gnStep s (fun g => g.boundary 0x02)

def execClamp (s : State) : Host.Outcome State Fault Refusal := gnStep s (fun g => g.boundary 0x03)

def execHighz (s : State) : Host.Outcome State Fault Refusal := gnStep s (fun g => g.boundary 0x04)

/-! ### Opening and closing (R327, R331) -/

/-- What DP_STATUS captures: nonce, GN_SC_ID, access state and level, 32 bits each for the last two (assumption log 4). -/
def Gn.dpWord (g : Gn) (n : Nat) : Nat :=
  (Config.freeNonce n).toNat + g.rg F.scId_fp * 2 ^ 256 + g.acc * 2 ^ 320 + g.rg F.scStat_dbg * 2 ^ 352

def Gn.dpStatus (g : Gn) : Gn :=
  let w := g.dpWord g.free
  (((({ g with free := g.free + 1 } : Gn).onSc (fun x => { x with nonce := some g.free })).tap 0x10).emitOut (.jtag 384 w))

def execDpStatus (s : State) : Host.Outcome State Fault Refusal := gnStep s (fun g => when g.tapOn Gn.dpStatus g)

/-- The combinations R329 admits: level 1 in Sealed or Maintenance, level 2 in Maintenance; not in Flush, nor while a close runs (R328). -/
def Gn.openOk (g : Gn) (level : Nat) : Bool :=
  ((level == 1 && g.acc != 1) || (level == 2 && g.acc == 2)) && g.rg F.pwState_pstate != 3 && !g.flag F.scStat_busy

/-- What a DP_OPEN signature covers: nonce, GN_SC_ID and level, each in little-endian bytes (R331). -/
def Gn.dpSigned (g : Gn) (n level : Nat) : List Byte := leBytes 32 (Config.freeNonce n).toNat ++ leBytes 8 (g.rg F.scId_fp) ++ leBytes 4 level

/-- The signature verifies for the nonce not yet used, under the debug key of the owner record (R331). -/
def Gn.sigOk (g : Gn) (level : Nat) (sig : List Byte) : Bool :=
  match g.sc.nonce, g.ownerRec with
  | some n, some o => Config.ecdsaOk o.dbgKey (sha384 (g.dpSigned n level)) sig
  | _, _ => false

/-- The gesso erase (R327): key store and seeds, session keys, then every buffer still tagged. Then record 0x0F05. -/
def Gn.gesso (g : Gn) : Gn :=
  let g := { g with pf := { g.pf with seeds := [] }, sc := { g.sc with keys := [], store := none } }
  let g := forEach ((List.range 15).filter (fun n => g.sc.tags.any (fun e => e.2 == n + 1))) (fun n g => g.eraseBuffers (n + 1)) g
  ((g.put F.scStat_ksErased true).addWrap F.scStat_gesso 1).record prodCore 0x0F05 2 0 0 0 0 0

/-- A refused open: counted, recorded, and DP_OPEN is ignored for 1 s. -/
def Gn.dpRefuse (g : Gn) : Gn :=
  let t := g.now + 1000000000
  ((g.inc F.scStat_dpFail).record prodCore 0x0F06 2 0 0 0 0 0).onSc (fun x => { x with nonce := none, ignore := t })

def Gn.dpOpen (g : Gn) (level : Nat) (sig : List Byte) : Gn :=
  if !g.alive then g
  else if g.now < g.sc.ignore then g
  else if g.openOk level && g.sigOk level sig then (g.gesso.onSc (fun x => { x with nonce := none })).wr F.scStat_dbg level
  else g.dpRefuse

def execDpOpen (level : Nat) (sig : List Byte) (s : State) : Host.Outcome State Fault Refusal :=
  gnStep s (fun g => when g.tapOn (fun g => (g.tap 0x11).dpOpen level sig) g)

/-- Close the port: erased keys stay erased. -/
def Gn.dpClosed (g : Gn) : Gn := g.wr F.scStat_dbg 0

/-- The port is open. -/
def Gn.dpIsOpen (g : Gn) : Bool := g.flag F.scStat_dbg

/-- DP_CLOSE; while the port is closed it acts as BYPASS. -/
def execDpClose (s : State) : Host.Outcome State Fault Refusal :=
  gnStep s (fun g => when g.tapOn (fun g => if g.dpIsOpen then (g.tap 0x13).dpClosed else g.bypass) g)

/-- TRST_N resets the TAP to IDCODE (IEEE 1149.1) and closes the port (R369). -/
def execTrstN (s : State) : Host.Outcome State Fault Refusal := gnStep s (fun g => when g.tapOn (fun g => (g.tap 0x01).dpClosed) g)

/-! ### DP_ACCESS (R329, R332) -/

/-- Bytes of a memory space the port reaches: control-core memory, HBM (R332, R293, R15). -/
def dpSize (space : Nat) : Nat := if space = 1 then 8388608 else if space = 2 then 103079215104 else 0

/-- Read `n` bytes of a memory space. A read that touches HBM of a unit whose bytes the manual does not lay out, and that nothing else has written, has
a free value (assumption log 9). -/
def Gn.memRead (g : Gn) (space a n : Nat) : Gn × Nat :=
  if space = 1 then (g, leNat (SMap.getList memDefault g.mem (memKey space a) n))
  else if (List.range n).any (fun i => hbmOpen (a + i) && (g.captureAt (a + i)).isNone && (g.exportAt (a + i)).isNone
      && !g.mem.any (fun e => e.1 == memKey 2 (a + i))) then (match g.draw with | (g, v) => (g, v % 256 ^ n))
  else (g, leNat (g.hbmRead a n))

/-- Write `n` bytes of a memory space. -/
def Gn.memWrite (g : Gn) (space a n v : Nat) : Gn :=
  if space = 1 then { g with mem := SMap.setList memDefault g.mem (memKey space a) (leBytes n v) } else g.hbmWrite a (leBytes n v)

/-- Set what the next capture returns. -/
def Gn.dpDone (g : Gn) (status data : Nat) : Gn := g.onSc (fun x => { x with dpStatus := status, dpData := data })

/-- One access to BAR0: as the physical function; in Deep idle only the always-on block answers, other reads give 0 (R329). -/
def Gn.dpBar (g : Gn) (off width : Nat) (write : Bool) (v : Nat) : Gn :=
  if badAccess off width then (g.badRecord 0 2 off width write).dpDone 1 0
  else if g.rg F.pwState_pstate = 2 ∧ alwaysOn off = false then g.dpDone 0 0
  else if write then (g.barWrite 0 off width v).dpDone 0 0
  else match g.barRead 0 off width with | (g', x) => g'.dpDone 0 x

/-- One access to control-core memory or HBM; in Deep idle it reads 0. -/
def Gn.dpMem (g : Gn) (space a width : Nat) (write : Bool) (v : Nat) : Gn :=
  if dpSize space < a + width then g.dpDone 1 0
  else if g.rg F.pwState_pstate = 2 then g.dpDone 0 0
  else if write then (g.memWrite space a width v).dpDone 0 0
  else match g.memRead space a width with | (g, x) => g.dpDone 0 x

/-- An intrusive access to control-core memory may halt, step or release control cores: which does, the manual does not say (R332; assumption log 32). A
core stepped stays halted. -/
def Gn.dpHalt (g : Gn) (w : Nat) : Gn :=
  { g with hg := { g.hg with halted := Config.dpHalts (BitVec.ofNat 128 w) g.hg.halted } }

/-- The access a word asks for: the non-intrusive level only reads BAR0, the intrusive level reaches every space but the reserved one. -/
def Gn.dpDo (g : Gn) (w : Nat) : Gn :=
  let space := bits w 0 2
  let write := bit w 2
  let width := if bit w 3 then 8 else 4
  let a := bits w 4 48
  let v := bits w 64 64
  if space = 3 then g.dpDone 1 0
  else if g.rg F.scStat_dbg ≠ 2 ∧ (space ≠ 0 ∨ write) then g.dpDone 1 0
  else if space = 0 then g.dpBar a width write v
  else if space = 1 then (g.dpMem space a width write v).dpHalt w
  else g.dpMem space a width write v

/-- What a DP_ACCESS capture returns of the access before: data in [127:64], status in [7:4]. -/
def Gn.dpCapture (g : Gn) : Gn := g.emitOut (.jtag 128 (g.sc.dpData * 2 ^ 64 + g.sc.dpStatus * 16))

/-- DP_ACCESS; while the port is closed it acts as BYPASS; the safe state stops the port. -/
def Gn.dpAccess (g : Gn) (w : Nat) : Gn :=
  if !g.dpIsOpen then g.bypass
  else
    let g := (g.tap 0x12).dpCapture
    if g.safe then g else g.dpDo w

def execDpAccess (w : BitVec 128) (s : State) : Host.Outcome State Fault Refusal :=
  gnStep s (fun g => when g.tapOn (fun g => g.dpAccess w.toNat) g)

end Sys2Proof.Machine
end

