-- ==== Sys2Proof/Machine/Dispatch.lean ====
section
/-! DEFINITION. The dispatch of commands to their meanings: one arm per constructor of `Instr`. -/

namespace Sys2Proof.Machine

/-- The effect of a command on everything but the queue. -/
def exec (i : Instr) (s : State) : Host.Outcome State Fault Refusal :=
  match i with
  | .nop h => Sys2Proof.Machine.execNop h s
  | .topology h t => Sys2Proof.Machine.execTopology h t s
  | .timeSet h ht => Sys2Proof.Machine.execTimeSet h ht s
  | .rankmapLoad h gen ranks => Sys2Proof.Machine.execRankmapLoad h gen ranks s
  | .imageLoad h num len img => Sys2Proof.Machine.execImageLoad h num len img s
  | .imageEvict h num => Sys2Proof.Machine.execImageEvict h num s
  | .graphLoad h allTasks hdr tasks edges => Sys2Proof.Machine.execGraphLoad h allTasks hdr tasks edges s
  | .graphUnload h slot => Sys2Proof.Machine.execGraphUnload h slot s
  | .ensStage h e => Sys2Proof.Machine.execEnsStage h e s
  | .ensRepair h e => Sys2Proof.Machine.execEnsRepair h e s
  | .ensUnload h slot => Sys2Proof.Machine.execEnsUnload h slot s
  | .plan h hdr tensors => Sys2Proof.Machine.execPlan h hdr tensors s
  | .seed h epoch sd => Sys2Proof.Machine.execSeed h epoch sd s
  | .read h ta sit => Sys2Proof.Machine.execRead h ta sit s
  | .aggregateRead h key win part => Sys2Proof.Machine.execAggregateRead h key win part s
  | .sitting h ident t => Sys2Proof.Machine.execSitting h ident t s
  | .sitRetire h ident => Sys2Proof.Machine.execSitRetire h ident s
  | .broadcast h bid action studio tFire param => Sys2Proof.Machine.execBroadcast h bid action studio tFire param s
  | .bcCancel h bid => Sys2Proof.Machine.execBcCancel h bid s
  | .coreWithdraw h cluster mask => Sys2Proof.Machine.execCoreWithdraw h cluster mask s
  | .coreReturn h cluster mask => Sys2Proof.Machine.execCoreReturn h cluster mask s
  | .coreRetest h cluster mask => Sys2Proof.Machine.execCoreRetest h cluster mask s
  | .poolRelease h cluster => Sys2Proof.Machine.execPoolRelease h cluster s
  | .powerRun h => Sys2Proof.Machine.execPowerRun h s
  | .powerIdle h => Sys2Proof.Machine.execPowerIdle h s
  | .powerDeepIdle h => Sys2Proof.Machine.execPowerDeepIdle h s
  | .accept h rank => Sys2Proof.Machine.execAccept h rank s
  | .decline h rank muteMin => Sys2Proof.Machine.execDecline h rank muteMin s
  | .declineHeld h muteMin => Sys2Proof.Machine.execDeclineHeld h muteMin s
  | .returnRank h rank => Sys2Proof.Machine.execReturnRank h rank s
  | .clearAlarm h => Sys2Proof.Machine.execClearAlarm h s
  | .setJob h n => Sys2Proof.Machine.execSetJob h n s
  | .studioOpen h n => Sys2Proof.Machine.execStudioOpen h n s
  | .studioClose h n => Sys2Proof.Machine.execStudioClose h n s
  | .studioKey h block => Sys2Proof.Machine.execStudioKey h block s
  | .attest h nonce => Sys2Proof.Machine.execAttest h nonce s
  | .logRead h first count => Sys2Proof.Machine.execLogRead h first count s
  | .dumpRead h slot off4k bytes => Sys2Proof.Machine.execDumpRead h slot off4k bytes s
  | .regRead h off w64 => Sys2Proof.Machine.execRegRead h off w64 s
  | .regWrite h off w64 data => Sys2Proof.Machine.execRegWrite h off w64 data s
  | .maintStop h => Sys2Proof.Machine.execMaintStop h s
  | .imageWrite h kind slot img => Sys2Proof.Machine.execImageWrite h kind slot img s
  | .enrol h o => Sys2Proof.Machine.execEnrol h o s
  | .doorbellPoll fn tails heads descs => Sys2Proof.Machine.execDoorbellPoll fn tails heads descs s
  | .nudge fn => Sys2Proof.Machine.execNudge fn s
  | .ringDisable fn cq q => Sys2Proof.Machine.execRingDisable fn cq q s
  | .holdbackDrain fn q => Sys2Proof.Machine.execHoldbackDrain fn q s
  | .cqOvfWarning fn q => Sys2Proof.Machine.execCqOvfWarning fn q s
  | .irqModerationTimer fn q => Sys2Proof.Machine.execIrqModerationTimer fn q s
  | .functionLevelReset fn => Sys2Proof.Machine.execFunctionLevelReset fn s
  | .powerApply => Sys2Proof.Machine.execPowerApply s
  | .holdupChargeDone => Sys2Proof.Machine.execHoldupChargeDone s
  | .bringupPhaseEnd e => Sys2Proof.Machine.execBringupPhaseEnd e s
  | .hrefQualify => Sys2Proof.Machine.execHrefQualify s
  | .refCompareGate foster linkEdges hrefEdges => Sys2Proof.Machine.execRefCompareGate foster linkEdges hrefEdges s
  | .refLoss => Sys2Proof.Machine.execRefLoss s
  | .powerCapEval p4 vin iin => Sys2Proof.Machine.execPowerCapEval p4 vin iin s
  | .autoIdle => Sys2Proof.Machine.execAutoIdle s
  | .idleWake => Sys2Proof.Machine.execIdleWake s
  | .pfailDetect => Sys2Proof.Machine.execPfailDetect s
  | .undervoltage => Sys2Proof.Machine.execUndervoltage s
  | .overvoltage => Sys2Proof.Machine.execOvervoltage s
  | .flushEnd pfailHigh vinOk dtLast => Sys2Proof.Machine.execFlushEnd pfailHigh vinOk dtLast s
  | .thermalTrip mask => Sys2Proof.Machine.execThermalTrip mask s
  | .warmReset fn key => Sys2Proof.Machine.execWarmReset fn key s
  | .coldReset fn key => Sys2Proof.Machine.execColdReset fn key s
  | .pcieFundamentalReset => Sys2Proof.Machine.execPcieFundamentalReset s
  | .clusterReset fn c => Sys2Proof.Machine.execClusterReset fn c s
  | .linkPortReset fn p => Sys2Proof.Machine.execLinkPortReset fn p s
  | .dumpRequest fn => Sys2Proof.Machine.execDumpRequest fn s
  | .monitorEval => Sys2Proof.Machine.execMonitorEval s
  | .gnMonitorStall n => Sys2Proof.Machine.execGnMonitorStall n s
  | .monitorConfigWrite n v => Sys2Proof.Machine.execMonitorConfigWrite n v s
  | .supervisorHeartbeat => Sys2Proof.Machine.execSupervisorHeartbeat s
  | .hwWatchdog => Sys2Proof.Machine.execHwWatchdog s
  | .dumpSnapshotDone => Sys2Proof.Machine.execDumpSnapshotDone s
  | .dumpWriteDone => Sys2Proof.Machine.execDumpWriteDone s
  | .dumpAck slot => Sys2Proof.Machine.execDumpAck slot s
  | .selfTestDue core => Sys2Proof.Machine.execSelfTestDue core s
  | .selfTestStart core => Sys2Proof.Machine.execSelfTestStart core s
  | .selfTestDeadline core => Sys2Proof.Machine.execSelfTestDeadline core s
  | .selfTestDone core pass stage => Sys2Proof.Machine.execSelfTestDone core pass stage s
  | .linkTrainStart p => Sys2Proof.Machine.execLinkTrainStart p s
  | .linkTrainDone x => Sys2Proof.Machine.execLinkTrainDone x s
  | .linkAlignDone p => Sys2Proof.Machine.execLinkAlignDone p s
  | .linkCreditDone p cred => Sys2Proof.Machine.execLinkCreditDone p cred s
  | .linkStateTimeout p lane => Sys2Proof.Machine.execLinkStateTimeout p lane s
  | .linkStartDone l => Sys2Proof.Machine.execLinkStartDone l s
  | .linkLoss o lane => Sys2Proof.Machine.execLinkLoss o lane s
  | .flitReceive p tag b ce ue => Sys2Proof.Machine.execFlitReceive p tag b ce ue s
  | .frameReceive ident raw => Sys2Proof.Machine.execFrameReceive ident raw s
  | .decompressDone p src cls => Sys2Proof.Machine.execDecompressDone p src cls s
  | .linkControlFrame p cred acks => Sys2Proof.Machine.execLinkControlFrame p cred acks s
  | .creditReturnTimer p => Sys2Proof.Machine.execCreditReturnTimer p s
  | .class0ResendTimeout p src seq => Sys2Proof.Machine.execClass0ResendTimeout p src seq s
  | .frameSend o => Sys2Proof.Machine.execFrameSend o s
  | .gateCommit u => Sys2Proof.Machine.execGateCommit u s
  | .gateCycleStart u => Sys2Proof.Machine.execGateCycleStart u s
  | .keepaliveTimer o => Sys2Proof.Machine.execKeepaliveTimer o s
  | .keepaliveFrame site watermark => Sys2Proof.Machine.execKeepaliveFrame site watermark s
  | .arbiterGrant a reqs => Sys2Proof.Machine.execArbiterGrant a reqs s
  | .arbFreeze a => Sys2Proof.Machine.execArbFreeze a s
  | .tapOvfWarning => Sys2Proof.Machine.execTapOvfWarning s
  | .linkTrainFailWarning p => Sys2Proof.Machine.execLinkTrainFailWarning p s
  | .unmappedSourceWarning p => Sys2Proof.Machine.execUnmappedSourceWarning p s
  | .timeRefresh u => Sys2Proof.Machine.execTimeRefresh u s
  | .timeRequestFrame l xid t1 frac => Sys2Proof.Machine.execTimeRequestFrame l xid t1 frac s
  | .timeReplyFrame u l r => Sys2Proof.Machine.execTimeReplyFrame u l r s
  | .islandStretch island cyclePs => Sys2Proof.Machine.execIslandStretch island cyclePs s
  | .islandStop island => Sys2Proof.Machine.execIslandStop island s
  | .islandResume island => Sys2Proof.Machine.execIslandResume island s
  | .windowClose w old new => Sys2Proof.Machine.execWindowClose w old new s
  | .winSkipWarning slot => Sys2Proof.Machine.execWinSkipWarning slot s
  | .winCfgWrite w v => Sys2Proof.Machine.execWinCfgWrite w v s
  | .sampleRecordFrame site r => Sys2Proof.Machine.execSampleRecordFrame site r s
  | .traceDataFrame site stamp tq data => Sys2Proof.Machine.execTraceDataFrame site stamp tq data s
  | .eventRecordFrame site studio recs => Sys2Proof.Machine.execEventRecordFrame site studio recs s
  | .sittingRequestFrame ident t => Sys2Proof.Machine.execSittingRequestFrame ident t s
  | .sittingFreeze ident => Sys2Proof.Machine.execSittingFreeze ident s
  | .sittingMarkerSend l ident => Sys2Proof.Machine.execSittingMarkerSend l ident s
  | .sittingMarkerArrival l ident image => Sys2Proof.Machine.execSittingMarkerArrival l ident image s
  | .blockRefusalFrame site ident reason => Sys2Proof.Machine.execBlockRefusalFrame site ident reason s
  | .sittingOverrunFrame site ident => Sys2Proof.Machine.execSittingOverrunFrame site ident s
  | .sittingFreezeTimeout ident => Sys2Proof.Machine.execSittingFreezeTimeout ident s
  | .sittingReportFrame p r => Sys2Proof.Machine.execSittingReportFrame p r s
  | .sittingReportTimeout ident => Sys2Proof.Machine.execSittingReportTimeout ident s
  | .sittingRetireFrame ident cancel => Sys2Proof.Machine.execSittingRetireFrame ident cancel s
  | .readRequestFrame p r => Sys2Proof.Machine.execReadRequestFrame p r s
  | .readReplyFrame p r => Sys2Proof.Machine.execReadReplyFrame p r s
  | .readTimeout tag => Sys2Proof.Machine.execReadTimeout tag s
  | .regReplyFrame site tag value ht tq => Sys2Proof.Machine.execRegReplyFrame site tag value ht tq s
  | .summaryFrame p x => Sys2Proof.Machine.execSummaryFrame p x s
  | .latePartialFrame p x => Sys2Proof.Machine.execLatePartialFrame p x s
  | .passThroughFrame p x => Sys2Proof.Machine.execPassThroughFrame p x s
  | .summaryEmit => Sys2Proof.Machine.execSummaryEmit s
  | .summaryWaitTimeout => Sys2Proof.Machine.execSummaryWaitTimeout s
  | .reductionControlTimer => Sys2Proof.Machine.execReductionControlTimer s
  | .reductionControlFrame ptBeads j => Sys2Proof.Machine.execReductionControlFrame ptBeads j s
  | .armFrame p a => Sys2Proof.Machine.execArmFrame p a s
  | .armAckFrame p bid origin node status => Sys2Proof.Machine.execArmAckFrame p bid origin node status s
  | .armAckTimeout p bid origin => Sys2Proof.Machine.execArmAckTimeout p bid origin s
  | .rearmRequestFrame a failed => Sys2Proof.Machine.execRearmRequestFrame a failed s
  | .broadcastCancelFrame p bid origin => Sys2Proof.Machine.execBroadcastCancelFrame p bid origin s
  | .broadcastFire bid origin => Sys2Proof.Machine.execBroadcastFire bid origin s
  | .fireReportFrame p bid origin fired late full nodes => Sys2Proof.Machine.execFireReportFrame p bid origin fired late full nodes s
  | .fireReportTimeout bid origin => Sys2Proof.Machine.execFireReportTimeout bid origin s
  | .tc2AbortFrame p a => Sys2Proof.Machine.execTc2AbortFrame p a s
  | .progressRecordFrame site recs => Sys2Proof.Machine.execProgressRecordFrame site recs s
  | .healthRun => Sys2Proof.Machine.execHealthRun s
  | .muteEnd rank => Sys2Proof.Machine.execMuteEnd rank s
  | .exportPartFrame site seq part nparts data => Sys2Proof.Machine.execExportPartFrame site seq part nparts data s
  | .weightFrame w => Sys2Proof.Machine.execWeightFrame w s
  | .batchDispatch => Sys2Proof.Machine.execBatchDispatch s
  | .gatherExpiry => Sys2Proof.Machine.execGatherExpiry s
  | .proofRunDone slot inst => Sys2Proof.Machine.execProofRunDone slot inst s
  | .proofDeadline site seq => Sys2Proof.Machine.execProofDeadline site seq s
  | .taskLaunch => Sys2Proof.Machine.execTaskLaunch s
  | .taskComplete slot inst task => Sys2Proof.Machine.execTaskComplete slot inst task s
  | .pipelineCycle slot inst task cluster ops => Sys2Proof.Machine.execPipelineCycle slot inst task cluster ops s
  | .breakPoint slot inst task => Sys2Proof.Machine.execBreakPoint slot inst task s
  | .holdResume slot inst task => Sys2Proof.Machine.execHoldResume slot inst task s
  | .bpWatchdog slot inst task => Sys2Proof.Machine.execBpWatchdog slot inst task s
  | .scrubCycle c errs => Sys2Proof.Machine.execScrubCycle c errs s
  | .stagingDone slot => Sys2Proof.Machine.execStagingDone slot s
  | .panelWriteStart slot panel => Sys2Proof.Machine.execPanelWriteStart slot panel s
  | .panelWriteDone slot panel => Sys2Proof.Machine.execPanelWriteDone slot panel s
  | .recordSubmit r => Sys2Proof.Machine.execRecordSubmit r s
  | .coalesceFlush => Sys2Proof.Machine.execCoalesceFlush s
  | .fixedChunkFlash => Sys2Proof.Machine.execFixedChunkFlash s
  | .ringPageFlash => Sys2Proof.Machine.execRingPageFlash s
  | .ringAgeFlash => Sys2Proof.Machine.execRingAgeFlash s
  | .fxack slot => Sys2Proof.Machine.execFxack slot s
  | .closeEraseDone => Sys2Proof.Machine.execCloseEraseDone s
  | .dpStatus => Sys2Proof.Machine.execDpStatus s
  | .dpOpen level sig => Sys2Proof.Machine.execDpOpen level sig s
  | .dpAccess w => Sys2Proof.Machine.execDpAccess w s
  | .dpClose => Sys2Proof.Machine.execDpClose s
  | .idcode => Sys2Proof.Machine.execIdcode s
  | .bypass => Sys2Proof.Machine.execBypass s
  | .extest => Sys2Proof.Machine.execExtest s
  | .samplePreload => Sys2Proof.Machine.execSamplePreload s
  | .clamp => Sys2Proof.Machine.execClamp s
  | .highz => Sys2Proof.Machine.execHighz s
  | .trstN => Sys2Proof.Machine.execTrstN s
  | .registerWrite fn off width v => Sys2Proof.Machine.execRegisterWrite fn off width v s
  | .mpRegisterWrite addr v priv => Sys2Proof.Machine.execMpRegisterWrite addr v priv s
  | .plCntLowRead addr priv => Sys2Proof.Machine.execPlCntLowRead addr priv s
  | .regWriteFrame off data => Sys2Proof.Machine.execRegWriteFrame off data s
  | .regReadFrame off n tag => Sys2Proof.Machine.execRegReadFrame off n tag s
  | .blockReset => Sys2Proof.Machine.execBlockReset s
  | .softReset priv link => Sys2Proof.Machine.execSoftReset priv link s
  | .samplingInstant => Sys2Proof.Machine.execSamplingInstant s
  | .palCommit => Sys2Proof.Machine.execPalCommit s
  | .palWrite off data => Sys2Proof.Machine.execPalWrite off data s
  | .blockSittingRequest ident t => Sys2Proof.Machine.execBlockSittingRequest ident t s
  | .sittingCapture t => Sys2Proof.Machine.execSittingCapture t s
  | .sittingRelease ident retire => Sys2Proof.Machine.execSittingRelease ident retire s
  | .freezeExpiry => Sys2Proof.Machine.execFreezeExpiry s
  | .traceWord core kind data => Sys2Proof.Machine.execTraceWord core kind data s
  | .traceBurstDma => Sys2Proof.Machine.execTraceBurstDma s
  | .stampMarkerTimer => Sys2Proof.Machine.execStampMarkerTimer s
  | .traceFrameShip => Sys2Proof.Machine.execTraceFrameShip s
  | .traceExtract n => Sys2Proof.Machine.execTraceExtract n s
  | .lpEntry core => Sys2Proof.Machine.execLpEntry core s
  | .lpEntryTimeout core => Sys2Proof.Machine.execLpEntryTimeout core s
  | .lpExit core => Sys2Proof.Machine.execLpExit core s
  | .progressPulse mon => Sys2Proof.Machine.execProgressPulse mon s
  | .progressRecordSend mon => Sys2Proof.Machine.execProgressRecordSend mon s
  | .progressStall mon => Sys2Proof.Machine.execProgressStall mon s
  | .pxIdentity ident => Sys2Proof.Machine.execPxIdentity ident s
  | .pxReexportIdentity ident => Sys2Proof.Machine.execPxReexportIdentity ident s
  | .pxStreamEnd fmt kred nout a e => Sys2Proof.Machine.execPxStreamEnd fmt kred nout a e s
  | .verdictFrame body => Sys2Proof.Machine.execVerdictFrame body s
  | .pxRexGone => Sys2Proof.Machine.execPxRexGone s
  | .exportSlotTimeout seq => Sys2Proof.Machine.execExportSlotTimeout seq s
  | .rpAck => Sys2Proof.Machine.execRpAck s
  | .seedFrame epoch deadlineUs k sd => Sys2Proof.Machine.execSeedFrame epoch deadlineUs k sd s
  | .watermarkKeepalive => Sys2Proof.Machine.execWatermarkKeepalive s
  | .registerRead fn off width => Sys2Proof.Machine.execRegisterRead fn off width s
  | .mpRegisterRead addr priv => Sys2Proof.Machine.execMpRegisterRead addr priv s
  | .controlCoreTrap => Sys2Proof.Machine.execControlCoreTrap s
  | .sequencerMemoryError => Sys2Proof.Machine.execSequencerMemoryError s
  | .timeUnitIncrement u => Sys2Proof.Machine.execTimeUnitIncrement u s
  | .counterIncrement lanes => Sys2Proof.Machine.execCounterIncrement lanes s

end Sys2Proof.Machine
end

