-- ==== Sys2Proof/Safety.lean ====
section
/-! DEFINITION. What a safe run is, in the terms claims use: a command that answers a next state, the state in which a descriptor's operation
runs, and the bounds the block's queues keep. -/

namespace Sys2Proof.Machine

/-- The command ran: it answered a next state. -/
def Completes (o : Host.Outcome State Fault Refusal) : Prop := ∃ t, o = .next t

/-- The debug memory is in its canonical form. -/
def State.memWf (s : State) : Bool := SMap.wf memDefault s.gn.mem

/-- The module once a descriptor has started: it has been fetched and is owed a completion, and Idle or Deep idle has ended (R309, R336). -/
def Gn.begun (g : Gn) (op : Nat) (h : DescHdr) : Gn := ((g.fetch op h).startDesc op h).wake

/-- Nothing keeps a descriptor from running its operation: the module runs and is not in Flush, the function is served and its ring exists, it is fetched or
can be, its turn has come, the function and the States column of R340 admit it, its reserved bits are 0 (R315, R316, R339 to R342). -/
def Gn.admits (g : Gn) (op : Nat) (r : OpRule) (h : DescHdr) : Bool :=
  g.alive && g.fnServed h.fn && decide (h.sq < 4) && (g.fetch op h).itsTurn op h
    && (h.fn == 0 || r.vf) && (g.begun op h).stateOk r && !h.resv

/-- The bounds that the manual gives the stores of the Plovlugo block: 8 sitting requests held (R141), 2 sitting images (R142), 3 seed entries
(R110), 8 exports, whose replay requests can never exceed 15 with them (R151, R153), 2,048 event slots (R154). -/
def Pl.bounded (p : Pl) : Prop :=
  p.sitReqs.length ≤ 8 ∧ p.images.length ≤ 2 ∧ p.seeds.length ≤ 3 ∧ p.exps.length ≤ 8 ∧ p.exps.length + p.rpQ.length ≤ 15 ∧ p.evs.length ≤ 2048

end Sys2Proof.Machine
end

