-- ==== Sys2Proof/Certificates/Slice0/Obligations.lean ====
section
/-! DEFINITION. The statements for the provers: what each command does to the Ginath module or the Plovlugo block, and what every step keeps. -/

open Sys2Proof Sys2Proof.Machine

/-! ### Host queues -/

/-- R340: NOP completes; R339 to R342 name what keeps a descriptor from running. -/
def Obligations.NopCompletes : Prop := ∀ (s : State) (h : DescHdr), s.gn.admits 0x00 ⟨true, true, true, true⟩ h = true →
  exec (.nop h) s = .next { s with gn := (s.gn.begun 0x00 h).complete 0x00 h stOk [] }

/-- R335, R343, R344, R338, R201, R202: the bytes of the one entry that a NOP's completion writes once arbiter 128 has granted it, its phase, the tail after it, and that no register
but the tail and that arbiter's own changes. The ring is served, nothing else waits for host DMA, no reserved operation follows in the ring, and `ic_n` entries do not stand
unsignalled yet. While the arbiter is frozen the entry waits and nothing comes out. -/
def Obligations.CompletionEntryWritten : Prop := ∀ (s : State) (h : DescHdr) (o : Owed), s.gn.admits 0x00 ⟨true, true, true, true⟩ h = true → h.fn < 16 →
  let g := s.gn.begun 0x00 h
  let c := g.cq h.fn h.sq
  g.hq.owed.find? (fun x => x.isIt 0x00 h && x.started) = some o → (∀ x ∈ g.hq.owed, x.d.op < 0x1F) →
  g.cqOn h.fn h.sq = true →
  let slot := g.rg (F.hqCqs_tail h.fn h.sq) % 2 ^ g.rg (F.hqCq_lg h.fn h.sq)
  (g.arbHeld 128 = false → g.hq.dma = [] → c.unsig + 1 < g.rg (F.hqImod_icN h.fn h.sq) →
    ∃ t, exec (.nop h) s = .next t ∧ t.pl = s.pl ∧ t.pending = s.pending
      ∧ t.gn.out = g.out ++ [.cqe h.fn h.sq slot (4096 * g.rg (F.hqCq_base h.fn h.sq) + 32 * slot)
          (Cqe.bytes ⟨h.tag.toNat, 0x00, c.phase, 0, false, o.head % 2 ^ 16, g.now, []⟩)]
      ∧ t.gn.rg (F.hqCqs_tail h.fn h.sq) = (g.rg (F.hqCqs_tail h.fn h.sq) + 1) % 2 ^ 32
      ∧ (t.gn.cq h.fn h.sq).phase = (if (g.rg (F.hqCqs_tail h.fn h.sq) + 1) % 2 ^ g.rg (F.hqCq_lg h.fn h.sq) = 0 then !c.phase else c.phase)
      ∧ (t.gn.cq h.fn h.sq).unsig = c.unsig + 1 ∧ t.gn.hq.dma = []
      ∧ (∀ f : FRef, f.key ≠ (F.hqCqs_tail h.fn h.sq).key → f.key ≠ (F.arb_maxWait 128).key → f.key ≠ (F.arb_ptr 128).key → f.key ≠ (F.arb_starv 128).key →
          t.gn.rg f = g.rg f)
      ∧ t.gn.mem = s.gn.mem ∧ t.gn.msix = g.msix)
  ∧ (g.flag (F.arb_frz 128) = true →
    ∃ t, exec (.nop h) s = .next t ∧ t.pl = s.pl ∧ t.pending = s.pending ∧ t.gn.out = g.out ∧ t.gn.regs = g.regs ∧ t.gn.mem = s.gn.mem
      ∧ t.gn.hq.dma = g.hq.dma ++ [(h.fn, .cqe h.sq ⟨h.tag.toNat, 0x00, true, 0, false, o.head % 2 ^ 16, g.now, []⟩)])

/-- R335 to R338, R343, R346, R347: polls, nudges, the drain of the holdback, its warning, the moderation timer, function-level reset; and a ring
disabled while on: it gives up the completions owed to it and starts its indices over, a completion ring its phase as well. -/
def Obligations.HostRingCommandsComplete : Prop :=
  (∀ (s : State) (fn : Nat), s.gn.alive = true → s.gn.fnServed fn = true → s.gn.hq.polls.contains fn = false →
    exec (.nudge fn) s = .next { s with gn := { s.gn with hq := { s.gn.hq with polls := s.gn.hq.polls ++ [fn] } } })
  ∧ (∀ (s : State) (fn : Nat) (tails heads : List Word32) (descs : List RawDesc),
    s.gn.alive = true → s.gn.fnServed fn = true → s.gn.flag (F.hqCtl_en fn) = true → s.gn.arbHeld 128 = false →
    let g0 : Gn := { s.gn with hq := { s.gn.hq with polls := s.gn.hq.polls.filter (fun x => x != fn) } }
    let polled := forEach [0, 1, 2, 3] (fun q g => g.pollCq fn q (heads.getD q 0).toNat) (g0.dmaPush fn [.read (32 * g0.rg (F.hqDb_dbAddr fn)) 32])
    exec (.doorbellPoll fn tails heads descs) s
      = .next { s with gn := forEach [0, 1, 2, 3] (fun q g => g.pollSq fn q (tails.getD q 0).toNat descs) polled })
  ∧ (∀ (s : State) (fn q : Nat) (e : Cqe), (s.gn.cq fn q).hold = [e] → s.gn.cqOn fn q = true → (s.gn.owedOf fn q).length < s.gn.cqFree fn q →
    exec (.holdbackDrain fn q) s = .next { s with gn := (s.gn.setCq fn q { s.gn.cq fn q with hold := [] }).writeCqe fn q e })
  ∧ (∀ (s : State) (fn q : Nat), s.gn.hq.ovfPend.contains (fn * 4 + q) = true →
    let g : Gn := { s.gn with hq := { s.gn.hq with ovfPend := s.gn.hq.ovfPend.filter (fun k => k != fn * 4 + q) } }
    exec (.cqOvfWarning fn q) s = .next { s with gn := g.record prodCore 0x1003 3 0 fn q 0 0 })
  ∧ (∀ (s : State) (fn q : Nat), s.gn.rg (F.hqImod_icUs fn q) ≠ 0 → (s.gn.cq fn q).unsig ≠ 0 →
    exec (.irqModerationTimer fn q) s = .next { s with gn := (s.gn.setCq fn q { s.gn.cq fn q with unsig := 0 }).sendVec fn q })
  ∧ (∀ (s : State) (fn : Nat), s.gn.alive = true → s.gn.inReset = false → fn < 16 →
    ∃ t, exec (.functionLevelReset fn) s = .next t ∧ t.pl = s.pl ∧ t.pending = s.pending
      ∧ t.gn.regs = s.gn.regs.filter (fun e => !ofFn fn e.1)
      ∧ t.gn.hq.owed = s.gn.hq.owed.filter (fun o => o.fn != fn) ∧ t.gn.hq.polls = s.gn.hq.polls.filter (fun x => x != fn)
      ∧ t.gn.hq.dma = s.gn.hq.dma.filter (fun e => e.1 != fn)
      ∧ t.gn.hq.cq = s.gn.hq.cq.filter (fun e => e.1 / 4 != fn) ∧ t.gn.msix = s.gn.msix.filter (fun e => e.1 / 4096 != fn)
      ∧ t.gn.sc = s.gn.sc ∧ t.gn.tm = s.gn.tm ∧ t.gn.ev = s.gn.ev ∧ t.gn.hl = s.gn.hl ∧ t.gn.pf = s.gn.pf ∧ t.gn.mem = s.gn.mem
      ∧ t.gn.out = s.gn.out)
  ∧ (∀ (s : State) (fn q : Nat), s.gn.flag (F.hqSq_en fn q) = true →
    ∃ t, exec (.ringDisable fn false q) s = .next t ∧ t.pl = s.pl ∧ t.pending = s.pending
      ∧ t.gn.flag (F.hqSq_en fn q) = false ∧ t.gn.rg (F.hqSqs_head fn q) = 0
      ∧ t.gn.hq.owed = s.gn.hq.owed.filter (fun o => !(o.fn == fn && o.d.sq == q)) ∧ t.gn.hq.cq = s.gn.hq.cq
      ∧ (∀ f : FRef, f.key ≠ (F.hqSq_en fn q).key → f.key ≠ (F.hqSqs_head fn q).key → t.gn.rg f = s.gn.rg f)
      ∧ t.gn.mem = s.gn.mem ∧ t.gn.out = s.gn.out)
  ∧ (∀ (s : State) (fn q : Nat), s.gn.flag (F.hqCq_en fn q) = true →
    ∃ t, exec (.ringDisable fn true q) s = .next t ∧ t.pl = s.pl ∧ t.pending = s.pending
      ∧ t.gn.flag (F.hqCq_en fn q) = false ∧ t.gn.rg (F.hqCqs_tail fn q) = 0
      ∧ (t.gn.cq fn q).phase = true ∧ (t.gn.cq fn q).head = 0 ∧ (t.gn.cq fn q).hold = (s.gn.cq fn q).hold
      ∧ t.gn.hq.owed = s.gn.hq.owed.filter (fun o => !(o.fn == fn && o.d.sq == q))
      ∧ t.gn.hq.dma = s.gn.hq.dma.filter (fun e => !(e.1 == fn && (match e.2 with | .cqe k _ => k == q | _ => false)))
      ∧ (∀ f : FRef, f.key ≠ (F.hqCq_en fn q).key → f.key ≠ (F.hqCqs_tail fn q).key → t.gn.rg f = s.gn.rg f)
      ∧ t.gn.mem = s.gn.mem ∧ t.gn.out = s.gn.out)

/-! ### Operator answers and health -/

/-- R249: the run's steps in their order, over the oldest window whose parts are all there or past their wait; R250: a mute that is over ends; R254, R340:
each operator answer in range is taken at the hall root, to be applied by the next run. -/
def Obligations.HealthCommandsComplete : Prop :=
  (∀ (s : State) (w : Nat), s.gn.alive = true → s.gn.isTop = true → s.gn.hl.nextWin = some w → s.gn.winOpen w = false →
    let parts := s.gn.hl.ready.filter (fun x => x.win == w)
    let g0 := s.gn.onHl (fun h => { h with ready := h.ready.filter (fun x => x.win != w), lateEv := [], answers := [], ran := h.ran.filter (fun v => decide (s.gn.now < v + 2 ^ 37)) ++ [w] })
    let g1 := (forEach s.gn.hl.answers (fun a g => g.applyAnswer a) g0).decay
    let g2 := s.gn.hl.lateEv.foldl (fun (acc : Gn × Nat) (x : Summary) => ((acc.1.applyEvidence x.series).1, acc.2 + b2n (acc.1.applyEvidence x.series).2)) (g1, 0)
    let epochs := ((parts.map (·.epoch)).eraseDups).mergeSort (fun a b => decide (a ≤ b))
    let one := fun (acc : Gn × Bool) (e : Nat) =>
      let r := acc.1.applyEvidence (seriesOf parts e)
      (r.1.onHl (fun h => { h with lastSum := sumIn (seriesOf parts e) 0x0201, lastEpoch := e }), acc.2 || r.2)
    let g3 := epochs.foldl one (g2.1, false)
    let g4 := g3.1.addSat F.hlCnt_evTrunc (g2.2 + b2n g3.2)
    let wins := fun e => parts.foldl (fun n x => if x.epoch = e then max n (2 ^ x.decim) else n) 1
    let g5 := forEach epochs (fun e g => g.search e (wins e) (seriesOf parts e)) g4
    exec .healthRun s = .next { s with gn := (g5.candidates.triggers (g3.2 || decide (0 < g2.2))).recommend })
  ∧ (∀ (s : State) (r : Nat), s.gn.alive = true → (s.gn.hr r).st = .muted → (s.gn.hr r).muteEnd ≤ s.gn.now →
    exec (.muteEnd r) s = .next { s with gn := s.gn.setHr r { s.gn.hr r with st := .active, muteEnd := 0 } })
  ∧ (∀ (s : State) (h : DescHdr), s.gn.admits 0x14 ruleS h = true → (s.gn.begun 0x14 h).isTop = true →
  let taken := fun (code rank arg : Nat) => Host.Outcome.next (φ := Fault) (ρ := Refusal) { s with gn := { s.gn.begun 0x14 h with
    hl := { (s.gn.begun 0x14 h).hl with answers := (s.gn.begun 0x14 h).hl.answers ++ [⟨code, rank, arg, h⟩] } } }
  (∀ rank < 131072, exec (.accept h rank) s = taken 1 rank 0)
  ∧ (∀ rank < 131072, ∀ m, 1 ≤ m → m ≤ 10080 → exec (.decline h rank m) s = taken 2 rank m)
  ∧ (∀ m, 1 ≤ m → m ≤ 10080 → exec (.declineHeld h m) s = taken 3 0 m)
  ∧ (∀ rank < 131072, exec (.returnRank h rank) s = taken 4 rank 0)
  ∧ exec (.clearAlarm h) s = taken 5 0 0
  ∧ (∀ n ≤ 131072, exec (.setJob h n) s = taken 6 0 n))

/-! ### Power states, references, the input stage, bring-up -/

/-- R309, R310, R329, R340: the power-state descriptors, automatic Idle and its end. -/
def Obligations.PowerStateCommandsComplete : Prop :=
  (∀ (s : State) (h : DescHdr), s.gn.admits 0x13 ruleS h = true →
    exec (.powerRun h) s = .next { s with gn := (s.gn.begun 0x13 h).complete 0x13 h stOk [] }
    ∧ exec (.powerIdle h) s = .next { s with gn := (s.gn.begun 0x13 h).enterIdle.complete 0x13 h stOk [] }
    ∧ ((s.gn.begun 0x13 h).deepBusy = false →
      exec (.powerDeepIdle h) s = .next { s with gn := (s.gn.begun 0x13 h).enterDeep.complete 0x13 h stOk [] }))
  ∧ (∀ s : State, s.gn.alive = true → s.gn.ready = true → s.gn.flag F.pwState_autoIdle = true → s.gn.rg F.pwState_pstate = 0 →
    s.gn.quiet = true → s.gn.rg F.scStat_dbg ≠ 2 → exec .autoIdle s = .next { s with gn := s.gn.enterIdle })
  ∧ (∀ s : State, s.gn.alive = true → s.gn.rg F.pwState_pstate = 1 → exec .idleWake s = .next { s with gn := s.gn.wake })

/-- R309: Idle gates every island and shows pstate 1; the command that ends it shows pstate 0 and gates none. -/
def Obligations.IdleGatesEveryIsland : Prop :=
  (∀ s : State, s.gn.alive = true → s.gn.ready = true → s.gn.flag F.pwState_autoIdle = true → s.gn.rg F.pwState_pstate = 0 →
    s.gn.quiet = true → s.gn.rg F.scStat_dbg ≠ 2 →
    ∃ t, exec .autoIdle s = .next t ∧ t.gn.rg F.pwState_pstate = 1 ∧ (∀ i < 16, t.gn.flag (F.pwIsl_gated i) = true)
      ∧ (∀ i < 16, ((t.gn.isl i).stoppedAt).isSome = true) ∧ t.gn.mem = s.gn.mem ∧ t.pl = s.pl)
  ∧ (∀ s : State, s.gn.alive = true → s.gn.rg F.pwState_pstate = 1 →
    ∃ t, exec .idleWake s = .next t ∧ t.gn.rg F.pwState_pstate = 0 ∧ (∀ i < 16, t.gn.flag (F.pwIsl_gated i) = false)
      ∧ t.gn.mem = s.gn.mem ∧ t.pl = s.pl)

/-- R297 to R302: the references. -/
def Obligations.ReferenceCommandsComplete : Prop :=
  (∀ s : State, s.gn.pw.coldWait = false → s.gn.pw.off = false → s.gn.pw.inp = .on → s.gn.safe = false → s.gn.rg F.ckStat_act ≠ 3 →
    ∃ t, exec .hrefQualify s = .next t ∧ t.gn.flag F.ckStat_hrefQ = true ∧ t = { s with gn := s.gn.put F.ckStat_hrefQ true })
  ∧ (∀ (s : State) (a b : Nat), s.gn.alive = true → s.gn.flag F.ckStat_hrefQ = true → s.gn.portUp 32 = true →
    gatePass (s.gn.rg F.ckCfg_winPpm) a b = true → hrefBad b = false → s.gn.pw.upGates < 7 → s.gn.ready = false →
    exec (.refCompareGate false a b) s = .next { s with gn := { s.gn with pw := { s.gn.pw with upGates := s.gn.pw.upGates + 1 } } })
  ∧ (∀ (s : State) (a b : Nat), s.gn.alive = true → s.gn.flag F.ckStat_hrefQ = true → s.gn.portUp 32 = true →
    gatePass (s.gn.rg F.ckCfg_winPpm) a b = true → hrefBad b = false → 7 ≤ s.gn.pw.upGates → s.gn.ready = false →
    exec (.refCompareGate false a b) s
      = .next { s with gn := Gn.put { s.gn with pw := { s.gn.pw with upGates := 8 } } F.ckStat_upQ true })
  ∧ (∀ (s : State) (foster : Bool) (a b : Nat), s.gn.alive = true →
    exec (.refCompareGate foster a b) s = .next { s with gn := s.gn.compareGate foster a b })
  ∧ (∀ (s : State) (r : Nat), s.gn.powered = true → s.gn.rg F.ckStat_act ≠ 3 →
    let g := (s.gn.setRefQ (s.gn.rg F.ckStat_act) false).inc F.ckStat_losses
    g.bestRef = some r → exec .refLoss s = .next { s with gn := g.switchRef r })
  ∧ (∀ s : State, s.gn.powered = true → s.gn.rg F.ckStat_act ≠ 3 →
    let g := (s.gn.setRefQ (s.gn.rg F.ckStat_act) false).inc F.ckStat_losses
    g.bestRef = none → exec .refLoss s = .next { s with gn := g.enterSafe })

/-- R307, R311 to R313, R365, R366: the cap controller, the entries into Flush, its end, the trip, and the start of the input stage. -/
def Obligations.InputAndCapCommandsComplete : Prop :=
  (∀ (s : State) (p v i : Nat), s.gn.alive = true →
    let g := ((s.gn.wr F.pwCap_pIn p).wr F.pwCap_vin v).wr F.pwCap_iin i
    let beyond := (List.range 16).filter (fun k => decide (g.rg (F.pwIsl_ceil k) < g.rg (F.pwIsl_step k)))
    exec (.powerCapEval p v i) s
      = .next { s with gn := (forEach beyond (fun k g => g.stepDown (g.rg (F.pwIsl_step k) - g.rg (F.pwIsl_ceil k)) k) g).capRule p })
  ∧ (∀ s : State, s.gn.canFlush = true → exec .pfailDetect s = .next { s with gn := (s.gn.inc F.pwState_pfail).enterFlush }
    ∧ exec .undervoltage s = .next { s with gn := (s.gn.inc F.pwState_pfail).enterFlush }
    ∧ ∃ t, exec .overvoltage s = .next t ∧ t.gn.pw = { (s.gn.inc F.pwState_ovp).enterFlush.pw with inp := .off }
      ∧ t.gn.regs = (s.gn.inc F.pwState_ovp).enterFlush.regs ∧ t.gn.ev = (s.gn.inc F.pwState_ovp).enterFlush.ev ∧ t.pl = s.pl)
  ∧ (∀ (s : State) (a b : Bool) (d : Nat), s.gn.pw.off = false → s.gn.rg F.pwState_pstate = 3 →
    let g := s.gn.flushMarker d
    exec (.flushEnd a b d) s
      = .next { s with gn := if (a && b) = true then (if (g.safe || !g.flag F.ckStat_hrefQ) = true then { g with pw := { g.pw with coldWait := true } } else g.coldNow g.lastRst)
          else g.offNow })
  ∧ (∀ (s : State) (m : Nat), s.gn.pw.off = false →
    ∃ t, exec (.thermalTrip m) s = .next t ∧ t.pl = s.pl ∧ t.pending = s.pending ∧ t.gn.pw.off = true ∧ t.gn.pw.lockOut = true
      ∧ t.gn.pw.trip = s.gn.pw.trip ||| m % 32 ∧ t.gn.lastRst = s.gn.lastRst ∧ t.gn.ev.flash = s.gn.flushCut.turnCut.ev.flash
      ∧ (∀ f : FRef, f.key ≠ F.ckCfg_hsDelayMs.key → t.gn.rg f = regDefault f.key) ∧ t.gn.mem = [] ∧ t.gn.out = s.gn.out)
  ∧ (∀ s : State, s.gn.pw.off = true →
    ∃ t, exec .powerApply s = .next t ∧ t.pl = s.pl ∧ t.pending = s.pending ∧ t.gn.pw.off = true ∧ t.gn.pw.inp = .charging
      ∧ t.gn.pw.lockOut = false ∧ t.gn.pw.trip = s.gn.pw.trip ∧ t.gn.lastRst = 0 ∧ t.gn.ev.flash = s.gn.ev.flash
      ∧ (∀ f : FRef, f.key ≠ F.ckCfg_hsDelayMs.key → t.gn.rg f = regDefault f.key) ∧ t.gn.sc.owner = s.gn.sc.owner)
  ∧ (∀ s : State, s.gn.pw.inp = .charging →
    exec .holdupChargeDone s = .next { s with gn := { s.gn with pw := { s.gn.pw with off := false, inp := .on } } })

/-- R348: the end of each phase of bring-up; R369: the UART carries the phase reached. -/
def Obligations.BringupPhasesAdvance : Prop := ∀ (s : State) (e : PhaseEnd),
  s.gn.alive = true → s.gn.pw.inp = .on →
  (s.gn.rg F.buStat_phase = 0 → s.gn.flag F.ckStat_hrefQ = true → 
    exec (.bringupPhaseEnd e) s = .next { s with gn := s.gn.phaseShown (s.gn.wr F.buStat_phase 1) })
  ∧ (s.gn.rg F.buStat_phase = 1 → exec (.bringupPhaseEnd e) s = .next { s with gn := s.gn.phaseShown (s.gn.endIdentity e.sram) })
  ∧ (s.gn.rg F.buStat_phase = 2 → exec (.bringupPhaseEnd e) s = .next { s with gn := s.gn.phaseShown (s.gn.endImages) })
  ∧ (s.gn.rg F.buStat_phase = 3 → exec (.bringupPhaseEnd e) s = .next { s with gn := s.gn.phaseShown (s.gn.endMemory) })
  ∧ (s.gn.rg F.buStat_phase = 4 → exec (.bringupPhaseEnd e) s = .next { s with gn := s.gn.phaseShown (s.gn.wr F.buStat_phase 5) })
  ∧ (s.gn.rg F.buStat_phase = 5 → s.gn.flag F.buStat_topoOk = true →
    exec (.bringupPhaseEnd e) s = .next { s with gn := s.gn.phaseShown (s.gn.wr F.buStat_phase 6) })
  ∧ (s.gn.rg F.buStat_phase = 6 → e.refReady = true → exec (.bringupPhaseEnd e) s = .next { s with gn := s.gn.phaseShown (s.gn.endLinks e) })

/-! ### Resets -/

/-- R285 to R288: a reset ordered with its key by the physical function, with no dump in progress, in READY; R349: a PCIe fundamental reset asserted
before phase 7 is absorbed by the bring-up in progress. -/
def Obligations.ModuleResetsComplete : Prop :=
  (∀ s : State, s.gn.resettable = true → s.gn.rg F.buStat_phase = 7 → s.gn.hg.warmAfter = none →
  s.gn.rg F.hgDump_state ≠ 1 → s.gn.rg F.hgDump_state ≠ 2 →
  exec (.warmReset 0 0x5A5A) s = .next { s with gn := s.gn.phaseShown ((s.gn.preReset 1).warmNow 1) }
  ∧ exec .pcieFundamentalReset s = .next { s with gn := s.gn.phaseShown ((s.gn.preReset 1).warmNow 2) }
  ∧ exec (.coldReset 0 0x5A5A) s = .next { s with gn := s.gn.phaseShown ((s.gn.preReset 2).coldNow 6) })
  ∧ (∀ s : State, s.gn.rg F.buStat_phase < 7 → exec .pcieFundamentalReset s = .next s)

/-- R285, R328: what a module cold reset leaves: the register table's reset values, but for the half-start delay that a valid boot header gives, the cause latched, the flash contents and the trip latch
kept; the debug memory lists nothing. -/
def Obligations.ColdResetClears : Prop := ∀ s : State, s.gn.resettable = true → s.gn.rg F.buStat_phase = 7 → s.gn.hg.warmAfter = none →
  s.gn.rg F.hgDump_state ≠ 1 → s.gn.rg F.hgDump_state ≠ 2 →
  ∃ t, exec (.coldReset 0 0x5A5A) s = .next t ∧ t.pl = s.pl ∧ t.pending = s.pending ∧ t.gn.lastRst = 6
    ∧ (∀ f : FRef, f.key ≠ F.ckCfg_hsDelayMs.key → t.gn.rg f = regDefault f.key)
    ∧ t.gn.rg F.ckCfg_hsDelayMs = (match bestSlot (s.gn.preReset 2).sc.cfgSlots 0 with
      | some e => e.2.cfg.hsDelayMs % 2 ^ 10
      | none => 1000)
    ∧ t.gn.mem = [] ∧ t.gn.msix = [] ∧ t.gn.hq = HqSt.init ∧ t.gn.lk = LkSt.init
    ∧ t.gn.hl = HlSt.init ∧ t.gn.pf = PfSt.init ∧ t.gn.sits = [] ∧ t.gn.tm = TimeSt.init nsFix ∧ t.gn.sc.keys = []

/-- R286: without the key, a warm or a cold reset does nothing but write warning record 0x0D06 that names the function; a write of GN_HG_RST from a
virtual function acts on nothing and is counted as denied (R317). -/
def Obligations.ResetWritesRefused : Prop :=
  (∀ (s : State) (key : Nat), s.gn.alive = true → key ≠ 0x5A5A →
  exec (.warmReset 0 key) s = .next { s with gn := s.gn.record prodCore 0x0D06 3 0 0 0 0 0 }
  ∧ exec (.coldReset 0 key) s = .next { s with gn := s.gn.record prodCore 0x0D06 3 0 0 0 0 0 })
  ∧ (∀ (s : State) (fn key c p : Nat), s.gn.alive = true → fn ≠ 0 →
  exec (.warmReset fn key) s = .next { s with gn := s.gn.deny fn 0x1108 }
  ∧ exec (.coldReset fn key) s = .next { s with gn := s.gn.deny fn 0x1108 }
  ∧ exec (.clusterReset fn c) s = .next { s with gn := s.gn.deny fn 0x1108 }
  ∧ exec (.linkPortReset fn p) s = .next { s with gn := s.gn.deny fn 0x1108 }
  ∧ exec (.dumpRequest fn) s = .next { s with gn := s.gn.deny fn 0x1108 })

/-- R285: cluster and link port reset; R291: a dump asked for. -/
def Obligations.PartialResetsComplete : Prop := ∀ s : State, s.gn.alive = true →
  (s.gn.inReset = false → ∀ c < 16, exec (.clusterReset 0 c) s = .next { s with gn := s.gn.clusterReset c })
  ∧ (s.gn.inReset = false → ∀ p < 38, exec (.linkPortReset 0 p) s = .next { s with gn := s.gn.linkPortReset p })
  ∧ exec (.dumpRequest 0) s = .next { s with gn := s.gn.dumpStart 5 }

/-! ### Hangs -/

/-- R281 to R283, R291, R292: monitors, heartbeat, hardware watchdog and the dump sequencer. -/
def Obligations.HangCommandsComplete : Prop := ∀ s : State, s.gn.alive = true →
  (∀ n < 32, exec (.gnMonitorStall n) s = .next { s with gn := s.gn.monEval n })
  ∧ (s.gn.hg.warmAfter = none → (forEach (List.range 32) (fun n g => g.monEval n) s.gn).hg.warmAfter = none →
    exec .monitorEval s = .next { s with gn := forEach (List.range 32) (fun n g => g.monEval n) s.gn })
  ∧ (∀ n < 32, ∀ v : Word, exec (.monitorConfigWrite n v) s = .next { s with gn := s.gn.monWrite n v.toNat })
  ∧ exec .supervisorHeartbeat s = .next { s with gn := s.gn.heartbeat }
  ∧ (s.gn.flag F.buStat_mgood = true → s.gn.flag F.hgStat_rstBusy = false → s.gn.hg.wdDone = false →
    s.gn.hg.beatHt + s.gn.rg F.hgBeat_hwWdMs * 1000000 ≤ s.gn.now →
    let g := (s.gn.record prodCore 0x0D05 5 0 0 0 0 0).put F.hgBeat_hwWdFired true
    exec .hwWatchdog s = .next { s with gn := ((g.vec5 false).onHg (fun h => { h with wdDone := true })).dumpStart 4 })
  ∧ exec .controlCoreTrap s = .next { s with gn := s.gn.dumpStart 1 }
  ∧ exec .sequencerMemoryError s = .next { s with gn := s.gn.dumpStart 2 }
  ∧ (∀ slot < 2, exec (.dumpAck slot) s = .next { s with gn := s.gn.wr F.hgDump_unread (putBit (s.gn.rg F.hgDump_unread) slot false) })

/-- R291, R292: a trigger with no dump in progress starts a snapshot whose header carries the cause and the next sequence number; a trigger while one
runs is only counted; the end of the snapshot puts the dump into its slot, and the end of its write completes it. -/
def Obligations.DumpRunsToItsEnd : Prop :=
  (∀ s : State, s.gn.alive = true → s.gn.rg F.hgDump_state ≠ 1 → s.gn.rg F.hgDump_state ≠ 2 →
    ∃ t, exec .controlCoreTrap s = .next t ∧ t.pl = s.pl ∧ t.gn.rg F.hgDump_state = 1 ∧ t.gn.hg.dseq = s.gn.hg.dseq + 1
      ∧ (∃ d, t.gn.hg.cur = some d ∧ d.cause = 1 ∧ d.complete = false ∧ d.dseq = s.gn.hg.dseq + 1 ∧ d.ht = s.gn.now)
      ∧ t.gn.hg.slots = s.gn.hg.slots ∧ (∀ f : FRef, f.key ≠ F.hgDump_state.key → t.gn.rg f = s.gn.rg f) ∧ t.gn.mem = s.gn.mem)
  ∧ (∀ s : State, s.gn.alive = true → (s.gn.rg F.hgDump_state = 1 ∨ s.gn.rg F.hgDump_state = 2) →
    exec .controlCoreTrap s = .next { s with gn := s.gn.inc F.hgDump_dumpLost })
  ∧ (∀ (s : State) (d : DumpHdr), s.gn.alive = true → s.gn.hg.cur = some d → s.gn.rg F.hgDump_state = 1 →
    ((s.gn.hg.slots.getD s.gn.dumpSlot none).isSome && (s.gn.rg F.hgDump_unread).testBit s.gn.dumpSlot) = false →
    ∃ t, exec .dumpSnapshotDone s = .next t ∧ t.pl = s.pl ∧ t.gn.hg.slots = s.gn.hg.slots.set s.gn.dumpSlot (some { d with since := s.gn.now })
      ∧ t.gn.hg.cur = some { d with since := s.gn.now } ∧ t.gn.rg F.hgDump_state = 2 ∧ t.gn.mem = s.gn.mem ∧ t.gn.ev = s.gn.ev)
  ∧ (∀ (s : State) (d : DumpHdr), s.gn.alive = true → s.gn.hg.cur = some d → s.gn.rg F.hgDump_state = 2 → s.gn.hg.warmAfter = none →
    ∃ t, exec .dumpWriteDone s = .next t ∧ t.pl = s.pl
      ∧ t.gn.hg.slots = s.gn.hg.slots.set (s.gn.rg F.hgDump_newest) (some { d with complete := true })
      ∧ t.gn.hg.cur = none ∧ t.gn.rg F.hgDump_state = 3 ∧ (∀ f : FRef, f.key ≠ F.hgDump_state.key → t.gn.rg f = s.gn.rg f)
      ∧ t.gn.mem = s.gn.mem)

/-! ### In-field self-test and cores -/

/-- R289, R290: a core's test that falls due at its instant of the six hours, one that starts, one past its deadline, one that ends. That firmware takes a due
test up within 1 µs of its instant is the model's choice (assumption log 8). -/
def Obligations.SelfTestCommandsComplete : Prop :=
  (∀ (s : State) (k n : Nat), s.gn.alive = true → k < 256 → s.gn.hg.deferred.any (fun d => d.1 == k) = false → s.gn.hg.waiting.contains k = false →
    s.gn.hg.testing.contains k = false → s.gn.flag (F.pwIsl_gated (k / 16)) = false →
    let due := n * 21600000000000 + k * 84375000000
    due ≤ s.gn.now → s.gn.now < due + 1000 →
    let later := s.gn.onHg (fun h => { h with deferred := h.deferred ++ [(k, due)] })
    exec (.selfTestDue k) s = .next { s with gn := if s.gn.testFree k = true then s.gn.fieldTest k else later })
  ∧ (∀ (s : State) (k : Nat), s.gn.alive = true → k < 256 → s.gn.hg.deferred.any (fun d => d.1 == k) = true → s.gn.testFree k = true →
    s.gn.flag (F.pwIsl_gated (k / 16)) = false →
    exec (.selfTestStart k) s
      = .next { s with gn := (s.gn.onHg (fun h => { h with deferred := h.deferred.filter (fun d => d.1 != k) })).fieldTest k })
  ∧ (∀ (s : State) (k since : Nat), s.gn.alive = true → k < 256 → (k, since) ∈ s.gn.hg.deferred → since + 1800000000000 ≤ s.gn.now →
    s.gn.flag (F.pwIsl_gated (k / 16)) = false →
    let g := s.gn.onHg (fun h => { h with deferred := h.deferred.filter (fun d => d.1 != k), waiting := h.waiting ++ [k] })
    exec (.selfTestDeadline k) s = .next { s with gn := g.testNext (k / 16) })
  ∧ (∀ (s : State) (k stage : Nat) (pass : Bool), s.gn.alive = true → k < 256 → s.gn.hg.testing.contains k = true →
    (s.gn.rg (F.clPlan_wdMask (k / 16))).testBit (k % 16) = true →
    let g := (s.gn.onHg (fun h => { h with testing := h.testing.filter (fun x => x != k) })).put (F.clSt_curV (k / 16)) false
    let g' := (g.testResult k pass stage).retested k
    let mark := fun q : Nat × Nat × List Nat => if q.1 = k / 16 then (q.1, q.2.1, q.2.2 ++ [k % 16]) else q
    exec (.selfTestDone k pass stage) s = .next { s with gn := (g'.onPf (fun q => { q with quar := q.quar.map mark })).testNext (k / 16) })

/-- R75, R290, R340: CORE. -/
def Obligations.CoreCommandsComplete : Prop := ∀ (s : State) (h : DescHdr) (c mask : Nat), s.gn.admits 0x11 ruleS h = true → c < 16 → mask < 65536 →
  let g := s.gn.begun 0x11 h
  (let k := g.wr (F.clPlan_pendMask c) (g.rg (F.clPlan_pendMask c) ||| (mask &&& (g.rg (F.clPlan_wdMask c) ^^^ 0xFFFF)))
   exec (.coreWithdraw h c mask) s
     = .next { s with gn := (k.onSq (fun q => { q with coreWait := q.coreWait ++ [(h, c, mask, true)] })).coreSettle })
  ∧ (mask &&& g.rg (F.clSt_failMask c) = 0 → g.hg.testing.any (fun k => k / 16 == c && mask.testBit (k % 16)) = false →
    let k := g.wr (F.clPlan_wdMask c) (g.rg (F.clPlan_wdMask c) &&& (mask ^^^ 0xFFFF))
    exec (.coreReturn h c mask) s
      = .next { s with gn := (k.wr (F.clPlan_pendMask c) (k.rg (F.clPlan_pendMask c) &&& (mask ^^^ 0xFFFF))).complete 0x11 h stOk [] })
  ∧ (mask ≠ 0 → exec (.coreRetest h c mask) s
      = .next { s with gn := Gn.testNext { g with hq := { g.hq with retests := g.hq.retests ++ [(h, c, mask)] } } c })

/-! ### Links -/

/-- R184, R185, R190, R193: a port's way from DOWN to TIME, with the module's own credits advertised to the peer, and back when a state's limit passes:
what the failed attempt queued is dropped, and a lane that failed in training is excluded. -/
def Obligations.LinkTrainingAdvances : Prop := ∀ (s : State) (p : Nat), s.gn.alive = true → p < 32 →
  (s.gn.portUse p ≠ 0 → s.gn.rg (F.lkStat_state p) = 0 →
    let g := (s.gn.wr (F.lkStat_state p) 1).wr (F.lkStat_width p) (widthOf (s.gn.lanes p) (s.gn.rg (F.lkStat_laneBad p)))
    exec (.linkTrainStart p) s = .next { s with gn := (g.inc (F.lkStat_restarts p)).wr (F.tmPort_state p) 1 })
  ∧ (s.gn.rg (F.lkStat_state p) = 1 → s.gn.flag F.rdCfg_tc2 = false →
    let g : Gn := { s.gn.wr (F.lkStat_state p) 2 with lk := { s.gn.lk with collectors := s.gn.lk.collectors.filter (fun q => q != p) } }
    exec (.linkTrainDone ⟨p, .full⟩) s = .next { s with gn := g }
    ∧ exec (.linkTrainDone ⟨p, .single⟩) s = .next { s with gn := g.wr (F.lkStat_width p) 1 }
    ∧ exec (.linkTrainDone ⟨p, .collector⟩) s = exec (.linkTrainDone ⟨p, .single⟩) s)
  ∧ (s.gn.rg (F.lkStat_state p) = 1 → s.gn.flag F.rdCfg_tc2 = true →
    let cs := s.gn.lk.collectors.filter (fun q => q != p) ++ [p]
    let g : Gn := { s.gn.wr (F.lkStat_state p) 2 with lk := { s.gn.lk with collectors := cs } }
    exec (.linkTrainDone ⟨p, .collector⟩) s = .next { s with gn := g.wr (F.lkStat_width p) 1 })
  ∧ (s.gn.rg (F.lkStat_state p) = 2 → exec (.linkAlignDone p) s = .next { s with gn := s.gn.wr (F.lkStat_state p) 3 })
  ∧ (∀ cred : List Nat, s.gn.rg (F.lkStat_state p) = 3 → s.gn.childPort p = false →
    let g := (s.gn.putFrame p (s.gn.newFrame (.port p) 0x01 (linkCtlBody (s.gn.port p).room []))).1
    let c := addCred [0, 0, 0, 0] cred
    exec (.linkCreditDone p cred) s = .next { s with gn := (g.setPort p { g.port p with cred := c, whole := c, owed := [0, 0, 0, 0] }).wr (F.lkStat_state p) 4 })
  ∧ (∀ lane : Option Nat,
    let g := ((s.gn.wr (F.lkStat_state p) 0).wr (F.lkStat_width p) 0).wr (F.tmPort_state p) 0
    let down := Gn.clearPort { g with tm := s.gn.tm.drop p } p
    (s.gn.rg (F.lkStat_state p) = 1 ∨ s.gn.rg (F.lkStat_state p) = 2 →
      exec (.linkStateTimeout p lane) s = .next { s with gn := down.failLane p lane })
    ∧ (s.gn.rg (F.lkStat_state p) = 3 ∨ s.gn.rg (F.lkStat_state p) = 4 → exec (.linkStateTimeout p lane) s = .next { s with gn := down }))
  ∧ (∀ lane : Option Nat, s.gn.rg (F.lkStat_state p) = 0 ∨ s.gn.rg (F.lkStat_state p) = 5 → exec (.linkStateTimeout p lane) s = .next s)

/-- R184, R185, R163, R228: the loss of a port in service, whichever it is, writes error record 0x0904, takes the port DOWN with all that hangs on it
and excludes the lane that failed; a port not in service has nothing to lose. R162, R184: the end of a link start brings a port UP whose time the module
does not follow, whatever the topology, and its die sites begin to start; one whose time it follows comes UP with the offset of its exchanges. R110, R135,
R156: a mapped site of a port in service is served again once its block has its registers, its seeds and a request for its identity. -/
def Obligations.LinkLossAndStartComplete : Prop :=
  (∀ (s : State) (p : Nat) (lane : Option Nat), s.gn.alive = true →
    (s.gn.rg (F.lkStat_state p) = 5 →
      exec (.linkLoss (.port p) lane) s = .next { s with gn := ((s.gn.record prodLinks 0x0904 4 p 0 0 0 0).portDown p).failLane p lane })
    ∧ (s.gn.rg (F.lkStat_state p) ≠ 5 → exec (.linkLoss (.port p) lane) s = .next s))
  ∧ (∀ (s : State) (lane : Option Nat), exec (.linkLoss .block lane) s = .next { s with pl := s.pl.showPins s.pl.linkLoss })
  ∧ (∀ (s : State) (p : Nat), s.gn.alive = true → p < 32 → s.gn.rg (F.lkStat_state p) = 4 →
    s.gn.childPort p = false →
    let g := ((s.gn.takeLinkStart (.port p)).1.wr (F.lkStat_state p) 5).wr (F.tmPort_state p) 2
    let starting := g.sites.filter (fun x => g.portUse p == 1 && g.sitePort x == p && g.rg (F.tmSite_state x) == 0)
    exec (.linkStartDone (.port p)) s = .next { s with gn := (forEach starting (fun x (g : Gn) => g.wr (F.tmSite_state x) 1) g).advertise })
  ∧ (∀ (s : State) (p : Nat) (th : Int), s.gn.alive = true → p < 34 → s.gn.rg (F.lkStat_state p) = 4 →
    (s.gn.takeLinkStart (.port p)).2 = some th →
    let g := ((s.gn.takeLinkStart (.port p)).1.wr (F.lkStat_state p) 5).wr (F.tmPort_state p) 2
    let a := g.setTime (thFix th)
    let k := if (s.gn.childPort p && !g.timeValid && (p == 32 || g.timePort == some p || g.timePort.isNone)) = true then
        (if p = 33 then a.useSource 2 else if p = 32 then a.useSource 1 else a) else g
    let m := if p = 32 ∧ k.rg F.tmStat_src ≠ 0 ∧ k.timeValid = true then k.useSource 1 else k
    let starting := m.sites.filter (fun x => m.portUse p == 1 && m.sitePort x == p && m.rg (F.tmSite_state x) == 0)
    let n := forEach starting (fun x (g : Gn) => g.wr (F.tmSite_state x) 1) m
    exec (.linkStartDone (.port p)) s
      = .next { s with gn := (if p = 32 ∨ (p = 33 ∧ n.rg F.rdStat_path = 2) then n.movePath.flushHold else n).advertise })
  ∧ (∀ (s : State) (x : Nat), s.gn.alive = true → s.gn.siteMapped x = true → s.gn.portUp (s.gn.sitePort x) = true →
    let g := ((s.gn.loseLive x).sitLinkLost (.site x)).takeLinkStart (.site x)
    let g := (((g.1.wr (F.tmSite_state x) 2).proofSiteReset x).pulseReset x).rewriteBlock x
    exec (.linkStartDone (.site x)) s = .next { s with gn := (g.seedsTo x).sendSite x 0x06 (readBody 0 2 tagIdent) })

/-- R186, R193, R195, R196: the first flit of a frame whose tag is right begins its reception; admission decides whether it is kept or its credits are
owed back. A flit whose tag fails its check value, that FEC could not correct, or that does not hold the beads its tag names ends the frame
being received, if that is not ended already, with one count and one record; a whole frame that waits is received first. -/
def Obligations.FlitReceptionRules : Prop :=
  (∀ (s : State) (p : Nat) (tag : Word) (b : List Byte), s.gn.alive = true → s.gn.portRx p = true → (s.gn.port p).rx = none →
  p < 34 → s.gn.rg F.pwState_pstate ≠ 2 → crc8 (leBytes 7 tag.toNat) = bits tag.toNat 56 8 → bit tag.toNat 52 = true →
  b.length = 64 * (bits tag.toNat 48 4 + 1) →
  let cls := bits tag.toNat 54 2
  let beads := bits (u64 b 8) 0 6 + 1
  let g0 := (s.gn.addWrap (F.lkErr_fecCe p) 0).addSat (F.lkErr_fecUe p) 0
  let r := g0.police p (bits (u64 b 8) 24 8) cls beads
  let g := if r.2 = true then r.1 else r.1.oweCredit p cls beads
  exec (.flitReceive p tag b 0 0) s
    = .next { s with gn := g.setPort p { g.port p with rx := some { stamp := bits tag.toNat 0 48, ht := g.now, ok := r.2, beads := beads, cls := cls,
                                                                    b := b, last := bit tag.toNat 53 } } })
  ∧ (∀ (s : State) (p : Nat) (tag : Word) (b : List Byte) (ce ue : Nat), s.gn.alive = true → s.gn.portRx p = true →
    (0 < ue ∨ crc8 (leBytes 7 tag.toNat) ≠ bits tag.toNat 56 8 ∨ b.length ≠ 64 * (bits tag.toNat 48 4 + 1)) →
    let g := (s.gn.addWrap (F.lkErr_fecCe p) ce).addSat (F.lkErr_fecUe p) ue
    ((s.gn.port p).rx = none → exec (.flitReceive p tag b ce ue) s = .next { s with gn := (g.badFrame p).skipRest p })
    ∧ (∀ r, (s.gn.port p).rx = some r → r.last = false → r.ok = true → exec (.flitReceive p tag b ce ue) s = .next { s with gn := (g.badFrame p).skipRest p })
    ∧ (∀ r, (s.gn.port p).rx = some r → r.last = false → r.ok = false → exec (.flitReceive p tag b ce ue) s = .next { s with gn := g })
    ∧ (∀ r, (s.gn.port p).rx = some r → r.last = true → exec (.flitReceive p tag b ce ue) s = .next { s with gn := (g.frameReceive p).badFlit p }))
  ∧ (∀ (s : State) (p : Nat) (tag : Word) (b : List Byte) (r : Rx), s.gn.alive = true → s.gn.portRx p = true → (s.gn.port p).rx = some r →
    crc8 (leBytes 7 tag.toNat) = bits tag.toNat 56 8 → bit tag.toNat 52 = false → b.length = 64 * (bits tag.toNat 48 4 + 1) →
    r.stamp = bits tag.toNat 0 48 → r.last = false → r.ok = true → (r.b ++ b).length ≤ 4096 →
    let g := (s.gn.addWrap (F.lkErr_fecCe p) 0).addSat (F.lkErr_fecUe p) 0
    exec (.flitReceive p tag b 0 0) s
      = .next { s with gn := g.setPort p { g.port p with rx := some { r with b := r.b ++ b, last := bit tag.toNat 53 } } })

/-- R197: a mapped site's frame of classes 1 to 3 is admitted exactly when its bucket holds 16 tokens for each of its beads; the bucket pays for an
admitted frame only. -/
def Obligations.PolicingAdmitsByTokens : Prop := ∀ (s : State) (p : Nat) (tag : Word) (b : List Byte), s.gn.alive = true →
  let src := bits (u64 b 8) 24 8
  let beads := bits (u64 b 8) 0 6 + 1
  s.gn.portRx p = true → p < 8 → src < 112 → s.gn.isTray = true → s.gn.siteMapped src = true → s.gn.lk.mismatch.contains src = false →
  (s.gn.port p).rx = none → s.gn.rg F.pwState_pstate ≠ 2 → crc8 (leBytes 7 tag.toNat) = bits tag.toNat 56 8 → bit tag.toNat 52 = true →
  b.length = 64 * (bits tag.toNat 48 4 + 1) → bits tag.toNat 54 2 ≠ 0 → s.gn.rg (F.lkPol_rate src) ≠ 0 →
  let tok := bucketNow (SMap.get (fun _ => none) s.gn.lk.buckets (src * 2)) s.gn.now (s.gn.rg (F.lkPol_rate src)) (s.gn.rg (F.lkPol_burst src))
  let ok := decide (beads * 16 ≤ tok)
  ∃ t, exec (.flitReceive p tag b 0 0) s = .next t ∧ t.pl = s.pl ∧ t.pending = s.pending
    ∧ (t.gn.port p).rx = some { stamp := bits tag.toNat 0 48, ht := s.gn.now, ok := ok, beads := beads, cls := bits tag.toNat 54 2, b := b,
                                last := bit tag.toNat 53 }
    ∧ SMap.get (fun _ => none) t.gn.lk.buckets (src * 2)
      = some { tok := if ok = true then tok - beads * 16 else tok, last := s.gn.now }
    ∧ t.gn.mem = s.gn.mem

/-- R187, R189, R195: a whole frame of classes 1 to 3 that fits its header and its port, with nothing of its source in reassembly, hands its body on under
the hall time that its stamp extends to and owes its credits. -/
def Obligations.SingleFrameItemHandedOn : Prop := ∀ (s : State) (p : Nat) (r : Rx) (b : List Byte),
  let f := parseFrame r.b
  s.gn.alive = true → s.gn.portRx p = true → p < 34 → (s.gn.port p).rx = some r → r.ok = true → r.last = true → frameOk r.b f = true →
  headerFits r f = true → f.cls ≠ 0 → f.typ ≠ 0x40 → (proofKind f.typ && (s.gn.portUse p == 2 || s.gn.portUse p == 3 || s.gn.portUse p == useTc2)) = false →
  s.gn.typeOn p f.typ = true → clsOk (decide (f.src < 112)) f.typ f.cls = true → s.gn.srcOn p f.src f.typ = true → f.z = false → f.more = false →
  f.seg = 0 → (s.gn.port p).expSeq.find? (fun e => e.1 == f.src && e.2.1 == f.cls) = none →
  (s.gn.port p).asm.find? (fun a => a.src == f.src && a.cls == f.cls) = none →
  ∃ t, exec (.frameReceive (.port p) b) s = .next t ∧ t.pl = s.pl ∧ t.pending = s.pending
    ∧ t.gn.out = s.gn.out ++ [.item p f.src f.typ (extStamp s.gn.now f.stamp) f.body]
    ∧ (t.gn.port p).owed = bump (s.gn.port p).owed f.cls (f.nbead + 1) ∧ (t.gn.port p).rx = none
    ∧ t.gn.regs = s.gn.regs ∧ t.gn.mem = s.gn.mem ∧ t.gn.hq = s.gn.hq

/-- R190, R191, R195, R203, R204: an item is decompressed and handed on, or rejected with its record; link-control frames, the return of credits,
class-0 resending. -/
def Obligations.LinkServiceCommandsComplete : Prop :=
  (∀ (s : State) (p src : Nat) (a : Asm), (s.gn.port p).heldZ = [a] → a.src = src →
    let z := zRead a.b
    let g := ((s.gn.setPort p { s.gn.port p with heldZ := [] }).oweCredit p a.cls a.beads).addSat F.lkZ_zSkip z.skips
    (∀ b, z.out = some b → exec (.decompressDone p src a.cls) s = .next { s with gn := g.emitOut (.item p src a.typ a.ht b) })
    ∧ (z.out = none →
      let g1 := match g.polSource p src with | some x => g.inc (F.lkSrc_zBad x) | none => g
      exec (.decompressDone p src a.cls) s
        = .next { s with gn := ((g1.inc F.lkZ_zRej).recordSrc 0x0902 3 ((g1.polSource p src).getD (256 + p))).classLost src a.cls }))
  ∧ (∀ (s : State) (p : Nat) (cred : List Nat) (acks : List (Nat × Nat)), s.gn.alive = true → p < 34 → s.gn.portRx p = true →
    let x := s.gn.port p
    let y := { x with cred := addCred x.cred cred, unack := x.unack.filter (fun u => !acks.contains (u.src, u.seq)) }
    let g := (s.gn.setPort p y).retireCheck
    exec (.linkControlFrame p cred acks) s = .next { s with gn := if p = 32 ∨ p = 33 then g.noteAsks (p - 32) else g })
  ∧ (∀ (s : State) (p : Nat), s.gn.alive = true → p < 34 → s.gn.portRx p = true →
    ((s.gn.port p).owed.all (· == 0) && (s.gn.port p).acks.isEmpty) = false →
    let x := s.gn.port p
    let f := s.gn.newFrame (.port p) 0x01 (linkCtlBody (x.owed.map (min 0xFFFF)) x.acks)
    let g := s.gn.setPort p { x with owed := x.owed.map (fun n => n - min 0xFFFF n), acks := x.acks.drop 8 }
    (x.hasCredit f = true → exec (.creditReturnTimer p) s = .next { s with gn := (g.putFrame p f).1 })
    ∧ (x.hasCredit f = false → exec (.creditReturnTimer p) s = .next s))
  ∧ (∀ (s : State) (p src seq : Nat) (u : Unack), s.gn.alive = true →
    (s.gn.port p).unack.find? (fun v => v.src == src && v.seq == seq) = some u →
    let x := s.gn.port p
    let y := { x with unack := updateFirst (fun v => v.src == src && v.seq == seq) (fun v => { v with sent := 2 }) x.unack,
                      cred := x.cred.zipIdx.map (fun e => if e.2 = 0 then e.1 - u.f.beads else e.1) }
    (u.sent = 1 → x.hasCredit u.f = true →
      exec (.class0ResendTimeout p src seq) s
        = .next { s with gn := ((s.gn.setPort p y).inc (F.lkStat_r0Resend p)).emitOut (.frame u.f.dst u.f.flits) })
    ∧ (u.sent ≠ 1 → exec (.class0ResendTimeout p src seq) s = exec (.linkLoss (.port p) none) s))

/-- R187, R190, R191, R200: the one frame that waits on a child or block port leaves, its sequence number the next of its class, when its class has the
credits; class 0 waits for its acknowledgment. The block's message port makes its next grant (R152). -/
def Obligations.FrameSendStartsHead : Prop :=
  (∀ (s : State) (p : Nat) (f : Frame), s.gn.alive = true → s.gn.portRx p = true → p < 32 →
    (s.gn.port p).sendQ = [f] → f.cls < 4 → f.beads ≤ (s.gn.port p).whole.getD f.cls 0 → (s.gn.port p).canStart f = true →
    let sent := stampTime s.gn.tm.fix { f with seq := (s.gn.port p).txSeq.getD f.cls 0 }
    ∃ t, exec (.frameSend (.port p)) s = .next t ∧ t.pl = s.pl ∧ t.pending = s.pending ∧ t.gn.out = s.gn.out ++ [.frame sent.dst sent.flits]
      ∧ (t.gn.port p).sendQ = [] ∧ (t.gn.port p).cred = (s.gn.port p).cred.zipIdx.map (fun e => if e.2 = f.cls then e.1 - sent.beads else e.1)
      ∧ (t.gn.port p).txSeq = (s.gn.port p).txSeq.zipIdx.map (fun e => if e.2 = f.cls then (e.1 + 1) % 2 ^ 16 else e.1)
      ∧ (f.cls = 0 → (t.gn.port p).unack = (s.gn.port p).unack ++ [{ src := f.src, seq := sent.seq, sent := 1, f := sent }])
      ∧ (∀ q, q ≠ p → t.gn.port q = s.gn.port q) ∧ t.gn.regs = s.gn.regs ∧ t.gn.mem = s.gn.mem)
  ∧ (∀ s : State, exec (.frameSend .block) s = .next { s with pl := s.pl.showPins s.pl.grant })
  ∧ (∀ (s : State) (tags : List Word) (raw : List Byte),
    exec (.frameReceive (.block tags) raw) s = .next { s with pl := s.pl.showPins (s.pl.frameReceive tags raw) })

/-- R184, R199, R202, R16, R182, R193: gates, keep-alive, the arbiters' freeze, the warnings of the links. -/
def Obligations.LinkTimersComplete : Prop :=
  (∀ (s : State) (u : Nat), (s.gn.pendingGate u).ents ≠ [] → (s.gn.pendingGate u).ents.length ≤ 256 → 1000 ≤ gateCycle (s.gn.pendingGate u).ents →
    gateCycle (s.gn.pendingGate u).ents ≤ 1000000000 → (s.gn.pendingGate u).phase < gateCycle (s.gn.pendingGate u).ents →
    let lk := { s.gn.lk with gates := SMap.set gateDefault s.gn.lk.gates (2 + u) (s.gn.pendingGate u) }
    exec (.gateCommit u) s = .next { s with gn := Gn.put { s.gn with lk := lk } (F.lkGctl_pend u) true })
  ∧ (∀ (s : State) (u : Nat), ((s.gn.pendingGate u).ents = [] ∨ 256 < (s.gn.pendingGate u).ents.length ∨ gateCycle (s.gn.pendingGate u).ents < 1000
      ∨ 1000000000 < gateCycle (s.gn.pendingGate u).ents ∨ gateCycle (s.gn.pendingGate u).ents ≤ (s.gn.pendingGate u).phase) →
    exec (.gateCommit u) s = .next { s with gn := s.gn.put (F.lkGctl_gateErr u) true })
  ∧ (∀ (s : State) (u : Nat), s.gn.flag (F.lkGctl_pend u) = true →
    let x := SMap.get gateDefault s.gn.lk.gates (2 + u)
    let lk := { s.gn.lk with gates := SMap.set gateDefault (SMap.set gateDefault s.gn.lk.gates u x) (2 + u) (gateDefault 0) }
    exec (.gateCycleStart u) s = .next { s with gn := (Gn.put { s.gn with lk := lk } (F.lkGctl_pend u) false).dropAllHeads u |>.noteAsks u })
  ∧ (∀ (s : State) (p : Nat), s.gn.alive = true → p < 34 → (s.gn.port p).sendQ.any (fun f => f.typ == 0) = false → s.gn.portRx p = true →
    let f := s.gn.newFrame (.port p) 0x00 []
    exec (.keepaliveTimer (.port p)) s = .next { s with gn := s.gn.setPort p { s.gn.port p with sendQ := (s.gn.port p).sendQ ++ [f] } })
  ∧ (∀ s : State, exec (.keepaliveTimer .block) s = .next { s with pl := s.pl.showPins s.pl.keepaliveTimer })
  ∧ (∀ (s : State) (a : Nat), exec (.arbFreeze a) s = .next { s with gn := s.gn.put (F.arb_frz a) true })
  ∧ (∀ s : State, s.gn.lk.tapDrops ≠ 0 →
    exec .tapOvfWarning s
      = .next { s with gn := Gn.record { s.gn with lk := { s.gn.lk with tapDrops := 0 } } prodLinks 0x0907 3 0 s.gn.lk.tapDrops 0 0 0 })
  ∧ (∀ (s : State) (p : Nat), s.gn.rg (F.lkStat_state p) = 1 →
    exec (.linkTrainFailWarning p) s = .next { s with gn := s.gn.record prodLinks 0x0905 3 p 0 0 0 0 })
  ∧ (∀ (s : State) (p : Nat), SMap.get (fun _ => 0) s.gn.lk.unmapped p ≠ 0 →
    let lk := { s.gn.lk with unmapped := SMap.set (fun _ => 0) s.gn.lk.unmapped p 0 }
    let n := SMap.get (fun _ => 0) s.gn.lk.unmapped p
    exec (.unmappedSourceWarning p) s
      = .next { s with gn := Gn.record { s.gn with lk := lk } prodLinks (Config.recCode 18).toNat 3 p n 0 0 0 })

/-- R201: an arbiter that is not frozen, with no starvation due and no dump snapshot, grants the first requester at or after its pointer in cyclic
order; the pointer moves past it, and it waits no longer. The two arbiters with queues of the module's own behind them (128, host DMA; 131, the event ring)
grant by the same arbitration, over what waits there as well. -/
def Obligations.ArbiterGrantsInCyclicOrder : Prop := (∀ (s : State) (a i : Nat) (reqs : List Nat), a ≠ 128 → a ≠ 131 → s.gn.flag (F.arb_frz a) = false →
  s.gn.rg F.hgDump_state ≠ 1 → (SMap.get arbDefault s.gn.lk.arbs a).reqs = [] →
  (SMap.get arbDefault s.gn.lk.arbs a).since + 1 < s.gn.rg (F.arb_n a) → i < arbCount a → i ∈ reqs →
  (∀ j ∈ reqs, j < arbCount a → (i + arbCount a - s.gn.rg (F.arb_ptr a) % arbCount a) % arbCount a
    ≤ (j + arbCount a - s.gn.rg (F.arb_ptr a) % arbCount a) % arbCount a) →
  ∃ t, exec (.arbiterGrant a reqs) s = .next t ∧ t.pl = s.pl ∧ t.gn.rg (F.arb_ptr a) = (i + 1) % arbCount a % 2 ^ (F.arb_ptr a).len
    ∧ (∀ j ∈ (SMap.get arbDefault t.gn.lk.arbs a).reqs, j.1 ≠ i) ∧ (SMap.get arbDefault t.gn.lk.arbs a).since
      = (SMap.get arbDefault s.gn.lk.arbs a).since + 1 ∧ t.gn.mem = s.gn.mem)
  ∧ (∀ (s : State) (reqs : List Nat), exec (.arbiterGrant 131 reqs) s = .next { s with gn := (s.gn.recordGrant reqs).1 }
    ∧ exec (.arbiterGrant 128 reqs) s = .next { s with gn := s.gn.dmaGrant reqs })

/-! ### Hall time and the islands -/

/-- R158, R160 to R163: TIME_SET, a cycle of either time unit, a refresh, and the frames of an exchange: a reply to the request that waits for it fills in
when the request left and when the reply came, and asks again while more exchanges are needed; a request is answered once time is valid. -/
def Obligations.TimeCommandsComplete : Prop :=
  (∀ (s : State) (h : DescHdr) (ht : Nat) (t : Topology), s.gn.admits 0x02 ⟨false, true, true, false⟩ h = true →
    (s.gn.begun 0x02 h).rd.topo = some t → t.top = true → (s.gn.begun 0x02 h).timeValid = false →
    let g := s.gn.begun 0x02 h
    let g1 := ((g.setTime ((ht * nsFix : Nat) - g.tm.fix : Int)).wr F.tmStat_src 0).setTq
    exec (.timeSet h ht) s = .next { s with gn := g1.complete 0x02 h stOk [] })
  ∧ (∀ s : State, s.gn.alive = true →
    (s.gn.sc.maint = none → exec (.timeUnitIncrement .ginath) s = .next { s with gn := Gn.setTq { s.gn with tm := s.gn.tm.tick } })
    ∧ exec (.timeRefresh .ginath) s = .next { s with gn := s.gn.timeRefresh })
  ∧ (∀ s : State, exec (.timeUnitIncrement .block) s = .next { s with pl := s.pl.showPins s.pl.tick }
    ∧ exec (.timeRefresh .block) s = .next { s with pl := s.pl.showPins s.pl.timeRefresh })
  ∧ (∀ (s : State) (p xid : Nat) (x : Xchg) (r : Nat × Nat × Nat), s.gn.alive = true → (32 ≤ p ∨ s.gn.childPort p = true) →
    s.gn.tm.reqs.find? (fun e => e.1 == p && e.2.1 == xid) = some r →
    let t := { s.gn.tm with reqs := s.gn.tm.reqs.filter (fun e => e.1 != p) }
    let t1 := t.addExch (mkExch p (s.gn.asymOf (.port p)) { x with t1 := r.2.2, t4 := s.gn.tm.frac })
    let need := if s.gn.rg (F.tmPort_state p) = 2 then 8 else 32
    let g : Gn := { s.gn with tm := t1 }
    exec (.timeReplyFrame .ginath (.port p) ⟨xid, x⟩) s
      = .next { s with gn := if (t1.xs.filter (fun e => e.link == p)).length < need then g.timeAsk p else g })
  ∧ (∀ (s : State) (p xid : Nat) (x : Xchg), s.gn.alive = true → (32 ≤ p ∨ s.gn.childPort p = true) → s.gn.tm.reqs.find? (fun e => e.1 == p && e.2.1 == xid) = none →
    exec (.timeReplyFrame .ginath (.port p) ⟨xid, x⟩) s = .next s)
  ∧ (∀ (s : State) (p xid : Nat) (x : Xchg), s.gn.alive = true → p < 32 → s.gn.childPort p = false →
    exec (.timeReplyFrame .ginath (.port p) ⟨xid, x⟩) s = .next { s with gn := { s.gn with tm := s.gn.tm.addExch (mkExch p (s.gn.asymOf (.port p)) x) } })
  ∧ (∀ (s : State) (l : LinkRef) (xid : Nat) (x : Xchg), exec (.timeReplyFrame .block l ⟨xid, x⟩) s = .next { s with pl := s.pl.showPins (s.pl.timeReply (s.gn.asymOf (.site s.pl.par.site)) xid x) })
  ∧ (∀ (s : State) (p xid t1 frac : Nat), s.gn.alive = true → s.gn.timeValid = true → s.gn.portRx p = true →
    let x := s.gn.port p
    let b := leBytes 8 (s.gn.tm.fix / nsFix) ++ leBytes 2 (s.gn.tm.fix % nsFix / 2 ^ 16) ++ leBytes 2 xid ++ leBytes 10 0
    exec (.timeRequestFrame (.port p) xid t1 frac) s
      = .next { s with gn := s.gn.setPort p { x with sendQ := x.sendQ ++ [s.gn.newFrame (.port p) 0x03 b] } })
  ∧ (∀ (s : State) (x xid t1 frac : Nat), s.gn.alive = true → s.gn.timeValid = true → s.gn.siteMapped x = true → s.gn.portRx (s.gn.sitePort x) = true →
    let q := s.gn.port (s.gn.sitePort x)
    let b := leBytes 8 (s.gn.tm.fix / nsFix) ++ leBytes 2 (s.gn.tm.fix % nsFix / 2 ^ 16) ++ leBytes 2 xid ++ leBytes 10 0
    exec (.timeRequestFrame (.site x) xid t1 frac) s
      = .next { s with gn := s.gn.setPort (s.gn.sitePort x) { q with sendQ := q.sendQ ++ [s.gn.newFrame (.site x) 0x03 b] } })
  ∧ (∀ (s : State) (l : LinkRef) (xid t1 frac : Nat), s.gn.timeValid = false → exec (.timeRequestFrame l xid t1 frac) s = .next s)

/-- R160: TIME_SET at a hall root whose time is not valid sets hall time to the value of the descriptor, when that lies ahead of the count, and makes
time valid; the debug memory and the block are left alone. -/
def Obligations.TimeSetSetsHallTime : Prop := ∀ (s : State) (h : DescHdr) (ht : Nat) (t : Topology),
  s.gn.admits 0x02 ⟨false, true, true, false⟩ h = true → (s.gn.begun 0x02 h).rd.topo = some t → t.top = true →
  (s.gn.begun 0x02 h).timeValid = false → ht < 2 ^ 64 → (s.gn.begun 0x02 h).tm.fix ≤ ht * nsFix →
  ∃ t, exec (.timeSet h ht) s = .next t ∧ t.gn.now = ht ∧ t.gn.tm.hold = none ∧ t.gn.mem = s.gn.mem ∧ t.pl = s.pl
    ∧ t.pending = s.pending

/-- R158, R161: one cycle never takes the count back; while no backward step is held it rises by the increment, changed by at most one part in 10,000
of it, and what the change does not take of the offset is left to slew. -/
def Obligations.CycleRisesWithinSlewLimit : Prop := ∀ t : TimeSt,
  t.fix ≤ t.tick.fix
  ∧ (t.hold = none → t.fix + t.inc ≤ t.tick.fix + t.inc / 10000 ∧ t.tick.fix ≤ t.fix + t.inc + t.inc / 10000
    ∧ (t.tick.fix : Int) + t.tick.slew = t.fix + t.inc + t.slew)
  ∧ (∀ x, t.hold = some x → x + t.inc ≤ t.fix → t.tick.fix = t.fix ∧ t.tick.hold = some (x + t.inc))
  ∧ (∀ x, t.hold = some x → t.fix < x + t.inc → t.tick.fix = x + t.inc ∧ t.tick.hold = none)

/-- R59, R168: a stretched cycle; the stop of an island, which marks what its crossings hold with the last edge; and its resume with the gap in its register
and its record of severity notice. -/
def Obligations.IslandCommandsComplete : Prop :=
  (∀ (s : State) (i c : Nat), 5000000 < c * s.gn.islMhz i * 4 → (s.gn.isl i).stretched = false →
    ∃ t, exec (.islandStretch i c) s = .next t ∧ t.pl = s.pl ∧ t.gn.isl i = { s.gn.isl i with stretched := true, good := 0, longest := max (s.gn.isl i).longest c }
      ∧ (∀ j, j ≠ i → t.gn.isl j = s.gn.isl j) ∧ (∀ f : FRef, f.key ≠ (F.isl_stretch i).key → t.gn.rg f = s.gn.rg f) ∧ t.gn.mem = s.gn.mem)
  ∧ (∀ (s : State) (i c : Nat), c * s.gn.islMhz i * 4 ≤ 5000000 → (s.gn.isl i).stretched = true → (s.gn.isl i).good < 63 →
    exec (.islandStretch i c) s = .next { s with gn := s.gn.setIsl i { s.gn.isl i with good := (s.gn.isl i).good + 1 } })
  ∧ (∀ (s : State) (i c : Nat), c * s.gn.islMhz i * 4 ≤ 5000000 → (s.gn.isl i).stretched = true → 63 ≤ (s.gn.isl i).good →
    exec (.islandStretch i c) s = .next { s with gn := s.gn.setIsl i { s.gn.isl i with stretched := false, good := 64, longest := 0 } })
  ∧ (∀ (s : State) (i : Nat), (s.gn.isl i).stoppedAt = none →
    ∃ t, exec (.islandStop i) s = .next t ∧ t.pl = s.pl ∧ t.gn.isl i = { s.gn.isl i with stoppedAt := some (s.gn.now - 64) }
      ∧ t.gn.regs = (s.gn.inc (F.isl_stops i)).regs ∧ t.gn.mem = s.gn.mem
      ∧ (∀ k, k / 2 ≠ i → t.gn.ar.cross.find? (fun e => e.1 == k) = s.gn.ar.cross.find? (fun e => e.1 == k))
      ∧ (∀ e ∈ t.gn.ar.cross, e.1 / 2 = i → ∀ x ∈ e.2, match x with
          | .data _ _ _ l => l ≠ none
          | .event _ l => l ≠ none))
  ∧ (∀ (s : State) (i last : Nat), (s.gn.isl i).stoppedAt = some last → s.gn.flag (F.pwIsl_gated i) = false →
    s.gn.ev.outbox.length < 14 →
    ∃ t, exec (.islandResume i) s = .next t ∧ t.pl = s.pl ∧ (t.gn.isl i).stoppedAt = none
      ∧ t.gn.rg (F.isl_lastGapNs i) = min (2 ^ 32 - 1) (s.gn.now - last) ∧ t.gn.ev.outbox.length = s.gn.ev.outbox.length + 1
      ∧ t.gn.mem = s.gn.mem)

/-! ### Set-up of a node -/

/-- R210, R212, R350 to R352: the topology, the rank table of a running node; the maintenance stop, whose steps wait for the graphs and the ensembles to go;
that it looks again at each increment of the time unit is the model's choice (assumption log 28). -/
def Obligations.SetupCommandsComplete : Prop :=
  (∀ (s : State) (h : DescHdr) (i : TopoIn), s.gn.admits 0x01 ⟨false, true, false, false⟩ h = true →
    let g := s.gn.begun 0x01 h
    let t := parseTopo i
    let m := mkRanks t.ranks
    let g1 := (g.onRd (fun d => { d with topo := some t, ranks := m })).loadTopo
    g.flag F.buStat_topoOk = false → g.topoBad t m = none →
    exec (.topology h i) s = .next { s with gn := ((g1.wr F.rdMap_gen t.gen).put F.buStat_topoOk true).complete 0x01 h stOk [] })
  ∧ (∀ (s : State) (h : DescHdr) (i : TopoIn) (off : Nat), s.gn.admits 0x01 ⟨false, true, false, false⟩ h = true →
    let g := s.gn.begun 0x01 h
    let t := parseTopo i
    g.flag F.buStat_topoOk = false → g.topoBad t (mkRanks t.ranks) = some off →
    exec (.topology h i) s
      = .next { s with gn := ((g.inc F.buStat_topoRej).record prodCore 0x1002 4 0 off 0 0 0).failed 0x01 h 0x1002 off })
  ∧ (∀ (s : State) (h : DescHdr) (gen : Nat) (ranks : List (Nat × Word32)), s.gn.admits 0x03 ruleS h = true →
    let g := s.gn.begun 0x03 h
    let m := mkRanks ranks
    ranks.any (fun e => decide (131072 ≤ e.1)) = false → rankBad g.isTray m = none →
    exec (.rankmapLoad h gen ranks) s
      = .next { s with gn := ((g.onRd (fun d => { d with pend := some (gen % 2 ^ 16, m) })).wr F.rdMap_pendGen gen).complete 0x03 h stOk [] })
  ∧ (∀ (s : State) (h : DescHdr), s.gn.admits 0x1C ruleS h = true → (s.gn.begun 0x1C h).acc = 0 →
    let k := (s.gn.begun 0x1C h).maintGraphs.onSc (fun x => { x with maint := some h })
    k.alive = true →
    (k.sq.graphs ≠ [] → exec (.maintStop h) s = .next { s with gn := k })
    ∧ (k.sq.graphs = [] → k.maintDrop.ts.slots.any (fun e => e.2.st != .empty) = true → exec (.maintStop h) s = .next { s with gn := k.maintDrop })
    ∧ (k.sq.graphs = [] → k.maintDrop.ts.slots.any (fun e => e.2.st != .empty) = false → exec (.maintStop h) s = .next { s with gn := k.maintDrop.maintEnd h }))
  ∧ (∀ (s : State) (h : DescHdr), s.gn.alive = true → s.gn.sc.maint = some h →
    let k := s.gn.tick
    k.alive = true →
    (s.gn.sq.graphs ≠ [] → exec (.timeUnitIncrement .ginath) s = .next { s with gn := k })
    ∧ (s.gn.sq.graphs = [] → k.maintDrop.ts.slots.any (fun e => e.2.st != .empty) = true → exec (.timeUnitIncrement .ginath) s = .next { s with gn := k.maintDrop })
    ∧ (s.gn.sq.graphs = [] → k.maintDrop.ts.slots.any (fun e => e.2.st != .empty) = false →
      exec (.timeUnitIncrement .ginath) s = .next { s with gn := k.maintDrop.maintEnd h }))

/-! ### Studios and the host's services -/

/-- R155, R315, R321, R326: a studio is enabled, given its key, closed and erased, and the tags of its dies are rewritten; that a studio already enabled or an erase that runs refuses an open is the
model's choice (assumption log 30). -/
def Obligations.StudioCommandsComplete : Prop :=
  (∀ (s : State) (h : DescHdr) (n : Nat), s.gn.admits 0x15 ⟨false, false, true, true⟩ h = true → tenant n = true →
    let g := s.gn.begun 0x15 h
    g.flag F.scStat_idOk = true → g.flag F.scStat_ksErased = false → g.acc ≠ 2 → g.flag F.scStat_busy = false → g.rg (F.scStu_st n) = 0 →
    exec (.studioOpen h n) s = .next { s with gn := ((g.wr (F.scStu_st n) 1).setAcc).complete 0x15 h stOk [] })
  ∧ (∀ (s : State) (h : DescHdr) (n : Nat), s.gn.admits 0x15 ⟨false, false, true, true⟩ h = true → tenant n = true →
    let g := s.gn.begun 0x15 h
    g.flag F.scStat_idOk = true → g.flag F.scStat_ksErased = false → g.acc ≠ 2 → (g.flag F.scStat_busy = true ∨ g.rg (F.scStu_st n) ≠ 0) →
    exec (.studioOpen h n) s = .next { s with gn := g.complete 0x15 h stRefused [] })
  ∧ (∀ (s : State) (h : DescHdr) (b k : List Byte) (ks : KeyStore), s.gn.admits 0x17 ⟨true, false, true, false⟩ h = true → h.fn ≠ 0 →
    let g := s.gn.begun 0x17 h
    g.flag F.scStat_idOk = true → g.flag F.scStat_ksErased = false → g.studioSt h.fn = 1 →
    g.sc.store = some ks → unwrapSession ks.ident b (g.rg F.scId_fp) h.fn = some k →
    let g1 := g.onSc (fun x => { x with keys := x.keys.filter (fun e => e.1 != h.fn) ++ [(h.fn, k)] })
    exec (.studioKey h b) s
      = .next { s with gn := (g1.retag ((g1.wr (F.scStu_st h.fn) 2).addWrap (F.scStu_opens h.fn) 1)).complete 0x17 h stOk [] })
  ∧ (∀ (s : State) (h : DescHdr) (n : Nat), s.gn.admits 0x16 ruleS h = true → tenant n = true →
    let g := s.gn.begun 0x16 h
    g.flag F.scStat_busy = false → g.rg (F.scStu_st n) ≠ 0 →
    let d := g.denyPosted n
    let c := d.retag (d.onSc (fun x => { x with keys := x.keys.filter (fun e => e.1 != n), closing := x.closing ++ [(n, h)] }))
    exec (.studioClose h n) s = .next { s with gn := (c.eraseBuffers n).put F.scStat_busy true })
  ∧ (∀ (s : State) (h : DescHdr) (n : Nat), s.gn.alive = true → s.gn.sc.closing = [(n, h)] →
    let g := (s.gn.onSc (fun x => { x with closing := [] })).put F.scStat_busy false
    exec .closeEraseDone s = .next { s with gn := (((g.wr (F.scStu_st n) 0).setAcc).studioRecord n 0).complete 0x16 h stOk [] })

/-- R259, R273, R292, R324, R340, R353: attestation, the flash log and the dumps read by the host, images and enrolment. The bytes that an owner record's MAC
and signature cover are the model's (assumption log 4). -/
def Obligations.HostServicesComplete : Prop :=
  (∀ (s : State) (h : DescHdr) (nonce : BitVec 256) (ks : KeyStore), s.gn.admits 0x18 ruleBSM h = true →
    let g := s.gn.begun 0x18 h
    g.flag F.scStat_idOk = true → g.sc.store = some ks →
    let b := g.statement ks nonce g.free
    exec (.attest h nonce) s
      = .next { s with gn := (Gn.hostPut { g with free := g.free + 1 } h.fn h.addr b).complete 0x18 h stOk [b.length] })
  ∧ (∀ (s : State) (h : DescHdr) (first count : Nat), s.gn.admits 0x19 ruleBSM h = true →
    let g := s.gn.begun 0x19 h
    let page := fun i => match g.ev.flash.find? (fun e => e.1 == first + i) with | some e => e.2.bytes | none => List.replicate 4160 0xFF
    1 ≤ count → count ≤ 4096 → first + count ≤ 262144 →
    let b := (List.range count).flatMap page
    exec (.logRead h first count) s
      = .next { s with gn := (g.hostPut h.fn h.addr b).complete 0x19 h stOk [4160 * count] })
  ∧ (∀ (s : State) (h : DescHdr) (slot off n : Nat), s.gn.admits 0x1A ruleBSM h = true → slot < 2 → off * 4096 + n ≤ 402653184 →
    let g := s.gn.begun 0x1A h
    let b := (List.range n).map (fun i => g.dumpAt slot (off * 4096 + i))
    exec (.dumpRead h slot off n) s = .next { s with gn := (g.hostPut h.fn h.addr b).complete 0x1A h stOk [n] })
  ∧ (∀ (s : State) (h : DescHdr) (slot : Nat) (x : FwImage), s.gn.admits 0x1D ruleM h = true → slot < 2 → x.len ≠ 0 → x.len ≤ 63 * 1048576 →
    let g := s.gn.begun 0x1D h
    g.sc.fwLoaded ≠ slot → Config.ecdsaOk Config.bootKey x.digest x.sig = true → (∀ o, g.ownerRec = some o → o.minFw ≤ x.ver) →
    let g1 := g.onSc (fun c => { c with fwSlots := setSlot c.fwSlots slot { ver := x.ver, valid := true, digest := x.digest, sig := x.sig, cfg := x.cfg } })
    exec (.imageWrite h 0 slot x) s = .next { s with gn := g1.complete 0x1D h stOk [] })
  ∧ (∀ (s : State) (h : DescHdr) (o : OwnerIn) (ks : KeyStore), s.gn.admits 0x1E ruleM h = true →
    let g := s.gn.begun 0x1E h
    g.sc.store = some ks → g.ownerRec = none →
    let mac := Config.ownerMac ks.flash (ownerBytes o.cfgKey o.dbgKey o.minFw o.minCfg)
    let g1 := g.onSc (fun c => { c with owner := some ⟨o.cfgKey, o.dbgKey, o.minFw, o.minCfg, mac⟩, ownerOk := true })
    exec (.enrol h o) s = .next { s with gn := g1.complete 0x1E h stOk [] })
  ∧ (∀ (s : State) (h : DescHdr) (o : OwnerIn) (m : Owner324) (ks : KeyStore), s.gn.admits 0x1E ruleM h = true →
    let g := s.gn.begun 0x1E h
    g.sc.store = some ks → g.ownerRec = some m → Config.ecdsaOk m.cfgKey (sha384 (ownerBytes o.cfgKey o.dbgKey o.minFw o.minCfg)) o.sig = true →
    let mac := Config.ownerMac ks.flash (ownerBytes o.cfgKey o.dbgKey (max m.minFw o.minFw) (max m.minCfg o.minCfg))
    let g1 := g.onSc (fun c => { c with owner := some ⟨o.cfgKey, o.dbgKey, max m.minFw o.minFw, max m.minCfg o.minCfg, mac⟩, ownerOk := true })
    exec (.enrol h o) s = .next { s with gn := g1.complete 0x1E h stOk [] })

/-! ### Registers and reads -/

/-- R340, R342, R356, R357: an access of good width and alignment to BAR0, by PCIe or by a REG descriptor. -/
def Obligations.RegisterAccessesComplete : Prop :=
  (∀ (s : State) (fn off w : Nat), s.gn.hostUp = true → badAccess off w = false →
    exec (.registerRead fn off w) s = .next { s with gn := (s.gn.barRead fn off w).1.emitOut (.rdata (s.gn.barRead fn off w).2) })
  ∧ (∀ (s : State) (fn off w : Nat) (v : Word), s.gn.hostUp = true → badAccess off w = false →
    exec (.registerWrite fn off w v) s = .next { s with gn := s.gn.barWrite fn off w v.toNat })
  ∧ (∀ (s : State) (h : DescHdr) (off : Nat) (w64 : Bool), s.gn.admits 0x1B ruleBSM h = true → badAccess off (regWidth w64) = false →
    let r := (s.gn.begun 0x1B h).barRead 0 off (regWidth w64)
    exec (.regRead h off w64) s = .next { s with gn := r.1.complete 0x1B h stOk [r.2] })
  ∧ (∀ (s : State) (h : DescHdr) (off : Nat) (w64 : Bool) (v : Word), s.gn.admits 0x1B ruleBSM h = true →
    badAccess off (regWidth w64) = false →
    let g := (s.gn.begun 0x1B h).barWrite 0 off (regWidth w64) v.toNat
    exec (.regWrite h off w64 v) s = .next { s with gn := g.complete 0x1B h stOk [] })

/-- R356 rule 4: a read by the physical function where no register exists gives 0; it is counted, and the first one's offset and function are latched.
An access of bad width or alignment is answered with an abort and record 0x0001. -/
def Obligations.UnmappedReadGivesZero : Prop :=
  (∀ (s : State) (off w : Nat), s.gn.hostUp = true → badAccess off w = false → off < 2 ^ 21 → s.gn.gatedAt off = false → (off < 0x61000 ∨ 0x63000 ≤ off) →
    (msixWord 0 off).isSome = false → pbaWord off = false → regParts off w = [] → s.gn.flag F.idUnmap_valid = false →
    ∃ t, exec (.registerRead 0 off w) s = .next t ∧ t.gn.out = s.gn.out ++ [.rdata 0] ∧ t.pl = s.pl ∧ t.gn.mem = s.gn.mem
      ∧ t.gn.rg F.idUnmap_count = min (2 ^ F.idUnmap_count.len - 1) (s.gn.rg F.idUnmap_count + 1) ∧ t.gn.flag F.idUnmap_valid = true
      ∧ t.gn.rg F.idUnmap_who = 0 ∧ t.gn.rg F.idUnmap_fn = 0 ∧ t.gn.rg F.idUnmap_addr = off)
  ∧ (∀ (s : State) (fn off w : Nat), s.gn.hostUp = true → badAccess off w = true →
    exec (.registerRead fn off w) s = .next { s with gn := (s.gn.badRecord fn 0 off w false).emitOut .abort })

/-- R209, R211 to R214, R223: reads of a counter and of an aggregate, and the frames that carry them. -/
def Obligations.ReadCommandsComplete : Prop :=
  (∀ (s : State) (h : DescHdr) (ta : Word) (sit : Nat), s.gn.admits 0x0C ⟨true, false, true, true⟩ h = true →
    exec (.read h ta sit) s = .next { s with gn := (s.gn.begun 0x0C h).readPost h ta sit })
  ∧ (∀ (s : State) (h : DescHdr) (key : Word) (win epoch sit : Nat), s.gn.admits 0x0C ⟨true, false, true, true⟩ h = true →
    exec (.aggregateRead h key win ⟨epoch, sit⟩) s = .next { s with gn := (s.gn.begun 0x0C h).aggRead h key.toNat win epoch sit })
  ∧ (∀ (s : State) (p : Nat) (q : ReadReq), s.gn.takes = true → (s.gn.portUse p = 4 ∨ s.gn.portUse p = 5) →
    exec (.readRequestFrame p q) s = .next { s with gn := (s.gn.takeRead q (some p) none).1.routeRead (s.gn.takeRead q (some p) none).2 })
  ∧ (∀ (s : State) (p : Nat) (x : ReadRep) (r : Rd), s.gn.takes = true → s.gn.rd.reads.find? (fun r => r.port == some p && r.q.tag == x.tag) = some r →
    x.status ≠ rdLinkLost → exec (.readReplyFrame p x) s = .next { s with gn := s.gn.settle r x.status x.tq x.value.toNat x.ht })
  ∧ (∀ (s : State) (r : Rd), s.gn.alive = true → s.gn.rd.reads = [r] → r.sent + 10000000 ≤ s.gn.now → r.hdr.isSome = true →
    r.sitWait = false → s.gn.inFlight r = false →
    exec (.readTimeout r.q.tag) s = .next { s with gn := s.gn.settleNo r rdTimeout 0 })
  ∧ (∀ (s : State) (site : Nat) (v : Word) (ht tq : Nat) (r : Rd), s.gn.takes = true → s.gn.rd.reads.find? (fun r => r.site == some site) = some r →
    exec (.regReplyFrame site 1 v ht tq) s = .next { s with gn := (s.gn.settle r rdOk tq v.toNat ht).sendLive site })

/-! ### The TAP and the debug port -/

/-- R330, R369: the TAP's instructions. A boundary instruction is selected where it is available and acts as BYPASS elsewhere. -/
def Obligations.TapInstructionsComplete : Prop := ∀ s : State, s.gn.pw.off = false →
  exec .bypass s = .next { s with gn := (s.gn.onSc (fun x => { x with tapIr := 0xFF })).emitOut (.jtag 1 0) }
  ∧ exec .idcode s = .next { s with gn := (s.gn.onSc (fun x => { x with tapIr := 1 })).emitOut (.jtag 32 0x1B10A4E3) }
  ∧ exec .trstN s = .next { s with gn := (s.gn.onSc (fun x => { x with tapIr := 1 })).wr F.scStat_dbg 0 }
  ∧ (s.gn.boundaryOn = true →
    exec .extest s = .next { s with gn := s.gn.onSc (fun x => { x with tapIr := 0 }) }
    ∧ exec .samplePreload s = .next { s with gn := s.gn.onSc (fun x => { x with tapIr := 2 }) }
    ∧ exec .clamp s = .next { s with gn := s.gn.onSc (fun x => { x with tapIr := 3 }) }
    ∧ exec .highz s = .next { s with gn := s.gn.onSc (fun x => { x with tapIr := 4 }) })
  ∧ (s.gn.boundaryOn = false →
    exec .extest s = exec .bypass s ∧ exec .samplePreload s = exec .bypass s ∧ exec .clamp s = exec .bypass s
    ∧ exec .highz s = exec .bypass s)

/-- R327 to R329, R331: the debug port is asked, opened, used and closed. An open erases the keys, the session keys and the seeds, and leaves the level
asked for, and every buffer still tagged is zeroed first; a refused one is counted and stops the next for 1 s. -/
def Obligations.DebugPortCommandsComplete : Prop :=
  (∀ s : State, s.gn.pw.off = false →
    let g := Gn.onSc { s.gn with free := s.gn.free + 1 } (fun x => { x with nonce := some s.gn.free })
    exec .dpStatus s = .next { s with gn := (g.tap 0x10).emitOut (.jtag 384 (s.gn.dpWord s.gn.free)) })
  ∧ (∀ (s : State) (level : Nat) (sig : List Byte), s.gn.alive = true → s.gn.sc.ignore ≤ s.gn.now → s.gn.openOk level = true →
    s.gn.sigOk level sig = true → s.gn.sc.tags = [] →
    ∃ t, exec (.dpOpen level sig) s = .next t ∧ t.pl = s.pl ∧ t.pending = s.pending ∧ t.gn.rg F.scStat_dbg = level % 4
      ∧ t.gn.flag F.scStat_ksErased = true ∧ t.gn.sc.keys = [] ∧ t.gn.sc.store = none ∧ t.gn.pf.seeds = [] ∧ t.gn.sc.nonce = none
      ∧ t.gn.mem = s.gn.mem)
  ∧ (∀ (s : State) (level : Nat) (sig : List Byte), s.gn.alive = true → s.gn.sc.ignore ≤ s.gn.now → s.gn.openOk level = true →
    s.gn.sigOk level sig = true →
    exec (.dpOpen level sig) s = .next { s with gn := ((s.gn.tap 0x11).gesso.onSc (fun x => { x with nonce := none })).wr F.scStat_dbg level })
  ∧ (∀ (s : State) (level : Nat) (sig : List Byte), s.gn.alive = true → s.gn.sc.ignore ≤ s.gn.now →
    (s.gn.openOk level && s.gn.sigOk level sig) = false →
    ∃ t, exec (.dpOpen level sig) s = .next t ∧ t.pl = s.pl ∧ t.pending = s.pending ∧ t.gn.sc.nonce = none
      ∧ t.gn.sc.ignore = s.gn.now + 1000000000 ∧ t.gn.rg F.scStat_dbg = s.gn.rg F.scStat_dbg ∧ t.gn.sc.keys = s.gn.sc.keys
      ∧ t.gn.mem = s.gn.mem)
  ∧ (∀ s : State, s.gn.pw.off = false → s.gn.dpIsOpen = true →
    exec .dpClose s = .next { s with gn := (s.gn.tap 0x13).wr F.scStat_dbg 0 })
  ∧ (∀ s : State, s.gn.pw.off = false → s.gn.dpIsOpen = false → exec .dpClose s = .next { s with gn := s.gn.bypass })
  ∧ (∀ (s : State) (w : BitVec 128), s.gn.pw.off = false → s.gn.dpIsOpen = true → s.gn.safe = false →
    exec (.dpAccess w) s = .next { s with gn := (s.gn.tap 0x12).dpCapture.dpDo w.toNat })
  ∧ (∀ (s : State) (w : BitVec 128), s.gn.pw.off = false → s.gn.dpIsOpen = false → exec (.dpAccess w) s = .next { s with gn := s.gn.bypass })

/-- R329, R332: an intrusive write of 8 bytes to control-core memory stores them at the address it names and nowhere else; the next read of the same
address has them in the data of its capture, and the memory keeps its canonical form. -/
def Obligations.DebugMemoryWriteIsLocal : Prop := ∀ (s : State) (a : Nat) (v : Word), s.gn.pw.off = false → s.gn.rg F.scStat_dbg = 2 →
  s.gn.safe = false → s.gn.rg F.pwState_pstate ≠ 2 → a + 8 ≤ 8388608 → s.memWf = true →
  let w : BitVec 128 := BitVec.ofNat 128 (1 + 4 + 8 + a * 16 + v.toNat * 2 ^ 64)
  let r : BitVec 128 := BitVec.ofNat 128 (1 + 8 + a * 16)
  ∃ t u, exec (.dpAccess w) s = .next t ∧ t.memWf = true ∧ (∀ k, (k < memKey 1 a ∨ memKey 1 a + 8 ≤ k) →
      SMap.get memDefault t.gn.mem k = SMap.get memDefault s.gn.mem k) ∧ t.gn.regs = s.gn.regs ∧ t.pl = s.pl
    ∧ exec (.dpAccess r) t = .next u ∧ u.gn.sc.dpData = v.toNat ∧ u.gn.sc.dpStatus = 0 ∧ u.gn.mem = t.gn.mem

/-! ### Images, graphs, ensembles -/

/-- R70, R79, R80, R84: an image that passes its checks becomes resident, its bytes in HBM, one that fails a check is refused with its record; a graph fills its slot and leaves it. The image's bytes go
to HBM by grants of its channels (R201); that a held channel leaves the command undone is the model's choice (assumption log 8). -/
def Obligations.ImageAndGraphCommandsComplete : Prop :=
  (∀ (s : State) (h : DescHdr) (num len : Nat) (y : ImageIn), s.gn.alive = true → num < 256 → s.gn.image num = none →
    let x := parseImage y
    let n := min len (2 ^ 24)
    let k := s.gn.hbmGranted 19 (hbmImage num) n
    (imageCheck len x = 0 → s.gn.hbmHeld 19 (hbmImage num) n = false → k.admits 0x04 ruleS h = true →
      let g := k.begun 0x04 h
      let g1 : Gn := { g with sq := { g.sq with images := g.sq.images ++ [⟨num, x⟩] } }
      g.image num = none →
      exec (.imageLoad h num len y) s = .next { s with gn := (g1.hbmWrite (hbmImage num) (y.raw.take (2 ^ 24))).complete 0x04 h stOk [num] })
    ∧ (imageCheck len x ≠ 0 → s.gn.admits 0x04 ruleS h = true →
      let g := s.gn.begun 0x04 h
      g.image num = none →
      exec (.imageLoad h num len y) s
        = .next { s with gn := (g.record prodSeq (Config.recCode 5).toNat 4 num (imageCheck len x) num 0 0).failed 0x04 h (Config.recCode 5).toNat
                                 (imageCheck len x) }))
  ∧ (∀ (s : State) (h : DescHdr) (num : Nat) (x : Image), s.gn.admits 0x05 ruleS h = true → num < 256 →
    let g := s.gn.begun 0x05 h
    let g1 := { g with sq := { g.sq with images := g.sq.images.filter (fun i => i.num != num) } }
    g.sq.graphs.any (fun gr => gr.tasks.any (fun t => t.image == num)) = false → g.image num = some x →
    exec (.imageEvict h num) s = .next { s with gn := Gn.complete g1 0x05 h stOk [] })
  ∧ (∀ (s : State) (h : DescHdr) (al : Bool) (hd : List Byte) (ts : List (List Byte)) (es : List Nat), s.gn.admits 0x06 ruleS h = true →
    let g := s.gn.begun 0x06 h
    let x : Graph :=
      { slot := u16 hd 0, mode := u8 hd 2, instMax := u8 hd 3, stream := u16 hd 28, tasks := ts.map (fun b => parseTask b es),
        allTasks := al, fn := h.fn, sq := h.sq, enabled := true, halted := false, unload := none, unloading := false,
        winSkip := 0, skipWarn := false, wins := [], next := 0, insts := [] }
    let g1 := { g with sq := { g.sq with graphs := g.sq.graphs ++ [x] } }
    let g2 := Gn.complete g1 0x06 h stOk [u16 hd 0]
    g.graph (u16 hd 0) = none → g.graphCheck hd ts es = none →
    exec (.graphLoad h al hd ts es) s
      = .next { s with gn := if x.mode = 0 then (g2.newInst (u16 hd 0) none).afterTask (u16 hd 0) else g2 })
  ∧ (∀ (s : State) (h : DescHdr) (slot : Nat) (x : Graph), s.gn.admits 0x07 ruleS h = true → slot < 16 →
    let g := s.gn.begun 0x07 h
    g.graph slot = some x → x.unloading = false →
    exec (.graphUnload h slot) s = .next { s with gn := (g.unloadGraph slot (some h)).proofSettle })

/-- R98, R100, R104 to R106: staging and its checks, repair of the damaged replicas, the commit of an epoch panel by panel, unloading, and the scrubber,
which reads one row of every bank. -/
def Obligations.EnsembleCommandsComplete : Prop :=
  (∀ (s : State) (h : DescHdr) (e : EnsIn), s.gn.admits 0x08 ruleS h = true →
    let g := s.gn.begun 0x08 h
    let slot := u8 e.hdr 0
    let me := g.ens slot
    slot < 64 → u8 e.hdr 1 = 0 → zeroBytes e.hdr 12 16 = true → zeroBytes e.hdr 48 60 = true → (me.st = .empty ∨ me.st = .ready) →
    exec (.ensStage h e) s
      = .next { s with gn := g.setEns slot { me with st := .staging, new := some (parseEpoch e), hdr := some h, input := some e } })
  ∧ (∀ (s : State) (h : DescHdr) (e : EnsIn) (ep : Epoch), s.gn.admits 0x08 ruleS h = true →
    let g := s.gn.begun 0x08 h
    let slot := u8 e.hdr 0
    let me := g.ens slot
    let fix := me.damaged.filter (fun d => d.1 == ep.epoch && ep.panels.any (fun p => p.num == d.2.2))
    let g1 := forEach fix (fun d g => match ep.panels.find? (fun p => p.num == d.2.2) with
      | some p => g.writeReplica p d.2.1
      | none => g) g
    slot < 64 → u8 e.hdr 1 = 1 → zeroBytes e.hdr 12 16 = true → zeroBytes e.hdr 48 60 = true → me.st = .ready →
    g.stageCheck e true = .ok ep → (∀ p ∈ ep.panels, (me.repairs p).isSome = true) →
    exec (.ensRepair h e) s
      = .next { s with gn := (g1.setEns slot { g1.ens slot with damaged := (g1.ens slot).damaged.filter (fun d => !fix.contains d) }).complete 0x08 h
                               stOk [ep.epoch, slot] })
  ∧ (∀ (s : State) (h : DescHdr) (e : EnsIn) (b : StageBad), s.gn.admits 0x08 ruleS h = true →
    let g := s.gn.begun 0x08 h
    let slot := u8 e.hdr 0
    slot < 64 → u8 e.hdr 1 = 1 → zeroBytes e.hdr 12 16 = true → zeroBytes e.hdr 48 60 = true → (g.ens slot).st = .ready →
    g.stageCheck e true = .error b → exec (.ensRepair h e) s = .next { s with gn := g.ensRefuse h slot b })
  ∧ (∀ (s : State) (h : DescHdr) (slot : Nat), s.gn.admits 0x09 ruleS h = true → slot < 64 →
    let g := s.gn.begun 0x09 h
    ((g.ens slot).st = .ready →
      exec (.ensUnload h slot) s = .next { s with gn := (g.setEns slot { g.ens slot with st := .unloading, hdr := some h }).ensSettle slot })
    ∧ ((g.ens slot).st = .empty → exec (.ensUnload h slot) s = .next { s with gn := g.complete 0x09 h stOk [] }))
  ∧ (∀ (s : State) (slot : Nat) (x : EnsIn) (h : DescHdr), (s.gn.ens slot).st = .staging → (s.gn.ens slot).input = some x → (s.gn.ens slot).hdr = some h →
    let e := s.gn.ens slot
    (∀ ep, s.gn.stageCheck x false = .ok ep →
      let ts := { s.gn.ts with pool := SMap.setList (fun _ => (0 : Word32)) s.gn.ts.pool ep.bBase ep.bounds }
      let e1 := { e with st := .commit, new := some ep, left := (ep.panels.map (·.num)).mergeSort, written := [], input := none }
      exec (.stagingDone slot) s = .next { s with gn := Gn.setEns { s.gn with ts := ts } slot e1 })
    ∧ (∀ b, s.gn.stageCheck x false = .error b →
      exec (.stagingDone slot) s = .next { s with gn := (s.gn.setEns slot e.unstaged).ensRefuse h slot b }))
  ∧ (∀ (s : State) (slot : Nat) (ep : Epoch) (p : Panel), (s.gn.ens slot).st = .commit → (s.gn.ens slot).new = some ep → ep.panels = [p] →
    let e := s.gn.ens slot
    e.left = [p.num] → e.writing = [] → e.eligible p = true → s.gn.ts.slots.all (fun x => x.2.st != .commit || x.2.writing.isEmpty) = true →
    exec (.panelWriteStart slot p.num) s = .next { s with gn := s.gn.setEns slot { e with writing := [p.num] } })
  ∧ (∀ (s : State) (slot num : Nat) (ep : Epoch) (p : Panel), (s.gn.ens slot).st = .commit → (s.gn.ens slot).new = some ep →
    ep.panels.find? (fun q => q.num == num) = some p → (s.gn.ens slot).writing.contains num = true →
    let n := if p.hbm then 128 * p.rows else 0
    s.gn.hbmHeld 19 (hbmPanels + 8 * p.rowBase) n = false →
    let g := (s.gn.hbmGranted 19 (hbmPanels + 8 * p.rowBase) n).writePanel p
    let e := { g.ens slot with writing := (g.ens slot).writing.filter (fun x => x != num), left := (g.ens slot).left.filter (fun x => x != num),
                               written := (g.ens slot).written ++ [num] }
    exec (.panelWriteDone slot num) s
      = .next { s with gn := if e.left.isEmpty then (g.setEns slot e).ensCommit slot else g.setEns slot e })
  ∧ (∀ (s : State) (c : Nat), s.gn.alive = true → s.gn.flag (F.pwIsl_gated c) = false → (s.gn.isl c).stoppedAt = none →
    let row := SMap.get (fun _ => 0) s.gn.ts.scrub c
    let ts := { s.gn.ts with scrub := SMap.set (fun _ => 0) s.gn.ts.scrub c ((row + 1) % 65536) }
    exec (.scrubCycle c []) s = .next { s with gn := forEach (List.range 16) (fun b g =>
      forEach (List.range 4) (fun q g => g.scrubWord c b (row % 256) true q) (g.scrubWord c b row false 0)) { s.gn with ts := ts } })

/-! ### Tasks -/

/-- R53, R59, R73, R74, R76, R77, R80, R82, R84, R307: the launch by rank and the wait of a task that has no plan, the end of a task, its break points, hold and
resume with the copies of the quantized rows, the watchdog, and one cycle of its pipeline, throttled (which of every 8 is the model's choice, assumption
log 40), stalled or neither. -/
def Obligations.TaskCommandsComplete : Prop :=
  (∀ (s : State) (c : Cand), s.gn.alive = true → s.gn.rg F.pwState_pstate = 0 → s.gn.frozen = false → s.gn.pick s.gn.cands [] = some c →
    (s.gn.hasPlan c = true → exec .taskLaunch s = .next { s with gn := (s.gn.launch c).proofSettle })
    ∧ (s.gn.hasPlan c = false → exec .taskLaunch s = .next { s with gn := (s.gn.holdLaunch c).proofSettle }))
  ∧ (∀ (s : State) (slot n idx : Nat) (t : Task) (r : Run), s.gn.runOf slot n idx = some (t, r) → s.gn.moving = true →
    (r.held = false → exec (.taskComplete slot n idx) s = .next { s with gn := (s.gn.taskDone slot n idx r.status).proofSettle })
    ∧ (r.held = false → r.status ≠ 0 → exec (.breakPoint slot n idx) s = .next { s with gn := (s.gn.taskDone slot n idx r.status).proofSettle })
    ∧ (r.held = false → r.status = 0 → r.cancel = true → exec (.breakPoint slot n idx) s = .next { s with gn := (s.gn.taskDone slot n idx 6).proofSettle })
    ∧ (r.held = true → r.cancel = true → exec (.holdResume slot n idx) s = .next { s with gn := (s.gn.taskDone slot n idx 6).proofSettle }))
  ∧ (∀ (s : State) (slot n idx : Nat) (t : Task) (r : Run), s.gn.runOf slot n idx = some (t, r) → s.gn.moving = true → r.held = false →
    r.status = 0 → r.cancel = false → (s.gn.plansNow t).all (·.isSome) = true →
    let new := (s.gn.plansNow t).map (fun p => p.getD (0, 0))
    let sw := (t.clusters.zip ((r.plans.zip r.used).zip new)).filter (fun e => e.2.1 != e.2.2)
    let g := forEach sw (fun e g => g.inc (F.clPlan_planSw e.1)) s.gn
    let g1 := if sw = [] then g else g.placeCopies slot n t (new.map (·.2))
    let r' := { r with plans := new.map (·.1), used := new.map (·.2), cyc := r.cyc.map (fun _ => 0), bp := r.bp + 1 }
    exec (.breakPoint slot n idx) s = .next { s with gn := ((g1.setTst slot n idx (.running r')).coreSettle).proofSettle })
  ∧ (∀ (s : State) (slot n idx : Nat) (t : Task) (r : Run), s.gn.runOf slot n idx = some (t, r) → s.gn.moving = true → r.held = false →
    r.status = 0 → r.cancel = false → (s.gn.plansNow t).all (·.isSome) = false →
    let g := forEach ((t.clusters.zip (s.gn.plansNow t)).filter (fun e => e.2.isNone)) (fun e g => g.inc (F.clPlan_nopHold e.1)) s.gn
    let g1 := Gn.record g prodSeq (Config.recCode 7).toNat 3 (taskSource slot idx) n t.image 0 0
    let r' := { r with held := true, cyc := r.cyc.map (fun _ => 0), bp := r.bp + 1 }
    exec (.breakPoint slot n idx) s = .next { s with gn := ((g1.setTst slot n idx (.running r')).coreSettle).proofSettle })
  ∧ (∀ (s : State) (slot n idx : Nat) (t : Task) (r : Run), s.gn.runOf slot n idx = some (t, r) → s.gn.moving = true → r.held = true →
    r.cancel = false → (s.gn.plansNow t).all (·.isSome) = true → s.gn.coresFree t = true →
    let new := (s.gn.plansNow t).map (fun p => p.getD (0, 0))
    let sw := (t.clusters.zip ((r.plans.zip r.used).zip new)).filter (fun e => e.2.1 != e.2.2)
    let g := forEach sw (fun e g => g.inc (F.clPlan_planSw e.1)) s.gn
    let r' := { r with plans := new.map (·.1), used := new.map (·.2), held := false }
    exec (.holdResume slot n idx) s = .next { s with gn := ((g.placeCopies slot n t (new.map (·.2))).setTst slot n idx (.running r')).proofSettle })
  ∧ (∀ (s : State) (slot n idx : Nat) (t : Task) (r : Run) (x : Image), s.gn.runOf slot n idx = some (t, r) → s.gn.alive = true → r.held = false →
    s.gn.image t.image = some x → r.cyc.any (fun c => decide (x.bpMax + 1024 ≤ c)) = true →
    let keys := t.clusters.zipIdx.flatMap (fun e => (setBits 16 (s.gn.foot t.image e.2).cores).map (fun k => e.1 * 16 + k))
    let g1 := (s.gn.coreReset keys).record prodSeq (Config.recCode 11).toNat 4 (taskSource slot idx) n t.image 0 0
    exec (.bpWatchdog slot n idx) s = .next { s with gn := (g1.taskDone slot n idx 4).proofSettle })
  ∧ (∀ (s : State) (slot n idx c lc : Nat) (t : Task) (r : Run) (ops : List CycleOp), s.gn.runOf slot n idx = some (t, r) →
    t.clusters.findIdx? (· == c) = some lc → s.gn.moving = true → r.held = false → s.gn.flag (F.pwIsl_gated c) = false →
    (s.gn.isl c).stoppedAt = none →
    let x : Site := { slot := slot, inst := n, idx := idx, c := c, lc := lc, t := t, f := s.gn.foot t.image lc }
    let g := ((s.gn.nextOct x).nextIsl x).freshCycle
    (s.gn.throttled x r = true →
      let g1 := forEach (ops.filter ioOp) (fun o g => g.cycleOp x o) (g.fillCrossing c)
      exec (.pipelineCycle slot n idx c ops) s = .next { s with gn := g1.freshCycle })
    ∧ (s.gn.throttled x r = false → g.stalls c ops = true →
      let g1 := forEach (ops.filter ioOp) (fun o g => g.cycleOp x o) (g.fillCrossing c)
      exec (.pipelineCycle slot n idx c ops) s = .next { s with gn := g1.freshCycle.passCycles x 1 })
    ∧ (s.gn.throttled x r = false → g.stalls c ops = false →
      let g1 := (forEach ops (fun o g => g.cycleOp x o) g).engines x
      let g2 := (g1.passCycles x (1 + g1.addedCycles)).watchAccess x
      exec (.pipelineCycle slot n idx c ops) s = .next { s with gn := (((g2.memErrors x).sparsity x).freshCycle).fillCrossing c }))
  ∧ (∀ (s : State) (slot : Nat) (x : Graph), s.gn.graph slot = some x → x.skipWarn = true →
    let g := s.gn.setGraph { x with skipWarn := false }
    exec (.winSkipWarning slot) s = .next { s with gn := g.record prodSeq (Config.recCode 13).toNat 3 slot x.winSkip 0 0 0 })

/-! ### Proof -/

/-- R19, R109 to R127: plan and seed, the parts of an export, the weight tap and the keep-alives, which only a tray takes and which wait in a freeze, batches,
runs that have ended, deadlines, the pool. -/
def Obligations.ProofCommandsComplete : Prop :=
  (∀ (s : State) (h : DescHdr) (hd : List Byte) (ts : List (List Byte)), s.gn.admits 0x0A ruleS h = true →
    exec (.plan h hd ts) s = .next { s with gn := (s.gn.begun 0x0A h).plan h hd ts })
  ∧ (∀ (s : State) (h : DescHdr) (epoch : Nat) (sd : BitVec 128), s.gn.admits 0x0B ruleS h = true →
    let g := s.gn.begun 0x0B h
    let all := g.pf.seeds.filter (fun x => x.epoch != epoch) ++ [{ epoch := epoch, seed := sd, sent := none }]
    (epoch < g.pf.epoch → exec (.seed h epoch sd) s = .next { s with gn := g.complete 0x0B h stRefused [] })
    ∧ (g.pf.epoch ≤ epoch → all.length ≤ 3 →
      exec (.seed h epoch sd) s
        = .next { s with gn := (Gn.forwardSeeds { g with pf := { g.pf with seeds := all } }).complete 0x0B h stOk [] }))
  ∧ (∀ (s : State) (h : DescHdr) (c : Nat), s.gn.admits 0x12 ruleS h = true → c < 16 →
    let g := s.gn.begun 0x12 h
    let pf := { g.pf with barred := g.pf.barred.filter (fun x => x != c), quar := g.pf.quar.filter (fun x => x.1 != c) }
    (g.pf.barred.contains c = true → exec (.poolRelease h c) s = .next { s with gn := Gn.complete { g with pf := pf } 0x12 h stOk [] })
    ∧ (g.pf.barred.contains c = false → exec (.poolRelease h c) s = .next { s with gn := g.complete 0x12 h stRefused [] }))
  ∧ (∀ (s : State) (site seq part n : Nat) (b : List Byte) (w : WeightIn) (k : Word32), s.gn.takes = true →
    (s.gn.isTray = true → s.gn.frozen = false →
      (s.gn.hbmHeld 18 (s.gn.landAt site seq) b.length = false →
        exec (.exportPartFrame site seq part n b) s = .next { s with gn := (s.gn.hbmGranted 18 (s.gn.landAt site seq) b.length).exportPart site seq part n b })
      ∧ exec (.weightFrame w) s = .next { s with gn := s.gn.weightIn w }
      ∧ exec (.keepaliveFrame site (some k)) s = .next { s with gn := s.gn.keepalive site k.toNat })
    ∧ (s.gn.isTray = true → s.gn.frozen = true →
      exec (.exportPartFrame site seq part n b) s = .next { s with gn := { s.gn with parked := s.gn.parked ++ [.part site seq part n b] } }
      ∧ exec (.weightFrame w) s = .next { s with gn := { s.gn with parked := s.gn.parked ++ [.weight w] } }
      ∧ exec (.keepaliveFrame site (some k)) s = .next { s with gn := { s.gn with parked := s.gn.parked ++ [.keepalive site k.toNat] } })
    ∧ (s.gn.isTray = false →
      exec (.exportPartFrame site seq part n b) s = .next s ∧ exec (.weightFrame w) s = .next s ∧ exec (.keepaliveFrame site (some k)) s = .next s))
  ∧ (∀ (s : State) (site : Nat) (w : Word32), s.gn.takes = true → s.gn.isTray = true → s.gn.frozen = false → (s.gn.track site).awaitBase = true →
    exec (.keepaliveFrame site (some w)) s = .next { s with gn := s.gn.setTrack site { base := some w.toNat, seen := [], awaitBase := false } })
  ∧ (∀ (s : State) (site : Nat), exec (.keepaliveFrame site none) s = .next s)
  ∧ (∀ s : State, exec .batchDispatch s
      = .next { s with gn := (s.gn.dispatchWhen (fun p es => decide (p.batchMax ≤ es.length))).pumpAll }
    ∧ exec .gatherExpiry s
      = .next { s with gn := (s.gn.dispatchWhen (fun p es => (es.head?.map (fun e => decide (e.since + p.gatherUs * 1000 ≤ s.gn.now))).getD false)).pumpAll })
  ∧ (∀ (s : State) (slot inst : Nat) (r : PfRun), s.gn.alive = true → s.gn.frozen = false →
    s.gn.pf.runs.find? (fun q => q.slot == slot && q.inst == inst && q.ended) = some r →
    let g := forEach r.rbs.zipIdx (fun x g => g.runOutcome r x.2 x.1) s.gn
    exec (.proofRunDone slot inst) s
      = .next { s with gn := Gn.pumpAll { g with pf := { g.pf with runs := g.pf.runs.filter (fun x => x.id != r.id) } } })
  ∧ (∀ (s : State) (site seq : Nat) (e : Exp) (p : Plan), s.gn.pf.exps.find? (fun e => e.site == site && e.seq == seq && e.st != .answered) = some e →
    s.gn.expPlan e = some p → e.htDone + p.deadlineUs * 1000 ≤ s.gn.now →
    exec (.proofDeadline site seq) s = .next { s with gn := s.gn.answer e 4 0 0 0xFFFFFFFF [] })

/-! ### Ingest and windows -/

/-- R20, R22, R170, R209, R262: a sample enters its windows and the history, trace data the history, event records the outbox of ingest, progress records
the pairing; what comes during a freeze waits; a window's configuration and its close. That a manager sends the records of event frames on upward is the model's
choice (assumption log 22). -/
def Obligations.IngestCommandsComplete : Prop :=
  (∀ (s : State) (site : Nat) (r : SampleIn) (st tq studio : Nat) (b : List Byte) (rs : List RecIn) (ps : List ProgIn), s.gn.ingests = true →
    (s.gn.frozen = false →
      exec (.sampleRecordFrame site r) s = .next { s with gn := (s.gn.item site r.ht r.tq).keep site (.sample r) }
      ∧ exec (.traceDataFrame site st tq b) s = .next { s with gn := s.gn.keep site (.trace st tq b) }
      ∧ exec (.eventRecordFrame site studio rs) s = .next { s with gn := s.gn.events site studio rs }
      ∧ exec (.progressRecordFrame site ps) s = .next { s with gn := forEach ps (fun r g => g.progress1 site r) s.gn })
    ∧ (s.gn.frozen = true →
      exec (.sampleRecordFrame site r) s = .next { s with gn := { s.gn with parked := s.gn.parked ++ [.sample site r] } }
      ∧ exec (.traceDataFrame site st tq b) s = .next { s with gn := { s.gn with parked := s.gn.parked ++ [.trace site st tq b] } }
      ∧ exec (.eventRecordFrame site studio rs) s = .next { s with gn := { s.gn with parked := s.gn.parked ++ [.events site studio rs] } }
      ∧ exec (.progressRecordFrame site ps) s = .next { s with gn := { s.gn with parked := s.gn.parked ++ [.progress site ps] } }))
  ∧ (∀ (s : State) (site studio : Nat) (rs : List RecIn), s.gn.takes = true → s.gn.isTray = false →
    exec (.eventRecordFrame site studio rs) s = .next { s with gn := s.gn.sendRecords rs })
  ∧ (∀ (s : State) (w : Nat) (v : Word), s.gn.alive = true → (bits v.toNat 0 20 = 0 ∨ (10 ≤ bits v.toNat 0 20 ∧ bits v.toNat 0 20 ≤ 1000000)) →
    bits v.toNat 0 20 ≠ s.gn.rg (F.winCfg_lenUs w) → bits v.toNat 20 14 = s.gn.rg (F.winCfg_closeUs w) →
    exec (.winCfgWrite w v) s
      = .next { s with gn := (s.gn.setWin w ((s.gn.win w).setLen s.gn.now (bits v.toNat 0 20))).wr (F.winCfg_lenUs w) (bits v.toNat 0 20) })
  ∧ (∀ (s : State) (w start stop : Nat) (short : Bool) (old new : List (Nat × SeriesIn)), s.gn.alive = true →
    (s.gn.win w).windowOf (s.gn.win w).closed = some (start, stop, short) → stop + s.gn.closeDelay w stop * 1000 ≤ s.gn.now →
    let es := s.gn.epochsIn start stop
    let g0 := s.gn.count 2 w
    let part : Nat × Nat → Gn → Gn := fun e g => g.closeEpoch w start stop (((s.gn.win w).regime start).2.1 / 1000) e.1 short (decide (0 < e.2))
      (if e.2 + 1 = es.length then new else if e.2 = 0 then old else [])
    let g := if s.gn.isTray = true then forEach es.zipIdx part g0 else g0
    w ≠ g.rg F.hlSrch_hstream →
    let y := g.win w
    let cur := (y.segs.filter (fun s => decide (s.1 ≤ stop))).getLast?.toList
    let last := (y.closes.filter (fun c => decide (c.1 < stop))).getLast?.toList
    let z : WinSt := { segs := cur ++ y.segs.filter (fun s => decide (stop < s.1)), closes := last ++ y.closes.filter (fun c => decide (stop ≤ c.1)),
                       closed := stop, wins := y.wins.filter (fun v => decide (stop ≤ v.start)), cums := y.cums }
    exec (.windowClose w old new) s = .next { s with gn := ((g.setWin w z).windowToGraphs w start).raiseDecim })

/-! ### Sittings -/

/-- R171 to R180: a sitting is asked for, frozen, closed link by link, reported, and retired; a retirement completes once its frames have reached the next
nodes. -/
def Obligations.SittingCommandsComplete : Prop :=
  (∀ (s : State) (h : DescHdr) (ident t : Nat), s.gn.admits 0x0D ruleS h = true → ident ≠ 0 →
    let g := s.gn.begun 0x0D h
    let g1 := { g with sits := g.sits ++ [Sit.fresh ident t .armed (some h) 0] }
    (g.timeValid = true → g.now + 50000 ≤ t → g.sits.length < 8 → g.sit ident = none →
      exec (.sitting h ident t) s = .next { s with gn := Gn.forwardSit g1 ident t })
    ∧ (g.timeValid = false ∨ t < g.now + 50000 ∨ 8 ≤ g.sits.length ∨ g.sit ident ≠ none →
      exec (.sitting h ident t) s = .next { s with gn := (g.inc F.sitStat_refused).complete 0x0D h stRefused [] }))
  ∧ (∀ (s : State) (h : DescHdr) (t : Nat), s.gn.admits 0x0D ruleS h = true →
    exec (.sitting h 0 t) s = .next { s with gn := (s.gn.begun 0x0D h).complete 0x0D h stInvalid [] })
  ∧ (∀ (s : State) (h : DescHdr) (ident : Nat), s.gn.admits 0x0E ruleS h = true → ident ≠ 0 →
    let g := s.gn.begun 0x0E h
    (∀ x : Sit, g.sit ident = some x →
      let g1 := g.retireSit x
      exec (.sitRetire h ident) s = .next { s with gn := Gn.retireCheck { g1 with hq := { g1.hq with retires := g1.hq.retires ++ [(h, ident)] } } })
    ∧ (g.sit ident = none → exec (.sitRetire h ident) s = .next { s with gn := g.complete 0x0E h stRefused [] }))
  ∧ (∀ (s : State) (ident t : Nat), s.gn.alive = true → s.gn.rg F.pwState_pstate ≠ 2 → s.gn.acc ≠ 2 → s.gn.sits.length < 8 → s.gn.sit ident = none →
    (s.gn.wake.now < t →
      let g := { s.gn.wake with sits := s.gn.wake.sits ++ [Sit.fresh ident t .armed none 0] }
      exec (.sittingRequestFrame ident t) s = .next { s with gn := Gn.forwardSit g ident t })
    ∧ (t ≤ s.gn.wake.now →
      let x := Sit.fresh ident t .armed none cReqLate
      let g := { s.gn.wake with sits := s.gn.wake.sits ++ [x] }
      exec (.sittingRequestFrame ident t) s = .next { s with gn := (Gn.forwardSit g ident t).sitHeld x }))
  ∧ (∀ (s : State) (ident : Nat) (x : Sit), s.gn.alive = true → s.gn.sit ident = some x →
    (x.st = .armed → x.t ≤ s.gn.now → s.gn.timeValid = false →
      exec (.sittingFreeze ident) s = .next { s with gn := s.gn.sitHeld { x with cause := x.cause ||| cTimeInvalid } })
    ∧ (x.st = .armed → x.t ≤ s.gn.now → s.gn.timeValid = true → (s.gn.sitLinks x).all (fun l => s.gn.linkUp l && s.gn.sitCapable l) = true →
      s.gn.sits.find? (fun y => y.t == x.t && y.snap != []) = none →
      let y := { x with st := .frozen, snap := s.gn.regs, tq := s.gn.tq, tqIsl := s.gn.tqCovering 16, queues := s.gn.queueMarks }
      exec (.sittingFreeze ident) s = .next { s with gn := (s.gn.setSit y).checkFreeze ident })
    ∧ (x.st = .frozen → x.t + s.gn.rg F.tmCfg_sitFrzUs * 1000 ≤ s.gn.now →
      exec (.sittingFreezeTimeout ident) s = .next { s with gn := s.gn.endFreeze x })
    ∧ (x.t + 4 * s.gn.rg F.tmCfg_sitFrzUs * 1000 + 1000000 ≤ s.gn.now →
      let miss := (s.gn.portsOf 2).filter (fun p => !x.lost.contains p && !x.reports.any (fun e => e.1 == p))
      exec (.sittingReportTimeout ident) s = .next { s with gn := (s.gn.setSit { x with lost := x.lost ++ miss }).trySitReport ident })
    ∧ (∀ c : Bool, exec (.sittingRetireFrame ident c) s = .next { s with gn := s.gn.retireSit x })
    ∧ (∀ (site : Nat) (reason : Nat),
      let y := { x with chan := x.chan.filter (fun e => e.1 != 64 + site) }
      exec (.blockRefusalFrame site ident reason) s = .next { s with gn := s.gn.closeLink y (.site site) (refusalCause reason) }
      ∧ exec (.sittingOverrunFrame site ident) s = .next { s with gn := s.gn.closeLink y (.site site) cOverrun })
    ∧ (∀ p : Nat, exec (.sittingMarkerArrival (.port p) ident none) s = .next { s with gn := (s.gn.setSit x).closeLink x (.port p) 0 })
    ∧ (∀ (site : Nat) (im : SampleIn), x.st = .frozen → x.images = [] →
      let y := { x with images := [(site, im)] }
      exec (.sittingMarkerArrival (.site site) ident (some im)) s = .next { s with gn := (s.gn.setSit y).closeLink y (.site site) 0 })
    ∧ (∀ p : Nat, x.st = .frozen → (x.snap == []) = false → x.sent.contains (.port p) = false → s.gn.markerLink x (.port p) = true →
      (s.gn.port p).sendQ.any (fun f => decide (extStamp s.gn.now f.stamp < x.t)) = false →
      exec (.sittingMarkerSend (.port p) ident) s
        = .next { s with gn := (s.gn.setSit { x with sent := x.sent ++ [.port p] }).sendPort p 0x19 (leBytes 8 x.t ++ leBytes 1 ident ++ leBytes 7 1) })
    ∧ (∀ site : Nat, exec (.sittingMarkerSend (.site site) ident) s = .next s)
    ∧ (∀ (p : Nat) (r : SitReport), r.ident = ident → s.gn.portUse p = 2 → x.reported = false → x.lost.contains p = false → x.reports = [] →
      exec (.sittingReportFrame p r) s = .next { s with gn := (s.gn.setSit { x with reports := [(p, r)] }).trySitReport ident }))

/-! ### Reduction -/

/-- R220 to R226: contributions of children, a rod that leaves when all have delivered or its wait has ended, and reduction control. -/
def Obligations.ReductionCommandsComplete : Prop :=
  (∀ (s : State) (p : Nat) (x : Summary), s.gn.fromChild p = true →
    (s.gn.frozen = false →
      exec (.summaryFrame p x) s = .next { s with gn := s.gn.contribute p true x }
      ∧ exec (.latePartialFrame p x) s = .next { s with gn := s.gn.contribute p false x }
      ∧ exec (.passThroughFrame p x) s = .next { s with gn := s.gn.contribute p false x })
    ∧ (s.gn.frozen = true →
      exec (.summaryFrame p x) s = .next { s with gn := { s.gn with parked := s.gn.parked ++ [.summary p 0 x] } }
      ∧ exec (.latePartialFrame p x) s = .next { s with gn := { s.gn with parked := s.gn.parked ++ [.summary p 1 x] } }
      ∧ exec (.passThroughFrame p x) s = .next { s with gn := { s.gn with parked := s.gn.parked ++ [.summary p 2 x] } }))
  ∧ (∀ (s : State) (r : Rod), s.gn.alive = true → s.gn.frozen = false →
    (s.gn.rd.rods.find? s.gn.rodReady = some r → exec .summaryEmit s = .next { s with gn := s.gn.emitRod r })
    ∧ (s.gn.rd.rods = [r] → r.x.win + r.x.span + s.gn.rg F.rdCfg_waitUs * 1000 ≤ s.gn.now →
      exec .summaryWaitTimeout s = .next { s with gn := s.gn.emitRod r }))
  ∧ (∀ s : State, s.gn.alive = true → s.gn.isTray = false →
    let g := { s.gn with rd := { s.gn.rd with childCtl := s.gn.advert } }
    let body := leBytes 4 s.gn.advert.1 ++ leBytes 4 (s.gn.advert.2 % 256)
    exec .reductionControlTimer s = .next { s with gn := forEach (Gn.childPorts g) (fun p g => g.sendPort p 0x33 body) g })
  ∧ (∀ (s : State) (w : Word32) (j : Nat), s.gn.alive = true → s.gn.rd.queued = [] →
    let g := (s.gn.wr F.rdStat_ptBeads w.toNat).onRd (fun d => { d with ordered := min 6 j })
    exec (.reductionControlFrame w j) s = .next { s with gn := g.checkSat.advertise })

/-! ### Broadcasts -/

/-- R229 to R234: a broadcast is posted, armed, acknowledged, re-armed, cancelled, fired and reported; a TC-2 abort is passed on once. That a cancelled
broadcast is kept until its time and its cancel then answered DUP is the model's choice (assumption log 42). -/
def Obligations.BroadcastCommandsComplete : Prop :=
  (∀ (s : State) (h : DescHdr) (bid action studio t : Nat) (v : Word), s.gn.admits 0x0F ruleS h = true → 1 ≤ action → action < 4 → studio < 16 →
    let g := s.gn.begun 0x0F h
    let a : Arm := { bid := bid, origin := g.node, action := action, rearm := false, studio := studio, tFire := t, param := v }
    g.timeValid = true → g.now + g.rg F.rdCfg_armMinUs * 1000 ≤ t → t ≤ g.now + 10000000000 →
    (g.rd.bcs.filter (fun b => b.hdr.isSome || b.armed)).length < 8 → g.bc g.node bid = none →
    exec (.broadcast h bid action studio t v) s = .next { s with gn := (g.takeArm a (some h)).1 })
  ∧ (∀ (s : State) (h : DescHdr) (bid : Nat), s.gn.admits 0x10 ruleS h = true →
    let g := s.gn.begun 0x10 h
    ((g.bc g.node bid).any (fun b => b.own != 3) = true → exec (.bcCancel h bid) s = .next { s with gn := (g.cancelBc bid g.node).complete 0x10 h stOk [] })
    ∧ ((g.bc g.node bid).any (fun b => b.own != 3) = false → exec (.bcCancel h bid) s = .next { s with gn := g.complete 0x10 h stRefused [] }))
  ∧ (∀ (s : State) (p : Nat) (a : Arm), s.gn.alive = true →
    (s.gn.fromAbove p = true → s.gn.bc a.origin a.bid = none → s.gn.now < a.tFire → s.gn.armedCount < 8 → s.gn.acc ≠ 2 → s.gn.rg F.pwState_pstate ≠ 2 →
      exec (.armFrame p a) s = .next { s with gn := (s.gn.takeArm a none).1.sendPort p 0x35 (armAckBody a.bid a.origin (s.gn.takeArm a none).1.node 0) })
    ∧ (s.gn.fromAbove p = true → (∀ b : Bc, s.gn.bc a.origin a.bid = some b → b.own ≠ 0 ∧ b.own ≠ 3) → a.tFire ≤ s.gn.now →
      let g := ((s.gn.takeArm a none).1.inc F.bcStat_late)
      exec (.armFrame p a) s = .next { s with gn := ((g.sendPort p 0x35 (armAckBody a.bid a.origin g.node 1)).fireNow a.origin a.bid).tryReport a.origin a.bid })
    ∧ (s.gn.fromAbove p = false → exec (.armFrame p a) s = .next { s with gn := s.gn.inc (F.lkErr_typeBad p) })
    ∧ (∀ bid origin : Nat,
      (s.gn.fromAbove p = true → (s.gn.bc origin bid).any (fun b => b.own == 3) = false →
        exec (.broadcastCancelFrame p bid origin) s = .next { s with gn := (s.gn.cancelBc bid origin).sendPort p 0x35 (armAckBody bid origin s.gn.node 0) })
      ∧ (s.gn.fromAbove p = true → (s.gn.bc origin bid).any (fun b => b.own == 3) = true →
        exec (.broadcastCancelFrame p bid origin) s = .next { s with gn := s.gn.sendPort p 0x35 (armAckBody bid origin s.gn.node 3) })
      ∧ (s.gn.fromAbove p = false → exec (.broadcastCancelFrame p bid origin) s = .next { s with gn := s.gn.inc (F.lkErr_typeBad p) })))
  ∧ (∀ (s : State) (p bid origin : Nat) (b : Bc), s.gn.alive = true → s.gn.bc origin bid = some b →
    (∀ n st : Nat, exec (.armAckFrame p bid origin n st) s = .next { s with gn := s.gn.setBc { b with wait := removeFirst (fun q => q.1 == p) b.wait } })
    ∧ (∀ t : Nat, (p, t) ∈ b.wait → t + 20000 ≤ s.gn.now →
      let g := s.gn.setBc { b with wait := b.wait.filter (fun q => !(q.1 == p && decide (q.2 + 20000 ≤ s.gn.now))) }
      let g1 := forEach ((g.rearmPorts p).filter g.portUp)
        (fun q g => (g.sendPort q 0x36 (armBody b.a false ++ leBytes 2 (g.peer p))).inc F.bcStat_rearm) g
      exec (.armAckTimeout p bid origin) s = .next { s with gn := g1.record prodLinks 0x0A05 3 p bid origin (g1.peer p) 0 })
    ∧ (exec (.broadcastFire bid origin) s = .next { s with gn := (s.gn.fireNow origin bid).tryReport origin bid })
    ∧ (∀ f l u n : Nat, b.reports = [] →
      exec (.fireReportFrame p bid origin f l u n) s = .next { s with gn := (s.gn.setBc { b with reports := [(p, f, l, u, n)] }).tryReport origin bid })
    ∧ (b.fired = true → b.a.tFire + s.gn.rg F.rdCfg_waitUs * 1000 * (s.gn.rg F.rdCfg_level + 1) ≤ s.gn.now →
      exec (.fireReportTimeout bid origin) s = .next { s with gn := if b.own = 3 then s.gn.dropBc origin bid else s.gn.reportBc b }))
  ∧ (∀ (s : State) (a : Arm) (failed : Nat), s.gn.alive = true →
    exec (.rearmRequestFrame a failed) s = .next { s with gn := s.gn.rearmRequest a failed })
  ∧ (∀ (s : State) (p : Nat) (a : Tc2Abort), s.gn.alive = true →
    (s.gn.flag F.rdCfg_tc2 = true → exec (.tc2AbortFrame p a) s = .next { s with gn := s.gn.abort a (some p) })
    ∧ (s.gn.flag F.rdCfg_tc2 = false → exec (.tc2AbortFrame p a) s = .next { s with gn := s.gn.inc (F.lkErr_typeBad p) }))

/-- R229, R232: when the time of an armed MAP_SWITCH has come, the pending rank table becomes the active one and its generation shows; before that
time, and once the broadcast has fired, the command that stands for its time leaves the tables alone. -/
def Obligations.MapSwitchFiresOnce : Prop :=
  (∀ (s : State) (bid origin gen : Nat) (b : Bc) (m : SMap Word32), s.gn.alive = true → s.gn.bc origin bid = some b → b.fired = false → b.own = 0 →
    b.a.action = 2 → b.a.tFire ≤ s.gn.now → s.gn.rd.pend = some (gen, m) → gen < 2 ^ 16 → s.gn.isTray = false → b.reports = [] →
    s.gn.upChildren ≠ [] →
    ∃ t, exec (.broadcastFire bid origin) s = .next t ∧ t.gn.rd.ranks = m ∧ t.gn.rd.pend = none ∧ t.gn.rg F.rdMap_gen = gen
      ∧ t.gn.rg F.rdMap_pendGen = 0 ∧ t.gn.mem = s.gn.mem ∧ t.pl = s.pl)
  ∧ (∀ (s : State) (bid origin : Nat) (b : Bc), s.gn.alive = true → s.gn.bc origin bid = some b → (b.fired = true ∨ s.gn.now < b.a.tFire) →
    s.gn.isTray = false → b.reports = [] → s.gn.upChildren ≠ [] →
    exec (.broadcastFire bid origin) s = .next s)

/-! ### The recorder -/

/-- R201, R263 to R266, R273 to R276: grants of the event ring until a producer's record has been taken in, the record of a lone producer, one of a host
die; the timers that flush and write, what waits of the fixed channel before ring pages; an acknowledged slot of the fixed channel becomes free. That in
Deep idle a record of severity 0 to 5 waits is the model's choice (assumption log 8). -/
def Obligations.RecorderCommandsComplete : Prop :=
  (∀ (s : State) (prod : Nat), s.gn.ev.outbox.any (fun e => e.1 == prod) = true →
    exec (.recordSubmit (.producer prod)) s = .next { s with gn := s.gn.grantUntil prod 25 })
  ∧ (∀ (s : State) (prod : Nat) (it : RecItem), prod < 22 → s.gn.arbHeld 131 = false → s.gn.canTake (prod, it) = true → s.gn.ev.outbox = [(prod, it)] →
    ∃ g : Gn, exec (.recordSubmit (.producer prod)) s = .next { s with gn := g.intake prod it } ∧ g.ev = { s.gn.ev with outbox := [] }
      ∧ g.mem = s.gn.mem ∧ g.out = s.gn.out
      ∧ (∀ f : FRef, f.key ≠ (F.arb_maxWait 131).key → f.key ≠ (F.arb_ptr 131).key → f.key ≠ (F.arb_starv 131).key → g.rg f = s.gn.rg f))
  ∧ (∀ (s : State) (r : RecIn), exec (.recordSubmit (.hostDie r)) s = .next { s with pl := s.pl.showPins (s.pl.hostRecord r) })
  ∧ (∀ s : State, s.gn.ev.stopped = false →
    exec .coalesceFlush s = .next { s with gn := forEach (s.gn.ev.coal.filter (fun c => decide (c.it.r.ht + 1000000 ≤ s.gn.now))) (fun c g => g.flushCoal c) s.gn })
  ∧ (∀ (s : State) (c : Nat), s.gn.alive = true → c < 16 → s.gn.ev.chunks = [c] → exec .fixedChunkFlash s = .next { s with gn := s.gn.flashChunk c })
  ∧ (∀ (s : State) (p : Page), s.gn.alive = true → oldestClosed s.gn.flashChunks.ev.pages = some p → exec .ringPageFlash s = .next { s with gn := s.gn.flashChunks.flashRing p })
  ∧ (∀ (s : State) (p : Page) (r : RingRec), s.gn.alive = true → s.gn.ev.chunks = [] → s.gn.ev.pages = [p] → p.closed = false → p.recs[p.flashed]? = some r →
    r.ht + s.gn.rg F.evCfg_ageMs * 1000000 < s.gn.now → exec .ringAgeFlash s = .next { s with gn := s.gn.flashRing p })
  ∧ (∀ (s : State) (slot : Nat), s.gn.ev.fx.any (fun x => x.slot == slot && x.inFlash) = true →
    ∃ t, exec (.fxack slot) s = .next t ∧ t.gn.ev.fx = s.gn.ev.fx.filter (fun x => x.slot != slot) ∧ (slot / 128) ∈ t.gn.ev.chunks
      ∧ t.gn.ev.flash = s.gn.ev.flash ∧ t.gn.ev.pages = s.gn.ev.pages ∧ t.gn.regs = s.gn.regs ∧ t.gn.mem = s.gn.mem ∧ t.pl = s.pl)
  ∧ (∀ (s : State) (slot : Nat), s.gn.ev.fx.any (fun x => x.slot == slot && x.inFlash) = false → exec (.fxack slot) s = .next s)

/-! ### The Plovlugo block -/

/-- R131, R134, R138, R140, R155, R156: the block's registers by either port, its resets, the palette and the sampling instant. -/
def Obligations.BlockRegisterCommandsComplete : Prop :=
  (∀ (s : State) (addr : Nat) (v : Word32) (priv : Bool), let off := addr - addr % 4
    (s.pl.linkOnly off = false → s.pl.wrote.contains (off, true) = false →
      exec (.mpRegisterWrite addr v priv) s = .next { s with pl := s.pl.showPins ((s.pl.noteWrite off false).openReg off v.toNat priv) })
    ∧ ((s.pl.linkOnly off = true ∨ s.pl.wrote.contains (off, true) = true) →
      exec (.mpRegisterWrite addr v priv) s
        = .next { s with pl := s.pl.showPins { s.pl with mpDeny := min 65535 (s.pl.mpDeny + 1), intStat := putBit s.pl.intStat 6 true } }))
  ∧ (∀ (s : State) (addr : Nat) (priv : Bool), let off := addr - addr % 4
    let r := s.pl.readWord off false
    ((priv = true ∨ s.pl.privOff off = false) →
      exec (.mpRegisterRead addr priv) s = .next { s with pl := s.pl.showPins (r.1.emitOut (.rdata r.2)) }
      ∧ exec (.plCntLowRead addr priv) s = .next { s with pl := s.pl.showPins (r.1.emitOut (.rdata r.2)) })
    ∧ (s.pl.privOff off = true →
      exec (.mpRegisterRead addr false) s = .next { s with pl := s.pl.showPins (s.pl.deny.emitOut (.rdata 0)) }
      ∧ exec (.plCntLowRead addr false) s = .next { s with pl := s.pl.showPins (s.pl.deny.emitOut (.rdata 0)) }))
  ∧ (∀ (s : State) (off : Nat) (d : List Word32), 1 ≤ d.length → d.length ≤ 64 →
    exec (.regWriteFrame off d) s = .next { s with pl := s.pl.showPins (s.pl.linkWrites (off - off % 4) d) })
  ∧ (∀ (s : State) (off : Nat) (d : List Word32), (d.length = 0 ∨ 64 < d.length) →
    exec (.regWriteFrame off d) s = .next { s with pl := s.pl.showPins { s.pl with rxBad := min 65535 (s.pl.rxBad + 1) } })
  ∧ (∀ (s : State) (off n tag : Nat), 1 ≤ n → n ≤ 64 →
    let r := s.pl.linkReads (off - off % 4) n
    exec (.regReadFrame off n tag) s = .next { s with pl := s.pl.showPins (r.1.send 0x07 0 (leBytes 2 tag ++ leBytes 2 n ++ r.2.flatMap (leBytes 4))) })
  ∧ (∀ (s : State) (off n tag : Nat), (n = 0 ∨ 64 < n) →
    exec (.regReadFrame off n tag) s = .next { s with pl := s.pl.showPins { s.pl with rxBad := min 65535 (s.pl.rxBad + 1) } })
  ∧ (∀ s : State, exec .blockReset s = .next { s with pl := s.pl.showPins { Pl.init s.pl.par with out := s.pl.out ++ s.pl.highPins } }
    ∧ exec (.softReset true false) s = exec .blockReset s ∧ exec (.softReset false true) s = exec .blockReset s
    ∧ exec (.softReset true true) s = exec .blockReset s ∧ exec (.softReset false false) s = .next s
    ∧ exec .palCommit s = .next { s with pl := s.pl.showPins { s.pl with palArmed := true } })
  ∧ (∀ (s : State) (b : Nat) (d : Word32), b < s.pl.par.nbank → b < 64 →
    let old := (SMap.get zeroWord s.pl.palPend b).toNat
    let pend := SMap.set zeroWord s.pl.palPend b (BitVec.ofNat 64 (old / 2 ^ 32 * 2 ^ 32 + d.toNat))
    exec (.palWrite (0x900 + 8 * b) d) s = .next { s with pl := s.pl.showPins { s.pl with palPend := pend, palArmed := false } })
  ∧ (∀ s : State, s.pl.valid = true → s.pl.ivl ≠ 0 →
    let p := s.pl.takePalette
    let t := p.now - p.now % p.ivl
    let n0 := (p.selected false).length
    let n1 := (p.selected true).length
    p.sampleUsed + (sampleLen n0 + sampleLen n1) ≤ 40960 →
    exec .samplingInstant s = .next { s with pl := s.pl.showPins ((Pl.buildSample { p with shadow := p.cnt } t false).buildSample t true) })

/-- R137: the lanes of one cycle are added, each as 8 bits, to the counters of their index, modulo 2^64; a lane of a bank that does not exist adds
nothing, and nothing else of the block changes. No other command changes a counter, but for a reset of the block: a write to the block may carry one. -/
def Obligations.CountersAddLanesAndNeverClear : Prop :=
  (∀ (s : State) (lanes : List (Nat × Nat)), ∃ t, exec (.counterIncrement lanes) s = .next t ∧ t.gn = s.gn ∧ t.pending = s.pending
    ∧ (∀ b j, b < s.pl.par.nbank → j < 64 → t.pl.ctr (b * 64 + j)
      = s.pl.ctr (b * 64 + j) + BitVec.ofNat 64 (((lanes.filter (fun e => e.1 == b * 64 + j)).map (fun e => e.2 % 256)).sum))
    ∧ (∀ i, s.pl.par.nbank * 64 ≤ i → t.pl.ctr i = s.pl.ctr i)
    ∧ { t.pl with cnt := s.pl.cnt } = s.pl)
  ∧ (∀ (s t : State) (c : Instr) (rest : List Instr), s.pending = c :: rest → step s = .next t → (∀ lanes, c ≠ .counterIncrement lanes) →
    t.pl.cnt = s.pl.cnt
    ∨ (t.pl.cnt = [] ∧ (c = .blockReset ∨ (∃ a b, c = .softReset a b) ∨ (∃ a v p, c = .mpRegisterWrite a v p) ∨ ∃ o d, c = .regWriteFrame o d)))

/-- R12: the read of a counter's low word latches its high word: whatever is counted in between, the next read of the high word gives the high half of
the value of which the first read gave the low half. -/
def Obligations.LowReadLatchesHighWord : Prop := ∀ (s : State) (lanes : List (Nat × Nat)), s.pl.cntIdx < s.pl.nctr → s.pl.par.nbank ≤ 64 →
  let v := (s.pl.ctr s.pl.cntIdx).toNat
  ∃ t u w, exec (.plCntLowRead 0xB04 true) s = .next t ∧ t.pl.out = s.pl.out ++ [.rdata (v % 2 ^ 32)]
    ∧ exec (.counterIncrement lanes) t = .next u ∧ exec (.mpRegisterRead 0xB08 true) u = .next w
    ∧ w.pl.out = u.pl.out ++ [.rdata (v / 2 ^ 32)] ∧ w.pl.cnt = u.pl.cnt ∧ w.gn = s.gn

/-- R141 to R148, R178, R180: a sitting is held, captured, released; FREEZE expires; trace words, bursts, stamps and frames; the low-power handshake. -/
def Obligations.BlockSittingAndTraceComplete : Prop :=
  (∀ (s : State) (ident t : Nat), s.pl.valid = true → s.pl.now < t → s.pl.sitReqs.any (fun e => e.1 == ident) = false → s.pl.sitReqs.length < 8 →
    exec (.blockSittingRequest ident t) s = .next { s with pl := s.pl.showPins { s.pl with sitReqs := s.pl.sitReqs ++ [(ident, t)] } })
  ∧ (∀ (s : State) (t : Nat), let ids := (s.pl.sitReqs.filter (fun e => e.2 == t)).map (·.1)
    let p := { s.pl with sitReqs := s.pl.sitReqs.filter (fun e => e.2 != t) }
    let q := { p with sitShadow := p.cnt, images := p.images ++ [t] }
    ids ≠ [] → t ≤ s.pl.now → s.pl.images.length < 2 →
    exec (.sittingCapture t) s = .next { s with pl := s.pl.showPins (forEach ids (fun i p => p.captureOne t i) q) })
  ∧ (∀ (s : State) (ident : Nat),
    exec (.sittingRelease ident false) s = .next { s with pl := s.pl.showPins { s.pl with frzs := s.pl.frzs.filter (fun e => e != ident) } }
    ∧ exec (.sittingRelease ident true) s
      = .next { s with pl := s.pl.showPins (Pl.dropImage { s.pl with frzs := s.pl.frzs.filter (fun e => e != ident),
                                                                     sitReqs := s.pl.sitReqs.filter (fun e => e.1 != ident) } ident) })
  ∧ (∀ s : State, s.pl.frzs ≠ [] →
    (s.pl.frzSince + s.pl.frzMaxUs * 1000 ≤ s.pl.now →
      exec .freezeExpiry s
        = .next { s with pl := s.pl.showPins (Pl.record { s.pl with frzs := [] } 0x0702 3 s.pl.frzSit s.pl.frzMaxUs (lo32 s.pl.frzSince) (hi32 s.pl.frzSince) 0) })
    ∧ (s.pl.now < s.pl.frzSince + s.pl.frzMaxUs * 1000 → exec .freezeExpiry s = .next s))
  ∧ (∀ (s : State) (c kind : Nat) (d : BitVec 48), s.pl.trEn = true → c < s.pl.par.ncore → kind < 0xC → (s.pl.core c).lost = 0 →
    (s.pl.core c).used + 3 ≤ 252 →
    exec (.traceWord c kind d) s = .next { s with pl := s.pl.showPins ((s.pl.storeWord c kind d).restall c) })
  ∧ (∀ (s : State) (c : Nat) (i : TrItem) (l : List TrItem), s.pl.dmaCore = some c → (s.pl.core c).items = i :: l →
    (∀ x : Pl, s.pl.circPut c i = some x →
      exec .traceBurstDma s = .next { s with pl := s.pl.showPins ((Pl.popItem { x with dmaLast := c } c).lpSettle c) })
    ∧ (s.pl.circPut c i = none → exec .traceBurstDma s = .next s))
  ∧ (∀ s : State, s.pl.valid = true → s.pl.stampEnd < s.pl.written → s.pl.stampPend = [] →
    exec .stampMarkerTimer s = .next { s with pl := s.pl.showPins s.pl.sitStamp })
  ∧ (∀ s : State, s.pl.trMode = false → s.pl.circ ≠ [] →
    let w := takeWords 509 s.pl.circ
    let p := Pl.send { s.pl with circ := w.2 } 0x13 3 (wordBytes w.1)
    exec .traceFrameShip s = .next { s with pl := s.pl.showPins (p.stampsDue s.pl.stampPend) })
  ∧ (∀ (s : State) (n : Nat), n % 64 = 0 → n ≤ s.pl.trBytes → s.pl.trMode = true →
    let cs := (trimChunks n s.pl.circ).1
    cs ≠ [] → exec (.traceExtract n) s = .next { s with pl := s.pl.showPins (s.pl.queue { s.pl.item 0x15 3 [] with chunks := cs }) })
  ∧ (∀ (s : State) (n : Nat), (n % 64 ≠ 0 ∨ s.pl.trBytes < n) →
    exec (.traceExtract n) s = .next { s with pl := s.pl.showPins { s.pl with rxBad := min 65535 (s.pl.rxBad + 1) } })
  ∧ (∀ (s : State) (c : Nat), c < s.pl.par.ncore → (s.pl.core c).items = [] → s.pl.trEn = false → (s.pl.core c).lp = .on →
    ∃ t, exec (.lpEntry c) s = .next t ∧ t.gn = s.gn ∧ (t.pl.core c).lp = .asleep ∧ t.pl.out = s.pl.out ++ [.pin pinLpAck (2 * c + 1)]
      ∧ (∀ d, d ≠ c → t.pl.core d = s.pl.core d))
  ∧ (∀ (s : State) (c since : Nat), (s.pl.core c).lp = .entering since → exec (.lpEntryTimeout c) s = .next { s with pl := s.pl.showPins (s.pl.lpTimeout c) })
  ∧ (∀ (s : State) (c : Nat), c < s.pl.par.ncore → (s.pl.core c).lp ≠ .on → s.pl.trEn = false →
    ∃ t, exec (.lpExit c) s = .next t ∧ t.gn = s.gn ∧ (t.pl.core c).lp = .on ∧ t.pl.out = s.pl.out ++ [.pin pinLpAck (2 * c)]
      ∧ (∀ d, d ≠ c → t.pl.core d = s.pl.core d))

/-- R110, R149 to R153: pulses, progress records and stalls; seeds, selection, shipping, verdicts, re-export, replay; the watermark. -/
def Obligations.BlockProgressAndProofComplete : Prop :=
  (∀ (s : State) (n : Nat), n < s.pl.par.nmon → (s.pl.mon n).stalled = false → (s.pl.mon n).report = false → (s.pl.mon n).pend = false →
    exec (.progressPulse n) s
      = .next { s with pl := s.pl.showPins (s.pl.setMon n { s.pl.mon n with count := ((s.pl.mon n).count + 1) % 2 ^ 32, last := s.pl.now, since := s.pl.now }) })
  ∧ (∀ (s : State) (n : Nat), (s.pl.mon n).pend = true → (s.pl.mon n).ready s.pl.now = true →
    exec (.progressRecordSend n) s = .next { s with pl := s.pl.showPins (s.pl.progress n (s.pl.mon n).last (if (s.pl.mon n).recov then 2 else 0)) })
  ∧ (∀ (s : State) (n : Nat), n < s.pl.par.nmon → (s.pl.mon n).en = true → (s.pl.mon n).stalled = false →
    (s.pl.mon n).since + (s.pl.mon n).winMs * 1000000 ≤ s.pl.now →
    let m := s.pl.mon n
    let p := (s.pl.setMon n { m with stalled := true }).progress n (m.since + m.winMs * 1000000) 1
    let p := p.record 0x0703 4 n m.winMs (lo32 m.since) (hi32 m.since) m.count
    exec (.progressStall n) s
      = .next { s with pl := s.pl.showPins (Pl.raise { p with pgStall := putBit p.pgStall n true } 1) })
  ∧ (∀ (s : State) (ep dl k : Nat) (sd : BitVec 128), (k = 0 ∨ (3 ≤ k ∧ k ≤ 20)) →
    exec (.seedFrame ep dl k sd) s = .next { s with pl := s.pl.showPins (s.pl.storeSeed { epoch := ep, seed := sd, k := k, deadlineUs := dl }) })
  ∧ (∀ (s : State) (i : PxId) (e : PlSeed), s.pl.par.px = true → s.pl.valid = true → s.pl.seeds.find? (fun e => e.epoch == i.epoch) = some e → e.k ≠ 0 →
    selected e.seed e.k (pxIdent i) s.pl.par.site = true → s.pl.exps.length < 8 → s.pl.rpQ.length < 8 →
    let x : PlExp := { id := i, seq := s.pl.nextSeq, attempt := 0, htDone := none, deadlineUs := e.deadlineUs, rex := .none }
    let p := { s.pl with exps := s.pl.exps ++ [x], inStream := s.pl.inStream ++ [s.pl.nextSeq], nextSeq := (s.pl.nextSeq + 1) % 2 ^ 32 }
    exec (.pxIdentity i) s = .next { s with pl := s.pl.showPins (Pl.emitOut p (.pin pinSel (1 + 2 * s.pl.nextSeq))) })
  ∧ (∀ (s : State) (i : PxId) (x : PlExp), s.pl.par.px = true → s.pl.exps.find? (fun x => pxSame x.id i && x.rex == .outstanding) = some x →
    let p := s.pl.onExp x.seq (fun y => { y with rex := .streaming, attempt := 1 })
    let p := { p with rexQ := s.pl.rexQ.filter (fun q => q != x.seq), inStream := s.pl.inStream ++ [x.seq] }
    exec (.pxReexportIdentity i) s = .next { s with pl := s.pl.showPins (Pl.emitOut p (.pin pinSel (1 + 2 * x.seq))) })
  ∧ (∀ (s : State) (fmt kred nout seq : Nat) (l : List Nat) (a e : List Byte) (x : PlExp), s.pl.inStream = seq :: l → s.pl.exps.find? (fun x => x.seq == seq) = some x →
    let y := if x.attempt = 0 then { x with htDone := some s.pl.now } else { x with rex := .done }
    let data := exportHeader y s.pl.par.site fmt kred nout a e ++ a ++ e
    let n := ceilDiv data.length partMax
    let p := { s.pl with inStream := l }
    exec (.pxStreamEnd fmt kred nout a e) s = .next { s with pl := s.pl.showPins ((Pl.onExp p seq (fun _ => y)).shipParts y data n n) })
  ∧ (∀ (s : State) (b : List Byte) (x : PlExp), b.length = 32 → u8 b 20 % 8 ≠ 7 → s.pl.exps.find? (fun x => x.seq == u32 b 16) = some x →
    exec (.verdictFrame b) s = .next { s with pl := s.pl.showPins (s.pl.judge x (u8 b 20 % 8)) })
  ∧ (∀ (s : State) (b : List Byte), (b.length ≠ 32 ∨ u8 b 20 % 8 = 7 ∨ s.pl.exps.find? (fun x => x.seq == u32 b 16) = none) →
    exec (.verdictFrame b) s = .next { s with pl := s.pl.showPins { s.pl with vdUnknown := min 255 (s.pl.vdUnknown + 1) } })
  ∧ (∀ (s : State) (seq : Nat) (l : List Nat), s.pl.rexQ = seq :: l → 
    exec .pxRexGone s = .next { s with pl := s.pl.showPins (Pl.release { s.pl with q := s.pl.q.filter (fun it => !(it.typ == 0x20 && it.key == seq)) } seq) })
  ∧ (∀ (s : State) (seq : Word32) (x : PlExp) (t : Nat), s.pl.exps.find? (fun x => x.seq == seq.toNat) = some x → x.htDone = some t →
    t + s.pl.deadline x * 1000 + 20000 ≤ s.pl.now → exec (.exportSlotTimeout seq) s = .next { s with pl := s.pl.showPins (s.pl.release seq.toNat) })
  ∧ (∀ s : State, s.pl.rpUp = true → exec .rpAck s = .next { s with pl := s.pl.showPins { s.pl with rpQ := s.pl.rpQ.drop 1, rpUp := false, rpLow := true } })
  ∧ (∀ s : State, s.pl.par.px = true → s.pl.exps ≠ [] →
    exec .watermarkKeepalive s = .next { s with pl := s.pl.showPins (s.pl.queue (s.pl.item 0x00 0 (leBytes 4 s.pl.watermark))) })

/-! ### Tally arithmetic -/

/-- R34: a tally starts at FINITE with T = 0 and combines special states by the table; T is the sum of the placed products modulo 2^192; so the tally of
the same products in another order is the same, and so is the merge of the tallies of the two halves of any split. -/
def Obligations.TallyIndependentOfOrder : Prop :=
  (Sp.combine .finite .finite = .finite ∧ Sp.combine .pinf .pinf = .pinf ∧ Sp.combine .ninf .ninf = .ninf ∧ Sp.combine .pinf .ninf = .nan
    ∧ Sp.combine .ninf .pinf = .nan ∧ ∀ a, Sp.combine .finite a = a ∧ Sp.combine a .finite = a ∧ Sp.combine .nan a = .nan ∧ Sp.combine a .nan = .nan)
  ∧ (∀ a b c : Sp, a.combine b = b.combine a ∧ (a.combine b).combine c = a.combine (b.combine c))
  ∧ (∀ g : Int, (Tally.empty g).t = 0 ∧ (Tally.empty g).st = .finite ∧ (Tally.empty g).g = g ∧ (Tally.empty g).cnt = 0)
  ∧ (∀ (fa fb : Nat) (y : Tally) (ca sa cb sb : Nat), let ea := decodeElem fa ca
    let eb := decodeElem fb cb
    let z := y.product fa ca sa fb cb sb
    let bad := (isMx fa && sa == 0xFF) || (isMx fb && sb == 0xFF)
    let st := if bad = true then Sp.nan else productState ea.1 ea.2.1 eb.1 eb.2.1
    let x := (if isMx fa = true then (sa : Int) - 127 else 0) + (if isMx fb = true then (sb : Int) - 127 else 0)
    z.g = y.g ∧ z.cnt = y.cnt + 1 ∧ z.st = y.st.combine st
    ∧ z.t = y.t + (if st = .finite ∧ ea.2.1 ≠ 0 ∧ eb.2.1 ≠ 0 then BitVec.ofInt 192 (place (ea.2.1 * eb.2.1) (ea.2.2 + eb.2.2 + x) y.g) else 0))
  ∧ (∀ (fa fb : Nat) (g : Int) (l m : List (Nat × Nat × Nat × Nat)),
    let sum := fun (l : List (Nat × Nat × Nat × Nat)) => l.foldl (fun y e => y.product fa e.1 e.2.1 fb e.2.2.1 e.2.2.2) (Tally.empty g)
    (l.Perm m → sum l = sum m)
    ∧ (l.length + m.length ≤ 2 ^ 40 - 1 → (sum l).merge (sum m) = some (sum (l ++ m))))

/-- R40: an MXINT8 element is the tally's value × 2^(6 − X), rounded to nearest even and clamped to ±127, a clamped element counting 1 in `sat_clamp`; it
is never 0x80, which an input may be; a block whose scale is clamped at 127 counts 1 more. -/
def Obligations.Int8OutputRoundsAndClamps : Prop :=
  (∀ (y : Tally) (x : Int), y.st = .finite →
    let e := y.g - 151 + 6 - x
    ∃ r : Int, (0 ≤ e → r = y.t.toInt * 2 ^ e.toNat)
      ∧ (e < 0 → 2 * (y.t.toInt - r * 2 ^ (-e).toNat) ≤ 2 ^ (-e).toNat ∧ -(2 ^ (-e).toNat : Int) ≤ 2 * (y.t.toInt - r * 2 ^ (-e).toNat)
        ∧ (2 * (y.t.toInt - r * 2 ^ (-e).toNat) = 2 ^ (-e).toNat ∨ 2 * (y.t.toInt - r * 2 ^ (-e).toNat) = -(2 ^ (-e).toNat : Int) → r % 2 = 0))
      ∧ ((y.toMxElem 5 x).1 : Int) = (max (-127) (min 127 r)) % 256
      ∧ (y.toMxElem 5 x).2.1 = (if 127 < r ∨ r < -127 then 1 else 0) ∧ (y.toMxElem 5 x).2.2 = 0)
  ∧ (∀ (y : Tally) (x : Int), (y.toMxElem 5 x).1 ≠ 0x80) ∧ decodeElem 5 0x80 = (.finite, -128, -6)
  ∧ (∀ ys : List Tally, let b := mxBlock 5 ys
    b.2.2.1 = (if ∃ y ∈ ys, ∃ k, y.floorLog2 = some k ∧ 127 < k then 1 else 0) + (ys.map (fun y => (y.toMxElem 5 ((b.1 : Int) - 127)).2.1)).sum)

/-! ### The whole machine -/

/-- A step takes the command at the front of the queue and runs it on the state with the queue's rest; on an empty queue the block idles (the model's
choice, assumption log 1). -/
def Obligations.StepRunsFront : Prop :=
  (∀ (s : State) (c : Instr) (rest : List Instr), step { s with pending := c :: rest } = exec c { s with pending := rest })
  ∧ (∀ s : State, s.pending = [] → step s = .next s)

/-- What the register tables and the chapters give at reset: not READY, time not valid, no dump, no studio, Run, no record kept, the block's registers;
and the invariants stated below hold there. -/
def Obligations.ResetHolds : Prop :=
  State.reset.pending = [] ∧ (∀ f : FRef, State.reset.gn.rg f = regDefault f.key) ∧ State.reset.gn.rg F.buStat_phase = 0
  ∧ State.reset.gn.timeValid = false ∧ State.reset.gn.rg F.pwState_pstate = 0 ∧ State.reset.gn.rg F.scStat_dbg = 0 ∧ (∀ n < 15, State.reset.gn.rg (F.scStu_st (n + 1)) = 0)
  ∧ State.reset.gn.rg F.hgDump_state = 0 ∧ State.reset.gn.hq.owed = [] ∧ State.reset.gn.ev.outbox = [] ∧ State.reset.gn.sc.keys = []
  ∧ State.reset.pl.valid = false ∧ State.reset.pl.frzMaxUs = 0x3E8 ∧ State.reset.pl.watermark = 0xFFFFFFFF ∧ (∀ i, State.reset.pl.ctr i = 0)
  ∧ State.reset.pl.tagValid = false ∧ State.reset.memWf = true ∧ State.reset.pl.bounded

/-- R110, R141, R142, R151, R153, R154: whatever command a step runs, the block's stores stay within the bounds the manual gives them. -/
def Obligations.StepKeepsBlockBounds : Prop := ∀ s t : State, s.pl.bounded → step s = .next t → t.pl.bounded

/-- R158: no step takes the block's count of hall time back, unless its command resets the block: a block reset, a soft reset, or a register write that
may carry one. -/
def Obligations.BlockTimeNeverDecreases : Prop := ∀ (s t : State), step s = .next t →
  (∀ c rest, s.pending = c :: rest → c ≠ .blockReset ∧ (∀ a b, c ≠ .softReset a b) ∧ (∀ a v p, c ≠ .mpRegisterWrite a v p)
    ∧ (∀ o d, c ≠ .regWriteFrame o d)) →
  s.pl.tm.fix ≤ t.pl.tm.fix
end

