-- ==== Sys2Proof/Laws/SMap.lean ====
section
/-! SUPPORT. Laws of the sparse maps: what a read gives after a write, and that a write keeps the canonical form. -/

namespace Sys2Proof.Machine

set_option Elab.async false

variable {V : Type}

theorem SMap.get_del_ne (d : Nat → V) (m : SMap V) {k j : Nat} (h : j ≠ k) : SMap.get d (m.del k) j = SMap.get d m j := by
  induction m with
  | nil => rfl
  | cons e m ih =>
    obtain ⟨a, x⟩ := e
    by_cases ha : a = k
    · subst ha
      have : SMap.del ((a, x) :: m) a = SMap.del m a := by simp [SMap.del]
      rw [this, ih]; simp [SMap.get, Ne.symm h]
    · have : SMap.del ((a, x) :: m) k = (a, x) :: SMap.del m k := by simp [SMap.del, ha]
      rw [this]; simp only [SMap.get]; rw [ih]

theorem SMap.get_del_self (d : Nat → V) (m : SMap V) (k : Nat) : SMap.get d (m.del k) k = d k := by
  induction m with
  | nil => rfl
  | cons e m ih =>
    obtain ⟨a, x⟩ := e
    by_cases ha : a = k
    · subst ha
      have : SMap.del ((a, x) :: m) a = SMap.del m a := by simp [SMap.del]
      rw [this, ih]
    · have : SMap.del ((a, x) :: m) k = (a, x) :: SMap.del m k := by simp [SMap.del, ha]
      rw [this]; simp only [SMap.get]; rw [ih, if_neg ha]

theorem SMap.get_ins_ne (d : Nat → V) (m : SMap V) {k j : Nat} (v : V) (h : j ≠ k) : SMap.get d (m.ins k v) j = SMap.get d m j := by
  induction m with
  | nil => simp [SMap.ins, SMap.get, Ne.symm h]
  | cons e m ih =>
    obtain ⟨a, x⟩ := e
    simp only [SMap.ins]
    split
    · simp [SMap.get, Ne.symm h]
    · simp only [SMap.get]; rw [ih]

theorem SMap.get_ins_self (d : Nat → V) (m : SMap V) (k : Nat) (v : V) (h : ∀ e ∈ m, e.1 ≠ k) : SMap.get d (m.ins k v) k = v := by
  induction m with
  | nil => simp [SMap.ins, SMap.get]
  | cons e m ih =>
    obtain ⟨a, x⟩ := e
    have ha : a ≠ k := h (a, x) (by simp)
    simp only [SMap.ins]
    split
    · simp [SMap.get]
    · simp only [SMap.get]; rw [if_neg ha, ih (fun e he => h e (by simp [he]))]

/-- A write drops the key and puts it back unless the value is what an unlisted key reads as. -/
theorem SMap.set_eq [DecidableEq V] (d : Nat → V) (m : SMap V) (k : Nat) (v : V) :
    SMap.set d m k v = if v = d k then m.del k else (m.del k).ins k v := by
  cases m <;> rfl

/-- Read after a write to the same key. -/
@[simp] theorem SMap.get_set_self [DecidableEq V] (d : Nat → V) (m : SMap V) (k : Nat) (v : V) :
    SMap.get d (SMap.set d m k v) k = v := by
  rw [SMap.set_eq]
  split
  · rename_i h; rw [SMap.get_del_self, h]
  · exact SMap.get_ins_self d _ k v (by intro e he; simp [SMap.del] at he; exact he.2)

/-- A write leaves every other key alone. -/
theorem SMap.get_set_ne [DecidableEq V] (d : Nat → V) (m : SMap V) {k j : Nat} (v : V) (h : j ≠ k) :
    SMap.get d (SMap.set d m k v) j = SMap.get d m j := by
  rw [SMap.set_eq]
  split
  · exact SMap.get_del_ne d m h
  · rw [SMap.get_ins_ne d _ v h, SMap.get_del_ne d m h]

/-- Both together. -/
theorem SMap.get_set [DecidableEq V] (d : Nat → V) (m : SMap V) (k j : Nat) (v : V) :
    SMap.get d (SMap.set d m k v) j = if j = k then v else SMap.get d m j := by
  by_cases h : j = k
  · subst h; simp
  · rw [SMap.get_set_ne d m v h, if_neg h]

theorem SMap.rising_mono {lo lo' : Nat} (h : lo' ≤ lo) {m : SMap V} (w : SMap.rising lo m = true) : SMap.rising lo' m = true := by
  cases m with
  | nil => rfl
  | cons e m =>
    obtain ⟨a, x⟩ := e
    simp only [SMap.rising, Bool.and_eq_true, decide_eq_true_eq] at w ⊢
    exact ⟨Nat.le_trans h w.1, w.2⟩

theorem SMap.rising_del (m : SMap V) (k : Nat) : ∀ lo, SMap.rising lo m = true → SMap.rising lo (m.del k) = true := by
  induction m with
  | nil => intro lo _; rfl
  | cons e m ih =>
    obtain ⟨a, x⟩ := e
    intro lo w
    simp only [SMap.rising, Bool.and_eq_true, decide_eq_true_eq] at w
    by_cases ha : a = k
    · have : SMap.del ((a, x) :: m) k = SMap.del m k := by simp [SMap.del, ha]
      rw [this]; exact SMap.rising_mono (by omega) (ih _ w.2)
    · have : SMap.del ((a, x) :: m) k = (a, x) :: SMap.del m k := by simp [SMap.del, ha]
      rw [this]; simp only [SMap.rising, Bool.and_eq_true, decide_eq_true_eq]; exact ⟨w.1, ih _ w.2⟩

theorem SMap.rising_ins (m : SMap V) (k : Nat) (v : V) (hk : ∀ e ∈ m, e.1 ≠ k) :
    ∀ lo, lo ≤ k → SMap.rising lo m = true → SMap.rising lo (m.ins k v) = true := by
  induction m with
  | nil => intro lo h _; simp [SMap.ins, SMap.rising, h]
  | cons e m ih =>
    obtain ⟨a, x⟩ := e
    intro lo h w
    have ha : a ≠ k := hk (a, x) (by simp)
    simp only [SMap.rising, Bool.and_eq_true, decide_eq_true_eq] at w
    simp only [SMap.ins]
    split
    · simp only [SMap.rising, Bool.and_eq_true, decide_eq_true_eq]; exact ⟨h, by omega, w.2⟩
    · simp only [SMap.rising, Bool.and_eq_true, decide_eq_true_eq]
      exact ⟨w.1, ih (fun e he => hk e (by simp [he])) _ (by omega) w.2⟩

theorem SMap.mem_ins {m : SMap V} {k : Nat} {v : V} {e : Nat × V} : e ∈ m.ins k v → e = (k, v) ∨ e ∈ m := by
  induction m with
  | nil => simp [SMap.ins]
  | cons f m ih =>
    obtain ⟨a, x⟩ := f
    simp only [SMap.ins]
    split
    · simp
    · intro h
      rcases List.mem_cons.1 h with h | h
      · exact .inr (by simp [h])
      · rcases ih h with h | h
        · exact .inl h
        · exact .inr (by simp [h])

/-- A write keeps the canonical form. -/
theorem SMap.wf_set [DecidableEq V] {d : Nat → V} {m : SMap V} (k : Nat) (v : V) (w : SMap.wf d m = true) :
    SMap.wf d (SMap.set d m k v) = true := by
  simp only [SMap.wf, Bool.and_eq_true, List.all_eq_true, decide_eq_true_eq] at w ⊢
  rw [SMap.set_eq]
  split
  · exact ⟨SMap.rising_del m k 0 w.1, fun e he => w.2 e (by simp [SMap.del] at he; exact he.1)⟩
  · rename_i hv
    refine ⟨SMap.rising_ins _ k v (by intro e he; simp [SMap.del] at he; exact he.2) 0 (by omega) (SMap.rising_del m k 0 w.1), ?_⟩
    intro e he
    rcases SMap.mem_ins he with rfl | he
    · exact hv
    · exact w.2 e (by simp [SMap.del] at he; exact he.1)

/-- A run of writes keeps the canonical form. -/
theorem SMap.wf_setList [DecidableEq V] {d : Nat → V} (vs : List V) : ∀ {m : SMap V} (k : Nat), SMap.wf d m = true →
    SMap.wf d (SMap.setList d m k vs) = true := by
  induction vs with
  | nil => intro m k w; exact w
  | cons v vs ih => intro m k w; exact ih (k + 1) (SMap.wf_set k v w)

/-- Dropping entries keeps the canonical form. -/
theorem SMap.rising_filter (p : Nat × V → Bool) (m : SMap V) : ∀ lo, SMap.rising lo m = true → SMap.rising lo (m.filter p) = true := by
  induction m with
  | nil => intro lo _; rfl
  | cons e m ih =>
    obtain ⟨a, x⟩ := e
    intro lo w
    simp only [SMap.rising, Bool.and_eq_true, decide_eq_true_eq] at w
    simp only [List.filter_cons]
    split
    · simp only [SMap.rising, Bool.and_eq_true, decide_eq_true_eq]; exact ⟨w.1, ih _ w.2⟩
    · exact SMap.rising_mono (by omega) (ih _ w.2)

/-- A run of writes leaves the keys outside it alone. -/
theorem SMap.get_setList_out [DecidableEq V] (d : Nat → V) (vs : List V) : ∀ (m : SMap V) (k j : Nat), (j < k ∨ k + vs.length ≤ j) →
    SMap.get d (SMap.setList d m k vs) j = SMap.get d m j := by
  induction vs with
  | nil => intro m k j _; rfl
  | cons v vs ih =>
    intro m k j h
    simp only [List.length_cons] at h
    show SMap.get d (SMap.setList d (SMap.set d m k v) (k + 1) vs) j = _
    rw [ih _ _ _ (by omega), SMap.get_set_ne d m v (by omega)]

/-- A run of writes puts its i-th value at its i-th key. -/
theorem SMap.get_setList_in [DecidableEq V] (d : Nat → V) (vs : List V) : ∀ (m : SMap V) (k i : Nat) (h : i < vs.length),
    SMap.get d (SMap.setList d m k vs) (k + i) = vs[i] := by
  induction vs with
  | nil => intro m k i h; simp at h
  | cons v vs ih =>
    intro m k i h
    show SMap.get d (SMap.setList d (SMap.set d m k v) (k + 1) vs) (k + i) = _
    cases i with
    | zero => rw [SMap.get_setList_out d vs _ _ _ (by omega)]; simp
    | succ i =>
      have := ih (SMap.set d m k v) (k + 1) i (by simpa using h)
      rw [show k + (i + 1) = k + 1 + i by omega, this]; simp

end Sys2Proof.Machine
end

