-- ==== Sys2Proof/Laws/State.lean ====
section
/-! SUPPORT. One lemma per field per update, true by rfl (written `(rfl)`, so that simp rewrites with them and no proof makes the kernel compare register maps): what an update of the state leaves of every field it does not write. -/

namespace Sys2Proof.Machine

/-! ### The two sides of the machine -/

@[simp] theorem State.onGn_pending (s : State) (f : Gn → Gn) : (s.onGn f).pending = s.pending := (rfl)
@[simp] theorem State.onGn_gn (s : State) (f : Gn → Gn) : (s.onGn f).gn = f s.gn := (rfl)
@[simp] theorem State.onGn_pl (s : State) (f : Gn → Gn) : (s.onGn f).pl = s.pl := (rfl)
@[simp] theorem State.onPl_pending (s : State) (f : Pl → Pl) : (s.onPl f).pending = s.pending := (rfl)
@[simp] theorem State.onPl_gn (s : State) (f : Pl → Pl) : (s.onPl f).gn = s.gn := (rfl)
@[simp] theorem State.onPl_pl (s : State) (f : Pl → Pl) : (s.onPl f).pl = f s.pl := (rfl)


/-! ### Writes of a register field -/

@[simp] theorem Gn.wr_msix (g : Gn) (f : FRef) (v : Nat) : (g.wr f v).msix = g.msix := (rfl)
@[simp] theorem Gn.wr_lastRst (g : Gn) (f : FRef) (v : Nat) : (g.wr f v).lastRst = g.lastRst := (rfl)
@[simp] theorem Gn.wr_ev (g : Gn) (f : FRef) (v : Nat) : (g.wr f v).ev = g.ev := (rfl)
@[simp] theorem Gn.wr_hq (g : Gn) (f : FRef) (v : Nat) : (g.wr f v).hq = g.hq := (rfl)
@[simp] theorem Gn.wr_pw (g : Gn) (f : FRef) (v : Nat) : (g.wr f v).pw = g.pw := (rfl)
@[simp] theorem Gn.wr_sc (g : Gn) (f : FRef) (v : Nat) : (g.wr f v).sc = g.sc := (rfl)
@[simp] theorem Gn.wr_hg (g : Gn) (f : FRef) (v : Nat) : (g.wr f v).hg = g.hg := (rfl)
@[simp] theorem Gn.wr_lk (g : Gn) (f : FRef) (v : Nat) : (g.wr f v).lk = g.lk := (rfl)
@[simp] theorem Gn.wr_tm (g : Gn) (f : FRef) (v : Nat) : (g.wr f v).tm = g.tm := (rfl)
@[simp] theorem Gn.wr_isls (g : Gn) (f : FRef) (v : Nat) : (g.wr f v).isls = g.isls := (rfl)
@[simp] theorem Gn.wr_wins (g : Gn) (f : FRef) (v : Nat) : (g.wr f v).wins = g.wins := (rfl)
@[simp] theorem Gn.wr_sits (g : Gn) (f : FRef) (v : Nat) : (g.wr f v).sits = g.sits := (rfl)
@[simp] theorem Gn.wr_parked (g : Gn) (f : FRef) (v : Nat) : (g.wr f v).parked = g.parked := (rfl)
@[simp] theorem Gn.wr_rd (g : Gn) (f : FRef) (v : Nat) : (g.wr f v).rd = g.rd := (rfl)
@[simp] theorem Gn.wr_sq (g : Gn) (f : FRef) (v : Nat) : (g.wr f v).sq = g.sq := (rfl)
@[simp] theorem Gn.wr_ar (g : Gn) (f : FRef) (v : Nat) : (g.wr f v).ar = g.ar := (rfl)
@[simp] theorem Gn.wr_ts (g : Gn) (f : FRef) (v : Nat) : (g.wr f v).ts = g.ts := (rfl)
@[simp] theorem Gn.wr_pf (g : Gn) (f : FRef) (v : Nat) : (g.wr f v).pf = g.pf := (rfl)
@[simp] theorem Gn.wr_hl (g : Gn) (f : FRef) (v : Nat) : (g.wr f v).hl = g.hl := (rfl)
@[simp] theorem Gn.wr_free (g : Gn) (f : FRef) (v : Nat) : (g.wr f v).free = g.free := (rfl)
@[simp] theorem Gn.wr_out (g : Gn) (f : FRef) (v : Nat) : (g.wr f v).out = g.out := (rfl)
@[simp] theorem Gn.wr_mem (g : Gn) (f : FRef) (v : Nat) : (g.wr f v).mem = g.mem := (rfl)
@[simp] theorem Gn.put_msix (g : Gn) (f : FRef) (b : Bool) : (g.put f b).msix = g.msix := (rfl)
@[simp] theorem Gn.put_lastRst (g : Gn) (f : FRef) (b : Bool) : (g.put f b).lastRst = g.lastRst := (rfl)
@[simp] theorem Gn.put_ev (g : Gn) (f : FRef) (b : Bool) : (g.put f b).ev = g.ev := (rfl)
@[simp] theorem Gn.put_hq (g : Gn) (f : FRef) (b : Bool) : (g.put f b).hq = g.hq := (rfl)
@[simp] theorem Gn.put_pw (g : Gn) (f : FRef) (b : Bool) : (g.put f b).pw = g.pw := (rfl)
@[simp] theorem Gn.put_sc (g : Gn) (f : FRef) (b : Bool) : (g.put f b).sc = g.sc := (rfl)
@[simp] theorem Gn.put_hg (g : Gn) (f : FRef) (b : Bool) : (g.put f b).hg = g.hg := (rfl)
@[simp] theorem Gn.put_lk (g : Gn) (f : FRef) (b : Bool) : (g.put f b).lk = g.lk := (rfl)
@[simp] theorem Gn.put_tm (g : Gn) (f : FRef) (b : Bool) : (g.put f b).tm = g.tm := (rfl)
@[simp] theorem Gn.put_isls (g : Gn) (f : FRef) (b : Bool) : (g.put f b).isls = g.isls := (rfl)
@[simp] theorem Gn.put_wins (g : Gn) (f : FRef) (b : Bool) : (g.put f b).wins = g.wins := (rfl)
@[simp] theorem Gn.put_sits (g : Gn) (f : FRef) (b : Bool) : (g.put f b).sits = g.sits := (rfl)
@[simp] theorem Gn.put_parked (g : Gn) (f : FRef) (b : Bool) : (g.put f b).parked = g.parked := (rfl)
@[simp] theorem Gn.put_rd (g : Gn) (f : FRef) (b : Bool) : (g.put f b).rd = g.rd := (rfl)
@[simp] theorem Gn.put_sq (g : Gn) (f : FRef) (b : Bool) : (g.put f b).sq = g.sq := (rfl)
@[simp] theorem Gn.put_ar (g : Gn) (f : FRef) (b : Bool) : (g.put f b).ar = g.ar := (rfl)
@[simp] theorem Gn.put_ts (g : Gn) (f : FRef) (b : Bool) : (g.put f b).ts = g.ts := (rfl)
@[simp] theorem Gn.put_pf (g : Gn) (f : FRef) (b : Bool) : (g.put f b).pf = g.pf := (rfl)
@[simp] theorem Gn.put_hl (g : Gn) (f : FRef) (b : Bool) : (g.put f b).hl = g.hl := (rfl)
@[simp] theorem Gn.put_free (g : Gn) (f : FRef) (b : Bool) : (g.put f b).free = g.free := (rfl)
@[simp] theorem Gn.put_out (g : Gn) (f : FRef) (b : Bool) : (g.put f b).out = g.out := (rfl)
@[simp] theorem Gn.put_mem (g : Gn) (f : FRef) (b : Bool) : (g.put f b).mem = g.mem := (rfl)
@[simp] theorem Gn.addSat_msix (g : Gn) (f : FRef) (n : Nat) : (g.addSat f n).msix = g.msix := (rfl)
@[simp] theorem Gn.addSat_lastRst (g : Gn) (f : FRef) (n : Nat) : (g.addSat f n).lastRst = g.lastRst := (rfl)
@[simp] theorem Gn.addSat_ev (g : Gn) (f : FRef) (n : Nat) : (g.addSat f n).ev = g.ev := (rfl)
@[simp] theorem Gn.addSat_hq (g : Gn) (f : FRef) (n : Nat) : (g.addSat f n).hq = g.hq := (rfl)
@[simp] theorem Gn.addSat_pw (g : Gn) (f : FRef) (n : Nat) : (g.addSat f n).pw = g.pw := (rfl)
@[simp] theorem Gn.addSat_sc (g : Gn) (f : FRef) (n : Nat) : (g.addSat f n).sc = g.sc := (rfl)
@[simp] theorem Gn.addSat_hg (g : Gn) (f : FRef) (n : Nat) : (g.addSat f n).hg = g.hg := (rfl)
@[simp] theorem Gn.addSat_lk (g : Gn) (f : FRef) (n : Nat) : (g.addSat f n).lk = g.lk := (rfl)
@[simp] theorem Gn.addSat_tm (g : Gn) (f : FRef) (n : Nat) : (g.addSat f n).tm = g.tm := (rfl)
@[simp] theorem Gn.addSat_isls (g : Gn) (f : FRef) (n : Nat) : (g.addSat f n).isls = g.isls := (rfl)
@[simp] theorem Gn.addSat_wins (g : Gn) (f : FRef) (n : Nat) : (g.addSat f n).wins = g.wins := (rfl)
@[simp] theorem Gn.addSat_sits (g : Gn) (f : FRef) (n : Nat) : (g.addSat f n).sits = g.sits := (rfl)
@[simp] theorem Gn.addSat_parked (g : Gn) (f : FRef) (n : Nat) : (g.addSat f n).parked = g.parked := (rfl)
@[simp] theorem Gn.addSat_rd (g : Gn) (f : FRef) (n : Nat) : (g.addSat f n).rd = g.rd := (rfl)
@[simp] theorem Gn.addSat_sq (g : Gn) (f : FRef) (n : Nat) : (g.addSat f n).sq = g.sq := (rfl)
@[simp] theorem Gn.addSat_ar (g : Gn) (f : FRef) (n : Nat) : (g.addSat f n).ar = g.ar := (rfl)
@[simp] theorem Gn.addSat_ts (g : Gn) (f : FRef) (n : Nat) : (g.addSat f n).ts = g.ts := (rfl)
@[simp] theorem Gn.addSat_pf (g : Gn) (f : FRef) (n : Nat) : (g.addSat f n).pf = g.pf := (rfl)
@[simp] theorem Gn.addSat_hl (g : Gn) (f : FRef) (n : Nat) : (g.addSat f n).hl = g.hl := (rfl)
@[simp] theorem Gn.addSat_free (g : Gn) (f : FRef) (n : Nat) : (g.addSat f n).free = g.free := (rfl)
@[simp] theorem Gn.addSat_out (g : Gn) (f : FRef) (n : Nat) : (g.addSat f n).out = g.out := (rfl)
@[simp] theorem Gn.addSat_mem (g : Gn) (f : FRef) (n : Nat) : (g.addSat f n).mem = g.mem := (rfl)
@[simp] theorem Gn.inc_msix (g : Gn) (f : FRef) : (g.inc f).msix = g.msix := (rfl)
@[simp] theorem Gn.inc_lastRst (g : Gn) (f : FRef) : (g.inc f).lastRst = g.lastRst := (rfl)
@[simp] theorem Gn.inc_ev (g : Gn) (f : FRef) : (g.inc f).ev = g.ev := (rfl)
@[simp] theorem Gn.inc_hq (g : Gn) (f : FRef) : (g.inc f).hq = g.hq := (rfl)
@[simp] theorem Gn.inc_pw (g : Gn) (f : FRef) : (g.inc f).pw = g.pw := (rfl)
@[simp] theorem Gn.inc_sc (g : Gn) (f : FRef) : (g.inc f).sc = g.sc := (rfl)
@[simp] theorem Gn.inc_hg (g : Gn) (f : FRef) : (g.inc f).hg = g.hg := (rfl)
@[simp] theorem Gn.inc_lk (g : Gn) (f : FRef) : (g.inc f).lk = g.lk := (rfl)
@[simp] theorem Gn.inc_tm (g : Gn) (f : FRef) : (g.inc f).tm = g.tm := (rfl)
@[simp] theorem Gn.inc_isls (g : Gn) (f : FRef) : (g.inc f).isls = g.isls := (rfl)
@[simp] theorem Gn.inc_wins (g : Gn) (f : FRef) : (g.inc f).wins = g.wins := (rfl)
@[simp] theorem Gn.inc_sits (g : Gn) (f : FRef) : (g.inc f).sits = g.sits := (rfl)
@[simp] theorem Gn.inc_parked (g : Gn) (f : FRef) : (g.inc f).parked = g.parked := (rfl)
@[simp] theorem Gn.inc_rd (g : Gn) (f : FRef) : (g.inc f).rd = g.rd := (rfl)
@[simp] theorem Gn.inc_sq (g : Gn) (f : FRef) : (g.inc f).sq = g.sq := (rfl)
@[simp] theorem Gn.inc_ar (g : Gn) (f : FRef) : (g.inc f).ar = g.ar := (rfl)
@[simp] theorem Gn.inc_ts (g : Gn) (f : FRef) : (g.inc f).ts = g.ts := (rfl)
@[simp] theorem Gn.inc_pf (g : Gn) (f : FRef) : (g.inc f).pf = g.pf := (rfl)
@[simp] theorem Gn.inc_hl (g : Gn) (f : FRef) : (g.inc f).hl = g.hl := (rfl)
@[simp] theorem Gn.inc_free (g : Gn) (f : FRef) : (g.inc f).free = g.free := (rfl)
@[simp] theorem Gn.inc_out (g : Gn) (f : FRef) : (g.inc f).out = g.out := (rfl)
@[simp] theorem Gn.inc_mem (g : Gn) (f : FRef) : (g.inc f).mem = g.mem := (rfl)
@[simp] theorem Gn.addWrap_msix (g : Gn) (f : FRef) (n : Nat) : (g.addWrap f n).msix = g.msix := (rfl)
@[simp] theorem Gn.addWrap_lastRst (g : Gn) (f : FRef) (n : Nat) : (g.addWrap f n).lastRst = g.lastRst := (rfl)
@[simp] theorem Gn.addWrap_ev (g : Gn) (f : FRef) (n : Nat) : (g.addWrap f n).ev = g.ev := (rfl)
@[simp] theorem Gn.addWrap_hq (g : Gn) (f : FRef) (n : Nat) : (g.addWrap f n).hq = g.hq := (rfl)
@[simp] theorem Gn.addWrap_pw (g : Gn) (f : FRef) (n : Nat) : (g.addWrap f n).pw = g.pw := (rfl)
@[simp] theorem Gn.addWrap_sc (g : Gn) (f : FRef) (n : Nat) : (g.addWrap f n).sc = g.sc := (rfl)
@[simp] theorem Gn.addWrap_hg (g : Gn) (f : FRef) (n : Nat) : (g.addWrap f n).hg = g.hg := (rfl)
@[simp] theorem Gn.addWrap_lk (g : Gn) (f : FRef) (n : Nat) : (g.addWrap f n).lk = g.lk := (rfl)
@[simp] theorem Gn.addWrap_tm (g : Gn) (f : FRef) (n : Nat) : (g.addWrap f n).tm = g.tm := (rfl)
@[simp] theorem Gn.addWrap_isls (g : Gn) (f : FRef) (n : Nat) : (g.addWrap f n).isls = g.isls := (rfl)
@[simp] theorem Gn.addWrap_wins (g : Gn) (f : FRef) (n : Nat) : (g.addWrap f n).wins = g.wins := (rfl)
@[simp] theorem Gn.addWrap_sits (g : Gn) (f : FRef) (n : Nat) : (g.addWrap f n).sits = g.sits := (rfl)
@[simp] theorem Gn.addWrap_parked (g : Gn) (f : FRef) (n : Nat) : (g.addWrap f n).parked = g.parked := (rfl)
@[simp] theorem Gn.addWrap_rd (g : Gn) (f : FRef) (n : Nat) : (g.addWrap f n).rd = g.rd := (rfl)
@[simp] theorem Gn.addWrap_sq (g : Gn) (f : FRef) (n : Nat) : (g.addWrap f n).sq = g.sq := (rfl)
@[simp] theorem Gn.addWrap_ar (g : Gn) (f : FRef) (n : Nat) : (g.addWrap f n).ar = g.ar := (rfl)
@[simp] theorem Gn.addWrap_ts (g : Gn) (f : FRef) (n : Nat) : (g.addWrap f n).ts = g.ts := (rfl)
@[simp] theorem Gn.addWrap_pf (g : Gn) (f : FRef) (n : Nat) : (g.addWrap f n).pf = g.pf := (rfl)
@[simp] theorem Gn.addWrap_hl (g : Gn) (f : FRef) (n : Nat) : (g.addWrap f n).hl = g.hl := (rfl)
@[simp] theorem Gn.addWrap_free (g : Gn) (f : FRef) (n : Nat) : (g.addWrap f n).free = g.free := (rfl)
@[simp] theorem Gn.addWrap_out (g : Gn) (f : FRef) (n : Nat) : (g.addWrap f n).out = g.out := (rfl)
@[simp] theorem Gn.addWrap_mem (g : Gn) (f : FRef) (n : Nat) : (g.addWrap f n).mem = g.mem := (rfl)

/-! ### Output of the module -/

@[simp] theorem Gn.emitOut_regs (g : Gn) (x : Out) : (g.emitOut x).regs = g.regs := (rfl)
@[simp] theorem Gn.emitOut_msix (g : Gn) (x : Out) : (g.emitOut x).msix = g.msix := (rfl)
@[simp] theorem Gn.emitOut_lastRst (g : Gn) (x : Out) : (g.emitOut x).lastRst = g.lastRst := (rfl)
@[simp] theorem Gn.emitOut_ev (g : Gn) (x : Out) : (g.emitOut x).ev = g.ev := (rfl)
@[simp] theorem Gn.emitOut_hq (g : Gn) (x : Out) : (g.emitOut x).hq = g.hq := (rfl)
@[simp] theorem Gn.emitOut_pw (g : Gn) (x : Out) : (g.emitOut x).pw = g.pw := (rfl)
@[simp] theorem Gn.emitOut_sc (g : Gn) (x : Out) : (g.emitOut x).sc = g.sc := (rfl)
@[simp] theorem Gn.emitOut_hg (g : Gn) (x : Out) : (g.emitOut x).hg = g.hg := (rfl)
@[simp] theorem Gn.emitOut_lk (g : Gn) (x : Out) : (g.emitOut x).lk = g.lk := (rfl)
@[simp] theorem Gn.emitOut_tm (g : Gn) (x : Out) : (g.emitOut x).tm = g.tm := (rfl)
@[simp] theorem Gn.emitOut_isls (g : Gn) (x : Out) : (g.emitOut x).isls = g.isls := (rfl)
@[simp] theorem Gn.emitOut_wins (g : Gn) (x : Out) : (g.emitOut x).wins = g.wins := (rfl)
@[simp] theorem Gn.emitOut_sits (g : Gn) (x : Out) : (g.emitOut x).sits = g.sits := (rfl)
@[simp] theorem Gn.emitOut_parked (g : Gn) (x : Out) : (g.emitOut x).parked = g.parked := (rfl)
@[simp] theorem Gn.emitOut_rd (g : Gn) (x : Out) : (g.emitOut x).rd = g.rd := (rfl)
@[simp] theorem Gn.emitOut_sq (g : Gn) (x : Out) : (g.emitOut x).sq = g.sq := (rfl)
@[simp] theorem Gn.emitOut_ar (g : Gn) (x : Out) : (g.emitOut x).ar = g.ar := (rfl)
@[simp] theorem Gn.emitOut_ts (g : Gn) (x : Out) : (g.emitOut x).ts = g.ts := (rfl)
@[simp] theorem Gn.emitOut_pf (g : Gn) (x : Out) : (g.emitOut x).pf = g.pf := (rfl)
@[simp] theorem Gn.emitOut_hl (g : Gn) (x : Out) : (g.emitOut x).hl = g.hl := (rfl)
@[simp] theorem Gn.emitOut_free (g : Gn) (x : Out) : (g.emitOut x).free = g.free := (rfl)
@[simp] theorem Gn.emitOut_mem (g : Gn) (x : Out) : (g.emitOut x).mem = g.mem := (rfl)
@[simp] theorem Gn.emitOut_out (g : Gn) (x : Out) : (g.emitOut x).out = g.out ++ [x] := (rfl)

/-! ### One part of the module rewritten -/

@[simp] theorem Gn.onHl_regs (g : Gn) (f : HlSt → HlSt) : (g.onHl f).regs = g.regs := (rfl)
@[simp] theorem Gn.onHl_msix (g : Gn) (f : HlSt → HlSt) : (g.onHl f).msix = g.msix := (rfl)
@[simp] theorem Gn.onHl_lastRst (g : Gn) (f : HlSt → HlSt) : (g.onHl f).lastRst = g.lastRst := (rfl)
@[simp] theorem Gn.onHl_ev (g : Gn) (f : HlSt → HlSt) : (g.onHl f).ev = g.ev := (rfl)
@[simp] theorem Gn.onHl_hq (g : Gn) (f : HlSt → HlSt) : (g.onHl f).hq = g.hq := (rfl)
@[simp] theorem Gn.onHl_pw (g : Gn) (f : HlSt → HlSt) : (g.onHl f).pw = g.pw := (rfl)
@[simp] theorem Gn.onHl_sc (g : Gn) (f : HlSt → HlSt) : (g.onHl f).sc = g.sc := (rfl)
@[simp] theorem Gn.onHl_hg (g : Gn) (f : HlSt → HlSt) : (g.onHl f).hg = g.hg := (rfl)
@[simp] theorem Gn.onHl_lk (g : Gn) (f : HlSt → HlSt) : (g.onHl f).lk = g.lk := (rfl)
@[simp] theorem Gn.onHl_tm (g : Gn) (f : HlSt → HlSt) : (g.onHl f).tm = g.tm := (rfl)
@[simp] theorem Gn.onHl_isls (g : Gn) (f : HlSt → HlSt) : (g.onHl f).isls = g.isls := (rfl)
@[simp] theorem Gn.onHl_wins (g : Gn) (f : HlSt → HlSt) : (g.onHl f).wins = g.wins := (rfl)
@[simp] theorem Gn.onHl_sits (g : Gn) (f : HlSt → HlSt) : (g.onHl f).sits = g.sits := (rfl)
@[simp] theorem Gn.onHl_parked (g : Gn) (f : HlSt → HlSt) : (g.onHl f).parked = g.parked := (rfl)
@[simp] theorem Gn.onHl_rd (g : Gn) (f : HlSt → HlSt) : (g.onHl f).rd = g.rd := (rfl)
@[simp] theorem Gn.onHl_sq (g : Gn) (f : HlSt → HlSt) : (g.onHl f).sq = g.sq := (rfl)
@[simp] theorem Gn.onHl_ar (g : Gn) (f : HlSt → HlSt) : (g.onHl f).ar = g.ar := (rfl)
@[simp] theorem Gn.onHl_ts (g : Gn) (f : HlSt → HlSt) : (g.onHl f).ts = g.ts := (rfl)
@[simp] theorem Gn.onHl_pf (g : Gn) (f : HlSt → HlSt) : (g.onHl f).pf = g.pf := (rfl)
@[simp] theorem Gn.onHl_hl (g : Gn) (f : HlSt → HlSt) : (g.onHl f).hl = f g.hl := (rfl)
@[simp] theorem Gn.onHl_free (g : Gn) (f : HlSt → HlSt) : (g.onHl f).free = g.free := (rfl)
@[simp] theorem Gn.onHl_out (g : Gn) (f : HlSt → HlSt) : (g.onHl f).out = g.out := (rfl)
@[simp] theorem Gn.onHl_mem (g : Gn) (f : HlSt → HlSt) : (g.onHl f).mem = g.mem := (rfl)
@[simp] theorem Gn.onAr_regs (g : Gn) (f : ArSt → ArSt) : (g.onAr f).regs = g.regs := (rfl)
@[simp] theorem Gn.onAr_msix (g : Gn) (f : ArSt → ArSt) : (g.onAr f).msix = g.msix := (rfl)
@[simp] theorem Gn.onAr_lastRst (g : Gn) (f : ArSt → ArSt) : (g.onAr f).lastRst = g.lastRst := (rfl)
@[simp] theorem Gn.onAr_ev (g : Gn) (f : ArSt → ArSt) : (g.onAr f).ev = g.ev := (rfl)
@[simp] theorem Gn.onAr_hq (g : Gn) (f : ArSt → ArSt) : (g.onAr f).hq = g.hq := (rfl)
@[simp] theorem Gn.onAr_pw (g : Gn) (f : ArSt → ArSt) : (g.onAr f).pw = g.pw := (rfl)
@[simp] theorem Gn.onAr_sc (g : Gn) (f : ArSt → ArSt) : (g.onAr f).sc = g.sc := (rfl)
@[simp] theorem Gn.onAr_hg (g : Gn) (f : ArSt → ArSt) : (g.onAr f).hg = g.hg := (rfl)
@[simp] theorem Gn.onAr_lk (g : Gn) (f : ArSt → ArSt) : (g.onAr f).lk = g.lk := (rfl)
@[simp] theorem Gn.onAr_tm (g : Gn) (f : ArSt → ArSt) : (g.onAr f).tm = g.tm := (rfl)
@[simp] theorem Gn.onAr_isls (g : Gn) (f : ArSt → ArSt) : (g.onAr f).isls = g.isls := (rfl)
@[simp] theorem Gn.onAr_wins (g : Gn) (f : ArSt → ArSt) : (g.onAr f).wins = g.wins := (rfl)
@[simp] theorem Gn.onAr_sits (g : Gn) (f : ArSt → ArSt) : (g.onAr f).sits = g.sits := (rfl)
@[simp] theorem Gn.onAr_parked (g : Gn) (f : ArSt → ArSt) : (g.onAr f).parked = g.parked := (rfl)
@[simp] theorem Gn.onAr_rd (g : Gn) (f : ArSt → ArSt) : (g.onAr f).rd = g.rd := (rfl)
@[simp] theorem Gn.onAr_sq (g : Gn) (f : ArSt → ArSt) : (g.onAr f).sq = g.sq := (rfl)
@[simp] theorem Gn.onAr_ar (g : Gn) (f : ArSt → ArSt) : (g.onAr f).ar = f g.ar := (rfl)
@[simp] theorem Gn.onAr_ts (g : Gn) (f : ArSt → ArSt) : (g.onAr f).ts = g.ts := (rfl)
@[simp] theorem Gn.onAr_pf (g : Gn) (f : ArSt → ArSt) : (g.onAr f).pf = g.pf := (rfl)
@[simp] theorem Gn.onAr_hl (g : Gn) (f : ArSt → ArSt) : (g.onAr f).hl = g.hl := (rfl)
@[simp] theorem Gn.onAr_free (g : Gn) (f : ArSt → ArSt) : (g.onAr f).free = g.free := (rfl)
@[simp] theorem Gn.onAr_out (g : Gn) (f : ArSt → ArSt) : (g.onAr f).out = g.out := (rfl)
@[simp] theorem Gn.onAr_mem (g : Gn) (f : ArSt → ArSt) : (g.onAr f).mem = g.mem := (rfl)
@[simp] theorem Gn.onSq_regs (g : Gn) (f : SqSt → SqSt) : (g.onSq f).regs = g.regs := (rfl)
@[simp] theorem Gn.onSq_msix (g : Gn) (f : SqSt → SqSt) : (g.onSq f).msix = g.msix := (rfl)
@[simp] theorem Gn.onSq_lastRst (g : Gn) (f : SqSt → SqSt) : (g.onSq f).lastRst = g.lastRst := (rfl)
@[simp] theorem Gn.onSq_ev (g : Gn) (f : SqSt → SqSt) : (g.onSq f).ev = g.ev := (rfl)
@[simp] theorem Gn.onSq_hq (g : Gn) (f : SqSt → SqSt) : (g.onSq f).hq = g.hq := (rfl)
@[simp] theorem Gn.onSq_pw (g : Gn) (f : SqSt → SqSt) : (g.onSq f).pw = g.pw := (rfl)
@[simp] theorem Gn.onSq_sc (g : Gn) (f : SqSt → SqSt) : (g.onSq f).sc = g.sc := (rfl)
@[simp] theorem Gn.onSq_hg (g : Gn) (f : SqSt → SqSt) : (g.onSq f).hg = g.hg := (rfl)
@[simp] theorem Gn.onSq_lk (g : Gn) (f : SqSt → SqSt) : (g.onSq f).lk = g.lk := (rfl)
@[simp] theorem Gn.onSq_tm (g : Gn) (f : SqSt → SqSt) : (g.onSq f).tm = g.tm := (rfl)
@[simp] theorem Gn.onSq_isls (g : Gn) (f : SqSt → SqSt) : (g.onSq f).isls = g.isls := (rfl)
@[simp] theorem Gn.onSq_wins (g : Gn) (f : SqSt → SqSt) : (g.onSq f).wins = g.wins := (rfl)
@[simp] theorem Gn.onSq_sits (g : Gn) (f : SqSt → SqSt) : (g.onSq f).sits = g.sits := (rfl)
@[simp] theorem Gn.onSq_parked (g : Gn) (f : SqSt → SqSt) : (g.onSq f).parked = g.parked := (rfl)
@[simp] theorem Gn.onSq_rd (g : Gn) (f : SqSt → SqSt) : (g.onSq f).rd = g.rd := (rfl)
@[simp] theorem Gn.onSq_sq (g : Gn) (f : SqSt → SqSt) : (g.onSq f).sq = f g.sq := (rfl)
@[simp] theorem Gn.onSq_ar (g : Gn) (f : SqSt → SqSt) : (g.onSq f).ar = g.ar := (rfl)
@[simp] theorem Gn.onSq_ts (g : Gn) (f : SqSt → SqSt) : (g.onSq f).ts = g.ts := (rfl)
@[simp] theorem Gn.onSq_pf (g : Gn) (f : SqSt → SqSt) : (g.onSq f).pf = g.pf := (rfl)
@[simp] theorem Gn.onSq_hl (g : Gn) (f : SqSt → SqSt) : (g.onSq f).hl = g.hl := (rfl)
@[simp] theorem Gn.onSq_free (g : Gn) (f : SqSt → SqSt) : (g.onSq f).free = g.free := (rfl)
@[simp] theorem Gn.onSq_out (g : Gn) (f : SqSt → SqSt) : (g.onSq f).out = g.out := (rfl)
@[simp] theorem Gn.onSq_mem (g : Gn) (f : SqSt → SqSt) : (g.onSq f).mem = g.mem := (rfl)
@[simp] theorem Gn.onHg_regs (g : Gn) (f : HgSt → HgSt) : (g.onHg f).regs = g.regs := (rfl)
@[simp] theorem Gn.onHg_msix (g : Gn) (f : HgSt → HgSt) : (g.onHg f).msix = g.msix := (rfl)
@[simp] theorem Gn.onHg_lastRst (g : Gn) (f : HgSt → HgSt) : (g.onHg f).lastRst = g.lastRst := (rfl)
@[simp] theorem Gn.onHg_ev (g : Gn) (f : HgSt → HgSt) : (g.onHg f).ev = g.ev := (rfl)
@[simp] theorem Gn.onHg_hq (g : Gn) (f : HgSt → HgSt) : (g.onHg f).hq = g.hq := (rfl)
@[simp] theorem Gn.onHg_pw (g : Gn) (f : HgSt → HgSt) : (g.onHg f).pw = g.pw := (rfl)
@[simp] theorem Gn.onHg_sc (g : Gn) (f : HgSt → HgSt) : (g.onHg f).sc = g.sc := (rfl)
@[simp] theorem Gn.onHg_hg (g : Gn) (f : HgSt → HgSt) : (g.onHg f).hg = f g.hg := (rfl)
@[simp] theorem Gn.onHg_lk (g : Gn) (f : HgSt → HgSt) : (g.onHg f).lk = g.lk := (rfl)
@[simp] theorem Gn.onHg_tm (g : Gn) (f : HgSt → HgSt) : (g.onHg f).tm = g.tm := (rfl)
@[simp] theorem Gn.onHg_isls (g : Gn) (f : HgSt → HgSt) : (g.onHg f).isls = g.isls := (rfl)
@[simp] theorem Gn.onHg_wins (g : Gn) (f : HgSt → HgSt) : (g.onHg f).wins = g.wins := (rfl)
@[simp] theorem Gn.onHg_sits (g : Gn) (f : HgSt → HgSt) : (g.onHg f).sits = g.sits := (rfl)
@[simp] theorem Gn.onHg_parked (g : Gn) (f : HgSt → HgSt) : (g.onHg f).parked = g.parked := (rfl)
@[simp] theorem Gn.onHg_rd (g : Gn) (f : HgSt → HgSt) : (g.onHg f).rd = g.rd := (rfl)
@[simp] theorem Gn.onHg_sq (g : Gn) (f : HgSt → HgSt) : (g.onHg f).sq = g.sq := (rfl)
@[simp] theorem Gn.onHg_ar (g : Gn) (f : HgSt → HgSt) : (g.onHg f).ar = g.ar := (rfl)
@[simp] theorem Gn.onHg_ts (g : Gn) (f : HgSt → HgSt) : (g.onHg f).ts = g.ts := (rfl)
@[simp] theorem Gn.onHg_pf (g : Gn) (f : HgSt → HgSt) : (g.onHg f).pf = g.pf := (rfl)
@[simp] theorem Gn.onHg_hl (g : Gn) (f : HgSt → HgSt) : (g.onHg f).hl = g.hl := (rfl)
@[simp] theorem Gn.onHg_free (g : Gn) (f : HgSt → HgSt) : (g.onHg f).free = g.free := (rfl)
@[simp] theorem Gn.onHg_out (g : Gn) (f : HgSt → HgSt) : (g.onHg f).out = g.out := (rfl)
@[simp] theorem Gn.onHg_mem (g : Gn) (f : HgSt → HgSt) : (g.onHg f).mem = g.mem := (rfl)
@[simp] theorem Gn.onSc_regs (g : Gn) (f : ScSt → ScSt) : (g.onSc f).regs = g.regs := (rfl)
@[simp] theorem Gn.onSc_msix (g : Gn) (f : ScSt → ScSt) : (g.onSc f).msix = g.msix := (rfl)
@[simp] theorem Gn.onSc_lastRst (g : Gn) (f : ScSt → ScSt) : (g.onSc f).lastRst = g.lastRst := (rfl)
@[simp] theorem Gn.onSc_ev (g : Gn) (f : ScSt → ScSt) : (g.onSc f).ev = g.ev := (rfl)
@[simp] theorem Gn.onSc_hq (g : Gn) (f : ScSt → ScSt) : (g.onSc f).hq = g.hq := (rfl)
@[simp] theorem Gn.onSc_pw (g : Gn) (f : ScSt → ScSt) : (g.onSc f).pw = g.pw := (rfl)
@[simp] theorem Gn.onSc_sc (g : Gn) (f : ScSt → ScSt) : (g.onSc f).sc = f g.sc := (rfl)
@[simp] theorem Gn.onSc_hg (g : Gn) (f : ScSt → ScSt) : (g.onSc f).hg = g.hg := (rfl)
@[simp] theorem Gn.onSc_lk (g : Gn) (f : ScSt → ScSt) : (g.onSc f).lk = g.lk := (rfl)
@[simp] theorem Gn.onSc_tm (g : Gn) (f : ScSt → ScSt) : (g.onSc f).tm = g.tm := (rfl)
@[simp] theorem Gn.onSc_isls (g : Gn) (f : ScSt → ScSt) : (g.onSc f).isls = g.isls := (rfl)
@[simp] theorem Gn.onSc_wins (g : Gn) (f : ScSt → ScSt) : (g.onSc f).wins = g.wins := (rfl)
@[simp] theorem Gn.onSc_sits (g : Gn) (f : ScSt → ScSt) : (g.onSc f).sits = g.sits := (rfl)
@[simp] theorem Gn.onSc_parked (g : Gn) (f : ScSt → ScSt) : (g.onSc f).parked = g.parked := (rfl)
@[simp] theorem Gn.onSc_rd (g : Gn) (f : ScSt → ScSt) : (g.onSc f).rd = g.rd := (rfl)
@[simp] theorem Gn.onSc_sq (g : Gn) (f : ScSt → ScSt) : (g.onSc f).sq = g.sq := (rfl)
@[simp] theorem Gn.onSc_ar (g : Gn) (f : ScSt → ScSt) : (g.onSc f).ar = g.ar := (rfl)
@[simp] theorem Gn.onSc_ts (g : Gn) (f : ScSt → ScSt) : (g.onSc f).ts = g.ts := (rfl)
@[simp] theorem Gn.onSc_pf (g : Gn) (f : ScSt → ScSt) : (g.onSc f).pf = g.pf := (rfl)
@[simp] theorem Gn.onSc_hl (g : Gn) (f : ScSt → ScSt) : (g.onSc f).hl = g.hl := (rfl)
@[simp] theorem Gn.onSc_free (g : Gn) (f : ScSt → ScSt) : (g.onSc f).free = g.free := (rfl)
@[simp] theorem Gn.onSc_out (g : Gn) (f : ScSt → ScSt) : (g.onSc f).out = g.out := (rfl)
@[simp] theorem Gn.onSc_mem (g : Gn) (f : ScSt → ScSt) : (g.onSc f).mem = g.mem := (rfl)
@[simp] theorem Gn.onRd_regs (g : Gn) (f : RdSt → RdSt) : (g.onRd f).regs = g.regs := (rfl)
@[simp] theorem Gn.onRd_msix (g : Gn) (f : RdSt → RdSt) : (g.onRd f).msix = g.msix := (rfl)
@[simp] theorem Gn.onRd_lastRst (g : Gn) (f : RdSt → RdSt) : (g.onRd f).lastRst = g.lastRst := (rfl)
@[simp] theorem Gn.onRd_ev (g : Gn) (f : RdSt → RdSt) : (g.onRd f).ev = g.ev := (rfl)
@[simp] theorem Gn.onRd_hq (g : Gn) (f : RdSt → RdSt) : (g.onRd f).hq = g.hq := (rfl)
@[simp] theorem Gn.onRd_pw (g : Gn) (f : RdSt → RdSt) : (g.onRd f).pw = g.pw := (rfl)
@[simp] theorem Gn.onRd_sc (g : Gn) (f : RdSt → RdSt) : (g.onRd f).sc = g.sc := (rfl)
@[simp] theorem Gn.onRd_hg (g : Gn) (f : RdSt → RdSt) : (g.onRd f).hg = g.hg := (rfl)
@[simp] theorem Gn.onRd_lk (g : Gn) (f : RdSt → RdSt) : (g.onRd f).lk = g.lk := (rfl)
@[simp] theorem Gn.onRd_tm (g : Gn) (f : RdSt → RdSt) : (g.onRd f).tm = g.tm := (rfl)
@[simp] theorem Gn.onRd_isls (g : Gn) (f : RdSt → RdSt) : (g.onRd f).isls = g.isls := (rfl)
@[simp] theorem Gn.onRd_wins (g : Gn) (f : RdSt → RdSt) : (g.onRd f).wins = g.wins := (rfl)
@[simp] theorem Gn.onRd_sits (g : Gn) (f : RdSt → RdSt) : (g.onRd f).sits = g.sits := (rfl)
@[simp] theorem Gn.onRd_parked (g : Gn) (f : RdSt → RdSt) : (g.onRd f).parked = g.parked := (rfl)
@[simp] theorem Gn.onRd_rd (g : Gn) (f : RdSt → RdSt) : (g.onRd f).rd = f g.rd := (rfl)
@[simp] theorem Gn.onRd_sq (g : Gn) (f : RdSt → RdSt) : (g.onRd f).sq = g.sq := (rfl)
@[simp] theorem Gn.onRd_ar (g : Gn) (f : RdSt → RdSt) : (g.onRd f).ar = g.ar := (rfl)
@[simp] theorem Gn.onRd_ts (g : Gn) (f : RdSt → RdSt) : (g.onRd f).ts = g.ts := (rfl)
@[simp] theorem Gn.onRd_pf (g : Gn) (f : RdSt → RdSt) : (g.onRd f).pf = g.pf := (rfl)
@[simp] theorem Gn.onRd_hl (g : Gn) (f : RdSt → RdSt) : (g.onRd f).hl = g.hl := (rfl)
@[simp] theorem Gn.onRd_free (g : Gn) (f : RdSt → RdSt) : (g.onRd f).free = g.free := (rfl)
@[simp] theorem Gn.onRd_out (g : Gn) (f : RdSt → RdSt) : (g.onRd f).out = g.out := (rfl)
@[simp] theorem Gn.onRd_mem (g : Gn) (f : RdSt → RdSt) : (g.onRd f).mem = g.mem := (rfl)
@[simp] theorem Gn.onPf_regs (g : Gn) (f : PfSt → PfSt) : (g.onPf f).regs = g.regs := (rfl)
@[simp] theorem Gn.onPf_msix (g : Gn) (f : PfSt → PfSt) : (g.onPf f).msix = g.msix := (rfl)
@[simp] theorem Gn.onPf_lastRst (g : Gn) (f : PfSt → PfSt) : (g.onPf f).lastRst = g.lastRst := (rfl)
@[simp] theorem Gn.onPf_ev (g : Gn) (f : PfSt → PfSt) : (g.onPf f).ev = g.ev := (rfl)
@[simp] theorem Gn.onPf_hq (g : Gn) (f : PfSt → PfSt) : (g.onPf f).hq = g.hq := (rfl)
@[simp] theorem Gn.onPf_pw (g : Gn) (f : PfSt → PfSt) : (g.onPf f).pw = g.pw := (rfl)
@[simp] theorem Gn.onPf_sc (g : Gn) (f : PfSt → PfSt) : (g.onPf f).sc = g.sc := (rfl)
@[simp] theorem Gn.onPf_hg (g : Gn) (f : PfSt → PfSt) : (g.onPf f).hg = g.hg := (rfl)
@[simp] theorem Gn.onPf_lk (g : Gn) (f : PfSt → PfSt) : (g.onPf f).lk = g.lk := (rfl)
@[simp] theorem Gn.onPf_tm (g : Gn) (f : PfSt → PfSt) : (g.onPf f).tm = g.tm := (rfl)
@[simp] theorem Gn.onPf_isls (g : Gn) (f : PfSt → PfSt) : (g.onPf f).isls = g.isls := (rfl)
@[simp] theorem Gn.onPf_wins (g : Gn) (f : PfSt → PfSt) : (g.onPf f).wins = g.wins := (rfl)
@[simp] theorem Gn.onPf_sits (g : Gn) (f : PfSt → PfSt) : (g.onPf f).sits = g.sits := (rfl)
@[simp] theorem Gn.onPf_parked (g : Gn) (f : PfSt → PfSt) : (g.onPf f).parked = g.parked := (rfl)
@[simp] theorem Gn.onPf_rd (g : Gn) (f : PfSt → PfSt) : (g.onPf f).rd = g.rd := (rfl)
@[simp] theorem Gn.onPf_sq (g : Gn) (f : PfSt → PfSt) : (g.onPf f).sq = g.sq := (rfl)
@[simp] theorem Gn.onPf_ar (g : Gn) (f : PfSt → PfSt) : (g.onPf f).ar = g.ar := (rfl)
@[simp] theorem Gn.onPf_ts (g : Gn) (f : PfSt → PfSt) : (g.onPf f).ts = g.ts := (rfl)
@[simp] theorem Gn.onPf_pf (g : Gn) (f : PfSt → PfSt) : (g.onPf f).pf = f g.pf := (rfl)
@[simp] theorem Gn.onPf_hl (g : Gn) (f : PfSt → PfSt) : (g.onPf f).hl = g.hl := (rfl)
@[simp] theorem Gn.onPf_free (g : Gn) (f : PfSt → PfSt) : (g.onPf f).free = g.free := (rfl)
@[simp] theorem Gn.onPf_out (g : Gn) (f : PfSt → PfSt) : (g.onPf f).out = g.out := (rfl)
@[simp] theorem Gn.onPf_mem (g : Gn) (f : PfSt → PfSt) : (g.onPf f).mem = g.mem := (rfl)
@[simp] theorem Gn.onEv_regs (g : Gn) (f : EvSt → EvSt) : (g.onEv f).regs = g.regs := (rfl)
@[simp] theorem Gn.onEv_msix (g : Gn) (f : EvSt → EvSt) : (g.onEv f).msix = g.msix := (rfl)
@[simp] theorem Gn.onEv_lastRst (g : Gn) (f : EvSt → EvSt) : (g.onEv f).lastRst = g.lastRst := (rfl)
@[simp] theorem Gn.onEv_ev (g : Gn) (f : EvSt → EvSt) : (g.onEv f).ev = f g.ev := (rfl)
@[simp] theorem Gn.onEv_hq (g : Gn) (f : EvSt → EvSt) : (g.onEv f).hq = g.hq := (rfl)
@[simp] theorem Gn.onEv_pw (g : Gn) (f : EvSt → EvSt) : (g.onEv f).pw = g.pw := (rfl)
@[simp] theorem Gn.onEv_sc (g : Gn) (f : EvSt → EvSt) : (g.onEv f).sc = g.sc := (rfl)
@[simp] theorem Gn.onEv_hg (g : Gn) (f : EvSt → EvSt) : (g.onEv f).hg = g.hg := (rfl)
@[simp] theorem Gn.onEv_lk (g : Gn) (f : EvSt → EvSt) : (g.onEv f).lk = g.lk := (rfl)
@[simp] theorem Gn.onEv_tm (g : Gn) (f : EvSt → EvSt) : (g.onEv f).tm = g.tm := (rfl)
@[simp] theorem Gn.onEv_isls (g : Gn) (f : EvSt → EvSt) : (g.onEv f).isls = g.isls := (rfl)
@[simp] theorem Gn.onEv_wins (g : Gn) (f : EvSt → EvSt) : (g.onEv f).wins = g.wins := (rfl)
@[simp] theorem Gn.onEv_sits (g : Gn) (f : EvSt → EvSt) : (g.onEv f).sits = g.sits := (rfl)
@[simp] theorem Gn.onEv_parked (g : Gn) (f : EvSt → EvSt) : (g.onEv f).parked = g.parked := (rfl)
@[simp] theorem Gn.onEv_rd (g : Gn) (f : EvSt → EvSt) : (g.onEv f).rd = g.rd := (rfl)
@[simp] theorem Gn.onEv_sq (g : Gn) (f : EvSt → EvSt) : (g.onEv f).sq = g.sq := (rfl)
@[simp] theorem Gn.onEv_ar (g : Gn) (f : EvSt → EvSt) : (g.onEv f).ar = g.ar := (rfl)
@[simp] theorem Gn.onEv_ts (g : Gn) (f : EvSt → EvSt) : (g.onEv f).ts = g.ts := (rfl)
@[simp] theorem Gn.onEv_pf (g : Gn) (f : EvSt → EvSt) : (g.onEv f).pf = g.pf := (rfl)
@[simp] theorem Gn.onEv_hl (g : Gn) (f : EvSt → EvSt) : (g.onEv f).hl = g.hl := (rfl)
@[simp] theorem Gn.onEv_free (g : Gn) (f : EvSt → EvSt) : (g.onEv f).free = g.free := (rfl)
@[simp] theorem Gn.onEv_out (g : Gn) (f : EvSt → EvSt) : (g.onEv f).out = g.out := (rfl)
@[simp] theorem Gn.onEv_mem (g : Gn) (f : EvSt → EvSt) : (g.onEv f).mem = g.mem := (rfl)

/-! ### One entry of a table of the module -/

@[simp] theorem Gn.setPort_regs (g : Gn) (p : Nat) (x : Port) : (g.setPort p x).regs = g.regs := (rfl)
@[simp] theorem Gn.setPort_msix (g : Gn) (p : Nat) (x : Port) : (g.setPort p x).msix = g.msix := (rfl)
@[simp] theorem Gn.setPort_lastRst (g : Gn) (p : Nat) (x : Port) : (g.setPort p x).lastRst = g.lastRst := (rfl)
@[simp] theorem Gn.setPort_ev (g : Gn) (p : Nat) (x : Port) : (g.setPort p x).ev = g.ev := (rfl)
@[simp] theorem Gn.setPort_hq (g : Gn) (p : Nat) (x : Port) : (g.setPort p x).hq = g.hq := (rfl)
@[simp] theorem Gn.setPort_pw (g : Gn) (p : Nat) (x : Port) : (g.setPort p x).pw = g.pw := (rfl)
@[simp] theorem Gn.setPort_sc (g : Gn) (p : Nat) (x : Port) : (g.setPort p x).sc = g.sc := (rfl)
@[simp] theorem Gn.setPort_hg (g : Gn) (p : Nat) (x : Port) : (g.setPort p x).hg = g.hg := (rfl)
@[simp] theorem Gn.setPort_tm (g : Gn) (p : Nat) (x : Port) : (g.setPort p x).tm = g.tm := (rfl)
@[simp] theorem Gn.setPort_isls (g : Gn) (p : Nat) (x : Port) : (g.setPort p x).isls = g.isls := (rfl)
@[simp] theorem Gn.setPort_wins (g : Gn) (p : Nat) (x : Port) : (g.setPort p x).wins = g.wins := (rfl)
@[simp] theorem Gn.setPort_sits (g : Gn) (p : Nat) (x : Port) : (g.setPort p x).sits = g.sits := (rfl)
@[simp] theorem Gn.setPort_parked (g : Gn) (p : Nat) (x : Port) : (g.setPort p x).parked = g.parked := (rfl)
@[simp] theorem Gn.setPort_rd (g : Gn) (p : Nat) (x : Port) : (g.setPort p x).rd = g.rd := (rfl)
@[simp] theorem Gn.setPort_sq (g : Gn) (p : Nat) (x : Port) : (g.setPort p x).sq = g.sq := (rfl)
@[simp] theorem Gn.setPort_ar (g : Gn) (p : Nat) (x : Port) : (g.setPort p x).ar = g.ar := (rfl)
@[simp] theorem Gn.setPort_ts (g : Gn) (p : Nat) (x : Port) : (g.setPort p x).ts = g.ts := (rfl)
@[simp] theorem Gn.setPort_pf (g : Gn) (p : Nat) (x : Port) : (g.setPort p x).pf = g.pf := (rfl)
@[simp] theorem Gn.setPort_hl (g : Gn) (p : Nat) (x : Port) : (g.setPort p x).hl = g.hl := (rfl)
@[simp] theorem Gn.setPort_free (g : Gn) (p : Nat) (x : Port) : (g.setPort p x).free = g.free := (rfl)
@[simp] theorem Gn.setPort_out (g : Gn) (p : Nat) (x : Port) : (g.setPort p x).out = g.out := (rfl)
@[simp] theorem Gn.setPort_mem (g : Gn) (p : Nat) (x : Port) : (g.setPort p x).mem = g.mem := (rfl)
@[simp] theorem Gn.setCq_regs (g : Gn) (fn q : Nat) (x : CqSt) : (g.setCq fn q x).regs = g.regs := (rfl)
@[simp] theorem Gn.setCq_msix (g : Gn) (fn q : Nat) (x : CqSt) : (g.setCq fn q x).msix = g.msix := (rfl)
@[simp] theorem Gn.setCq_lastRst (g : Gn) (fn q : Nat) (x : CqSt) : (g.setCq fn q x).lastRst = g.lastRst := (rfl)
@[simp] theorem Gn.setCq_ev (g : Gn) (fn q : Nat) (x : CqSt) : (g.setCq fn q x).ev = g.ev := (rfl)
@[simp] theorem Gn.setCq_pw (g : Gn) (fn q : Nat) (x : CqSt) : (g.setCq fn q x).pw = g.pw := (rfl)
@[simp] theorem Gn.setCq_sc (g : Gn) (fn q : Nat) (x : CqSt) : (g.setCq fn q x).sc = g.sc := (rfl)
@[simp] theorem Gn.setCq_hg (g : Gn) (fn q : Nat) (x : CqSt) : (g.setCq fn q x).hg = g.hg := (rfl)
@[simp] theorem Gn.setCq_lk (g : Gn) (fn q : Nat) (x : CqSt) : (g.setCq fn q x).lk = g.lk := (rfl)
@[simp] theorem Gn.setCq_tm (g : Gn) (fn q : Nat) (x : CqSt) : (g.setCq fn q x).tm = g.tm := (rfl)
@[simp] theorem Gn.setCq_isls (g : Gn) (fn q : Nat) (x : CqSt) : (g.setCq fn q x).isls = g.isls := (rfl)
@[simp] theorem Gn.setCq_wins (g : Gn) (fn q : Nat) (x : CqSt) : (g.setCq fn q x).wins = g.wins := (rfl)
@[simp] theorem Gn.setCq_sits (g : Gn) (fn q : Nat) (x : CqSt) : (g.setCq fn q x).sits = g.sits := (rfl)
@[simp] theorem Gn.setCq_parked (g : Gn) (fn q : Nat) (x : CqSt) : (g.setCq fn q x).parked = g.parked := (rfl)
@[simp] theorem Gn.setCq_rd (g : Gn) (fn q : Nat) (x : CqSt) : (g.setCq fn q x).rd = g.rd := (rfl)
@[simp] theorem Gn.setCq_sq (g : Gn) (fn q : Nat) (x : CqSt) : (g.setCq fn q x).sq = g.sq := (rfl)
@[simp] theorem Gn.setCq_ar (g : Gn) (fn q : Nat) (x : CqSt) : (g.setCq fn q x).ar = g.ar := (rfl)
@[simp] theorem Gn.setCq_ts (g : Gn) (fn q : Nat) (x : CqSt) : (g.setCq fn q x).ts = g.ts := (rfl)
@[simp] theorem Gn.setCq_pf (g : Gn) (fn q : Nat) (x : CqSt) : (g.setCq fn q x).pf = g.pf := (rfl)
@[simp] theorem Gn.setCq_hl (g : Gn) (fn q : Nat) (x : CqSt) : (g.setCq fn q x).hl = g.hl := (rfl)
@[simp] theorem Gn.setCq_free (g : Gn) (fn q : Nat) (x : CqSt) : (g.setCq fn q x).free = g.free := (rfl)
@[simp] theorem Gn.setCq_out (g : Gn) (fn q : Nat) (x : CqSt) : (g.setCq fn q x).out = g.out := (rfl)
@[simp] theorem Gn.setCq_mem (g : Gn) (fn q : Nat) (x : CqSt) : (g.setCq fn q x).mem = g.mem := (rfl)
@[simp] theorem Gn.setIsl_regs (g : Gn) (i : Nat) (x : IslSt) : (g.setIsl i x).regs = g.regs := (rfl)
@[simp] theorem Gn.setIsl_msix (g : Gn) (i : Nat) (x : IslSt) : (g.setIsl i x).msix = g.msix := (rfl)
@[simp] theorem Gn.setIsl_lastRst (g : Gn) (i : Nat) (x : IslSt) : (g.setIsl i x).lastRst = g.lastRst := (rfl)
@[simp] theorem Gn.setIsl_ev (g : Gn) (i : Nat) (x : IslSt) : (g.setIsl i x).ev = g.ev := (rfl)
@[simp] theorem Gn.setIsl_hq (g : Gn) (i : Nat) (x : IslSt) : (g.setIsl i x).hq = g.hq := (rfl)
@[simp] theorem Gn.setIsl_pw (g : Gn) (i : Nat) (x : IslSt) : (g.setIsl i x).pw = g.pw := (rfl)
@[simp] theorem Gn.setIsl_sc (g : Gn) (i : Nat) (x : IslSt) : (g.setIsl i x).sc = g.sc := (rfl)
@[simp] theorem Gn.setIsl_hg (g : Gn) (i : Nat) (x : IslSt) : (g.setIsl i x).hg = g.hg := (rfl)
@[simp] theorem Gn.setIsl_lk (g : Gn) (i : Nat) (x : IslSt) : (g.setIsl i x).lk = g.lk := (rfl)
@[simp] theorem Gn.setIsl_tm (g : Gn) (i : Nat) (x : IslSt) : (g.setIsl i x).tm = g.tm := (rfl)
@[simp] theorem Gn.setIsl_wins (g : Gn) (i : Nat) (x : IslSt) : (g.setIsl i x).wins = g.wins := (rfl)
@[simp] theorem Gn.setIsl_sits (g : Gn) (i : Nat) (x : IslSt) : (g.setIsl i x).sits = g.sits := (rfl)
@[simp] theorem Gn.setIsl_parked (g : Gn) (i : Nat) (x : IslSt) : (g.setIsl i x).parked = g.parked := (rfl)
@[simp] theorem Gn.setIsl_rd (g : Gn) (i : Nat) (x : IslSt) : (g.setIsl i x).rd = g.rd := (rfl)
@[simp] theorem Gn.setIsl_sq (g : Gn) (i : Nat) (x : IslSt) : (g.setIsl i x).sq = g.sq := (rfl)
@[simp] theorem Gn.setIsl_ar (g : Gn) (i : Nat) (x : IslSt) : (g.setIsl i x).ar = g.ar := (rfl)
@[simp] theorem Gn.setIsl_ts (g : Gn) (i : Nat) (x : IslSt) : (g.setIsl i x).ts = g.ts := (rfl)
@[simp] theorem Gn.setIsl_pf (g : Gn) (i : Nat) (x : IslSt) : (g.setIsl i x).pf = g.pf := (rfl)
@[simp] theorem Gn.setIsl_hl (g : Gn) (i : Nat) (x : IslSt) : (g.setIsl i x).hl = g.hl := (rfl)
@[simp] theorem Gn.setIsl_free (g : Gn) (i : Nat) (x : IslSt) : (g.setIsl i x).free = g.free := (rfl)
@[simp] theorem Gn.setIsl_out (g : Gn) (i : Nat) (x : IslSt) : (g.setIsl i x).out = g.out := (rfl)
@[simp] theorem Gn.setIsl_mem (g : Gn) (i : Nat) (x : IslSt) : (g.setIsl i x).mem = g.mem := (rfl)
@[simp] theorem Gn.setWin_regs (g : Gn) (w : Nat) (x : WinSt) : (g.setWin w x).regs = g.regs := (rfl)
@[simp] theorem Gn.setWin_msix (g : Gn) (w : Nat) (x : WinSt) : (g.setWin w x).msix = g.msix := (rfl)
@[simp] theorem Gn.setWin_lastRst (g : Gn) (w : Nat) (x : WinSt) : (g.setWin w x).lastRst = g.lastRst := (rfl)
@[simp] theorem Gn.setWin_ev (g : Gn) (w : Nat) (x : WinSt) : (g.setWin w x).ev = g.ev := (rfl)
@[simp] theorem Gn.setWin_hq (g : Gn) (w : Nat) (x : WinSt) : (g.setWin w x).hq = g.hq := (rfl)
@[simp] theorem Gn.setWin_pw (g : Gn) (w : Nat) (x : WinSt) : (g.setWin w x).pw = g.pw := (rfl)
@[simp] theorem Gn.setWin_sc (g : Gn) (w : Nat) (x : WinSt) : (g.setWin w x).sc = g.sc := (rfl)
@[simp] theorem Gn.setWin_hg (g : Gn) (w : Nat) (x : WinSt) : (g.setWin w x).hg = g.hg := (rfl)
@[simp] theorem Gn.setWin_lk (g : Gn) (w : Nat) (x : WinSt) : (g.setWin w x).lk = g.lk := (rfl)
@[simp] theorem Gn.setWin_tm (g : Gn) (w : Nat) (x : WinSt) : (g.setWin w x).tm = g.tm := (rfl)
@[simp] theorem Gn.setWin_isls (g : Gn) (w : Nat) (x : WinSt) : (g.setWin w x).isls = g.isls := (rfl)
@[simp] theorem Gn.setWin_sits (g : Gn) (w : Nat) (x : WinSt) : (g.setWin w x).sits = g.sits := (rfl)
@[simp] theorem Gn.setWin_parked (g : Gn) (w : Nat) (x : WinSt) : (g.setWin w x).parked = g.parked := (rfl)
@[simp] theorem Gn.setWin_rd (g : Gn) (w : Nat) (x : WinSt) : (g.setWin w x).rd = g.rd := (rfl)
@[simp] theorem Gn.setWin_sq (g : Gn) (w : Nat) (x : WinSt) : (g.setWin w x).sq = g.sq := (rfl)
@[simp] theorem Gn.setWin_ar (g : Gn) (w : Nat) (x : WinSt) : (g.setWin w x).ar = g.ar := (rfl)
@[simp] theorem Gn.setWin_ts (g : Gn) (w : Nat) (x : WinSt) : (g.setWin w x).ts = g.ts := (rfl)
@[simp] theorem Gn.setWin_pf (g : Gn) (w : Nat) (x : WinSt) : (g.setWin w x).pf = g.pf := (rfl)
@[simp] theorem Gn.setWin_hl (g : Gn) (w : Nat) (x : WinSt) : (g.setWin w x).hl = g.hl := (rfl)
@[simp] theorem Gn.setWin_free (g : Gn) (w : Nat) (x : WinSt) : (g.setWin w x).free = g.free := (rfl)
@[simp] theorem Gn.setWin_out (g : Gn) (w : Nat) (x : WinSt) : (g.setWin w x).out = g.out := (rfl)
@[simp] theorem Gn.setWin_mem (g : Gn) (w : Nat) (x : WinSt) : (g.setWin w x).mem = g.mem := (rfl)
@[simp] theorem Gn.setSit_regs (g : Gn) (x : Sit) : (g.setSit x).regs = g.regs := (rfl)
@[simp] theorem Gn.setSit_msix (g : Gn) (x : Sit) : (g.setSit x).msix = g.msix := (rfl)
@[simp] theorem Gn.setSit_lastRst (g : Gn) (x : Sit) : (g.setSit x).lastRst = g.lastRst := (rfl)
@[simp] theorem Gn.setSit_ev (g : Gn) (x : Sit) : (g.setSit x).ev = g.ev := (rfl)
@[simp] theorem Gn.setSit_hq (g : Gn) (x : Sit) : (g.setSit x).hq = g.hq := (rfl)
@[simp] theorem Gn.setSit_pw (g : Gn) (x : Sit) : (g.setSit x).pw = g.pw := (rfl)
@[simp] theorem Gn.setSit_sc (g : Gn) (x : Sit) : (g.setSit x).sc = g.sc := (rfl)
@[simp] theorem Gn.setSit_hg (g : Gn) (x : Sit) : (g.setSit x).hg = g.hg := (rfl)
@[simp] theorem Gn.setSit_lk (g : Gn) (x : Sit) : (g.setSit x).lk = g.lk := (rfl)
@[simp] theorem Gn.setSit_tm (g : Gn) (x : Sit) : (g.setSit x).tm = g.tm := (rfl)
@[simp] theorem Gn.setSit_isls (g : Gn) (x : Sit) : (g.setSit x).isls = g.isls := (rfl)
@[simp] theorem Gn.setSit_wins (g : Gn) (x : Sit) : (g.setSit x).wins = g.wins := (rfl)
@[simp] theorem Gn.setSit_parked (g : Gn) (x : Sit) : (g.setSit x).parked = g.parked := (rfl)
@[simp] theorem Gn.setSit_rd (g : Gn) (x : Sit) : (g.setSit x).rd = g.rd := (rfl)
@[simp] theorem Gn.setSit_sq (g : Gn) (x : Sit) : (g.setSit x).sq = g.sq := (rfl)
@[simp] theorem Gn.setSit_ar (g : Gn) (x : Sit) : (g.setSit x).ar = g.ar := (rfl)
@[simp] theorem Gn.setSit_ts (g : Gn) (x : Sit) : (g.setSit x).ts = g.ts := (rfl)
@[simp] theorem Gn.setSit_pf (g : Gn) (x : Sit) : (g.setSit x).pf = g.pf := (rfl)
@[simp] theorem Gn.setSit_hl (g : Gn) (x : Sit) : (g.setSit x).hl = g.hl := (rfl)
@[simp] theorem Gn.setSit_free (g : Gn) (x : Sit) : (g.setSit x).free = g.free := (rfl)
@[simp] theorem Gn.setSit_out (g : Gn) (x : Sit) : (g.setSit x).out = g.out := (rfl)
@[simp] theorem Gn.setSit_mem (g : Gn) (x : Sit) : (g.setSit x).mem = g.mem := (rfl)
@[simp] theorem Gn.setMon_regs (g : Gn) (n : Nat) (x : MonSt) : (g.setMon n x).regs = g.regs := (rfl)
@[simp] theorem Gn.setMon_msix (g : Gn) (n : Nat) (x : MonSt) : (g.setMon n x).msix = g.msix := (rfl)
@[simp] theorem Gn.setMon_lastRst (g : Gn) (n : Nat) (x : MonSt) : (g.setMon n x).lastRst = g.lastRst := (rfl)
@[simp] theorem Gn.setMon_ev (g : Gn) (n : Nat) (x : MonSt) : (g.setMon n x).ev = g.ev := (rfl)
@[simp] theorem Gn.setMon_hq (g : Gn) (n : Nat) (x : MonSt) : (g.setMon n x).hq = g.hq := (rfl)
@[simp] theorem Gn.setMon_pw (g : Gn) (n : Nat) (x : MonSt) : (g.setMon n x).pw = g.pw := (rfl)
@[simp] theorem Gn.setMon_sc (g : Gn) (n : Nat) (x : MonSt) : (g.setMon n x).sc = g.sc := (rfl)
@[simp] theorem Gn.setMon_lk (g : Gn) (n : Nat) (x : MonSt) : (g.setMon n x).lk = g.lk := (rfl)
@[simp] theorem Gn.setMon_tm (g : Gn) (n : Nat) (x : MonSt) : (g.setMon n x).tm = g.tm := (rfl)
@[simp] theorem Gn.setMon_isls (g : Gn) (n : Nat) (x : MonSt) : (g.setMon n x).isls = g.isls := (rfl)
@[simp] theorem Gn.setMon_wins (g : Gn) (n : Nat) (x : MonSt) : (g.setMon n x).wins = g.wins := (rfl)
@[simp] theorem Gn.setMon_sits (g : Gn) (n : Nat) (x : MonSt) : (g.setMon n x).sits = g.sits := (rfl)
@[simp] theorem Gn.setMon_parked (g : Gn) (n : Nat) (x : MonSt) : (g.setMon n x).parked = g.parked := (rfl)
@[simp] theorem Gn.setMon_rd (g : Gn) (n : Nat) (x : MonSt) : (g.setMon n x).rd = g.rd := (rfl)
@[simp] theorem Gn.setMon_sq (g : Gn) (n : Nat) (x : MonSt) : (g.setMon n x).sq = g.sq := (rfl)
@[simp] theorem Gn.setMon_ar (g : Gn) (n : Nat) (x : MonSt) : (g.setMon n x).ar = g.ar := (rfl)
@[simp] theorem Gn.setMon_ts (g : Gn) (n : Nat) (x : MonSt) : (g.setMon n x).ts = g.ts := (rfl)
@[simp] theorem Gn.setMon_pf (g : Gn) (n : Nat) (x : MonSt) : (g.setMon n x).pf = g.pf := (rfl)
@[simp] theorem Gn.setMon_hl (g : Gn) (n : Nat) (x : MonSt) : (g.setMon n x).hl = g.hl := (rfl)
@[simp] theorem Gn.setMon_free (g : Gn) (n : Nat) (x : MonSt) : (g.setMon n x).free = g.free := (rfl)
@[simp] theorem Gn.setMon_out (g : Gn) (n : Nat) (x : MonSt) : (g.setMon n x).out = g.out := (rfl)
@[simp] theorem Gn.setMon_mem (g : Gn) (n : Nat) (x : MonSt) : (g.setMon n x).mem = g.mem := (rfl)
@[simp] theorem Gn.setEns_regs (g : Gn) (n : Nat) (x : Ens) : (g.setEns n x).regs = g.regs := (rfl)
@[simp] theorem Gn.setEns_msix (g : Gn) (n : Nat) (x : Ens) : (g.setEns n x).msix = g.msix := (rfl)
@[simp] theorem Gn.setEns_lastRst (g : Gn) (n : Nat) (x : Ens) : (g.setEns n x).lastRst = g.lastRst := (rfl)
@[simp] theorem Gn.setEns_ev (g : Gn) (n : Nat) (x : Ens) : (g.setEns n x).ev = g.ev := (rfl)
@[simp] theorem Gn.setEns_hq (g : Gn) (n : Nat) (x : Ens) : (g.setEns n x).hq = g.hq := (rfl)
@[simp] theorem Gn.setEns_pw (g : Gn) (n : Nat) (x : Ens) : (g.setEns n x).pw = g.pw := (rfl)
@[simp] theorem Gn.setEns_sc (g : Gn) (n : Nat) (x : Ens) : (g.setEns n x).sc = g.sc := (rfl)
@[simp] theorem Gn.setEns_hg (g : Gn) (n : Nat) (x : Ens) : (g.setEns n x).hg = g.hg := (rfl)
@[simp] theorem Gn.setEns_lk (g : Gn) (n : Nat) (x : Ens) : (g.setEns n x).lk = g.lk := (rfl)
@[simp] theorem Gn.setEns_tm (g : Gn) (n : Nat) (x : Ens) : (g.setEns n x).tm = g.tm := (rfl)
@[simp] theorem Gn.setEns_isls (g : Gn) (n : Nat) (x : Ens) : (g.setEns n x).isls = g.isls := (rfl)
@[simp] theorem Gn.setEns_wins (g : Gn) (n : Nat) (x : Ens) : (g.setEns n x).wins = g.wins := (rfl)
@[simp] theorem Gn.setEns_sits (g : Gn) (n : Nat) (x : Ens) : (g.setEns n x).sits = g.sits := (rfl)
@[simp] theorem Gn.setEns_parked (g : Gn) (n : Nat) (x : Ens) : (g.setEns n x).parked = g.parked := (rfl)
@[simp] theorem Gn.setEns_rd (g : Gn) (n : Nat) (x : Ens) : (g.setEns n x).rd = g.rd := (rfl)
@[simp] theorem Gn.setEns_sq (g : Gn) (n : Nat) (x : Ens) : (g.setEns n x).sq = g.sq := (rfl)
@[simp] theorem Gn.setEns_ar (g : Gn) (n : Nat) (x : Ens) : (g.setEns n x).ar = g.ar := (rfl)
@[simp] theorem Gn.setEns_pf (g : Gn) (n : Nat) (x : Ens) : (g.setEns n x).pf = g.pf := (rfl)
@[simp] theorem Gn.setEns_hl (g : Gn) (n : Nat) (x : Ens) : (g.setEns n x).hl = g.hl := (rfl)
@[simp] theorem Gn.setEns_free (g : Gn) (n : Nat) (x : Ens) : (g.setEns n x).free = g.free := (rfl)
@[simp] theorem Gn.setEns_out (g : Gn) (n : Nat) (x : Ens) : (g.setEns n x).out = g.out := (rfl)
@[simp] theorem Gn.setEns_mem (g : Gn) (n : Nat) (x : Ens) : (g.setEns n x).mem = g.mem := (rfl)
@[simp] theorem Gn.setGraph_regs (g : Gn) (x : Graph) : (g.setGraph x).regs = g.regs := (rfl)
@[simp] theorem Gn.setGraph_msix (g : Gn) (x : Graph) : (g.setGraph x).msix = g.msix := (rfl)
@[simp] theorem Gn.setGraph_lastRst (g : Gn) (x : Graph) : (g.setGraph x).lastRst = g.lastRst := (rfl)
@[simp] theorem Gn.setGraph_ev (g : Gn) (x : Graph) : (g.setGraph x).ev = g.ev := (rfl)
@[simp] theorem Gn.setGraph_hq (g : Gn) (x : Graph) : (g.setGraph x).hq = g.hq := (rfl)
@[simp] theorem Gn.setGraph_pw (g : Gn) (x : Graph) : (g.setGraph x).pw = g.pw := (rfl)
@[simp] theorem Gn.setGraph_sc (g : Gn) (x : Graph) : (g.setGraph x).sc = g.sc := (rfl)
@[simp] theorem Gn.setGraph_hg (g : Gn) (x : Graph) : (g.setGraph x).hg = g.hg := (rfl)
@[simp] theorem Gn.setGraph_lk (g : Gn) (x : Graph) : (g.setGraph x).lk = g.lk := (rfl)
@[simp] theorem Gn.setGraph_tm (g : Gn) (x : Graph) : (g.setGraph x).tm = g.tm := (rfl)
@[simp] theorem Gn.setGraph_isls (g : Gn) (x : Graph) : (g.setGraph x).isls = g.isls := (rfl)
@[simp] theorem Gn.setGraph_wins (g : Gn) (x : Graph) : (g.setGraph x).wins = g.wins := (rfl)
@[simp] theorem Gn.setGraph_sits (g : Gn) (x : Graph) : (g.setGraph x).sits = g.sits := (rfl)
@[simp] theorem Gn.setGraph_parked (g : Gn) (x : Graph) : (g.setGraph x).parked = g.parked := (rfl)
@[simp] theorem Gn.setGraph_rd (g : Gn) (x : Graph) : (g.setGraph x).rd = g.rd := (rfl)
@[simp] theorem Gn.setGraph_ar (g : Gn) (x : Graph) : (g.setGraph x).ar = g.ar := (rfl)
@[simp] theorem Gn.setGraph_ts (g : Gn) (x : Graph) : (g.setGraph x).ts = g.ts := (rfl)
@[simp] theorem Gn.setGraph_pf (g : Gn) (x : Graph) : (g.setGraph x).pf = g.pf := (rfl)
@[simp] theorem Gn.setGraph_hl (g : Gn) (x : Graph) : (g.setGraph x).hl = g.hl := (rfl)
@[simp] theorem Gn.setGraph_free (g : Gn) (x : Graph) : (g.setGraph x).free = g.free := (rfl)
@[simp] theorem Gn.setGraph_out (g : Gn) (x : Graph) : (g.setGraph x).out = g.out := (rfl)
@[simp] theorem Gn.setGraph_mem (g : Gn) (x : Graph) : (g.setGraph x).mem = g.mem := (rfl)
@[simp] theorem Gn.setTrack_regs (g : Gn) (site : Nat) (x : Track) : (g.setTrack site x).regs = g.regs := (rfl)
@[simp] theorem Gn.setTrack_msix (g : Gn) (site : Nat) (x : Track) : (g.setTrack site x).msix = g.msix := (rfl)
@[simp] theorem Gn.setTrack_lastRst (g : Gn) (site : Nat) (x : Track) : (g.setTrack site x).lastRst = g.lastRst := (rfl)
@[simp] theorem Gn.setTrack_ev (g : Gn) (site : Nat) (x : Track) : (g.setTrack site x).ev = g.ev := (rfl)
@[simp] theorem Gn.setTrack_hq (g : Gn) (site : Nat) (x : Track) : (g.setTrack site x).hq = g.hq := (rfl)
@[simp] theorem Gn.setTrack_pw (g : Gn) (site : Nat) (x : Track) : (g.setTrack site x).pw = g.pw := (rfl)
@[simp] theorem Gn.setTrack_sc (g : Gn) (site : Nat) (x : Track) : (g.setTrack site x).sc = g.sc := (rfl)
@[simp] theorem Gn.setTrack_hg (g : Gn) (site : Nat) (x : Track) : (g.setTrack site x).hg = g.hg := (rfl)
@[simp] theorem Gn.setTrack_lk (g : Gn) (site : Nat) (x : Track) : (g.setTrack site x).lk = g.lk := (rfl)
@[simp] theorem Gn.setTrack_tm (g : Gn) (site : Nat) (x : Track) : (g.setTrack site x).tm = g.tm := (rfl)
@[simp] theorem Gn.setTrack_isls (g : Gn) (site : Nat) (x : Track) : (g.setTrack site x).isls = g.isls := (rfl)
@[simp] theorem Gn.setTrack_wins (g : Gn) (site : Nat) (x : Track) : (g.setTrack site x).wins = g.wins := (rfl)
@[simp] theorem Gn.setTrack_sits (g : Gn) (site : Nat) (x : Track) : (g.setTrack site x).sits = g.sits := (rfl)
@[simp] theorem Gn.setTrack_parked (g : Gn) (site : Nat) (x : Track) : (g.setTrack site x).parked = g.parked := (rfl)
@[simp] theorem Gn.setTrack_rd (g : Gn) (site : Nat) (x : Track) : (g.setTrack site x).rd = g.rd := (rfl)
@[simp] theorem Gn.setTrack_sq (g : Gn) (site : Nat) (x : Track) : (g.setTrack site x).sq = g.sq := (rfl)
@[simp] theorem Gn.setTrack_ar (g : Gn) (site : Nat) (x : Track) : (g.setTrack site x).ar = g.ar := (rfl)
@[simp] theorem Gn.setTrack_ts (g : Gn) (site : Nat) (x : Track) : (g.setTrack site x).ts = g.ts := (rfl)
@[simp] theorem Gn.setTrack_hl (g : Gn) (site : Nat) (x : Track) : (g.setTrack site x).hl = g.hl := (rfl)
@[simp] theorem Gn.setTrack_free (g : Gn) (site : Nat) (x : Track) : (g.setTrack site x).free = g.free := (rfl)
@[simp] theorem Gn.setTrack_out (g : Gn) (site : Nat) (x : Track) : (g.setTrack site x).out = g.out := (rfl)
@[simp] theorem Gn.setTrack_mem (g : Gn) (site : Nat) (x : Track) : (g.setTrack site x).mem = g.mem := (rfl)

/-! ### Pins, interrupts and the port queue of the block -/

@[simp] theorem Pl.showPins_par (p q : Pl) : (p.showPins q).par = q.par := (rfl)
@[simp] theorem Pl.showPins_intStat (p q : Pl) : (p.showPins q).intStat = q.intStat := (rfl)
@[simp] theorem Pl.showPins_intEn (p q : Pl) : (p.showPins q).intEn = q.intEn := (rfl)
@[simp] theorem Pl.showPins_tm (p q : Pl) : (p.showPins q).tm = q.tm := (rfl)
@[simp] theorem Pl.showPins_valid (p q : Pl) : (p.showPins q).valid = q.valid := (rfl)
@[simp] theorem Pl.showPins_resync (p q : Pl) : (p.showPins q).resync = q.resync := (rfl)
@[simp] theorem Pl.showPins_frzEn (p q : Pl) : (p.showPins q).frzEn = q.frzEn := (rfl)
@[simp] theorem Pl.showPins_frzMaxUs (p q : Pl) : (p.showPins q).frzMaxUs = q.frzMaxUs := (rfl)
@[simp] theorem Pl.showPins_overrun (p q : Pl) : (p.showPins q).overrun = q.overrun := (rfl)
@[simp] theorem Pl.showPins_sitReqs (p q : Pl) : (p.showPins q).sitReqs = q.sitReqs := (rfl)
@[simp] theorem Pl.showPins_images (p q : Pl) : (p.showPins q).images = q.images := (rfl)
@[simp] theorem Pl.showPins_frzs (p q : Pl) : (p.showPins q).frzs = q.frzs := (rfl)
@[simp] theorem Pl.showPins_frzSince (p q : Pl) : (p.showPins q).frzSince = q.frzSince := (rfl)
@[simp] theorem Pl.showPins_frzSit (p q : Pl) : (p.showPins q).frzSit = q.frzSit := (rfl)
@[simp] theorem Pl.showPins_ivl (p q : Pl) : (p.showPins q).ivl = q.ivl := (rfl)
@[simp] theorem Pl.showPins_palArmed (p q : Pl) : (p.showPins q).palArmed = q.palArmed := (rfl)
@[simp] theorem Pl.showPins_skipCnt (p q : Pl) : (p.showPins q).skipCnt = q.skipCnt := (rfl)
@[simp] theorem Pl.showPins_palGen (p q : Pl) : (p.showPins q).palGen = q.palGen := (rfl)
@[simp] theorem Pl.showPins_pal (p q : Pl) : (p.showPins q).pal = q.pal := (rfl)
@[simp] theorem Pl.showPins_palPend (p q : Pl) : (p.showPins q).palPend = q.palPend := (rfl)
@[simp] theorem Pl.showPins_skips (p q : Pl) : (p.showPins q).skips = q.skips := (rfl)
@[simp] theorem Pl.showPins_resumed (p q : Pl) : (p.showPins q).resumed = q.resumed := (rfl)
@[simp] theorem Pl.showPins_cnt (p q : Pl) : (p.showPins q).cnt = q.cnt := (rfl)
@[simp] theorem Pl.showPins_shadow (p q : Pl) : (p.showPins q).shadow = q.shadow := (rfl)
@[simp] theorem Pl.showPins_sitShadow (p q : Pl) : (p.showPins q).sitShadow = q.sitShadow := (rfl)
@[simp] theorem Pl.showPins_cntIdx (p q : Pl) : (p.showPins q).cntIdx = q.cntIdx := (rfl)
@[simp] theorem Pl.showPins_latches (p q : Pl) : (p.showPins q).latches = q.latches := (rfl)
@[simp] theorem Pl.showPins_trEn (p q : Pl) : (p.showPins q).trEn = q.trEn := (rfl)
@[simp] theorem Pl.showPins_trMode (p q : Pl) : (p.showPins q).trMode = q.trMode := (rfl)
@[simp] theorem Pl.showPins_trStall (p q : Pl) : (p.showPins q).trStall = q.trStall := (rfl)
@[simp] theorem Pl.showPins_loss (p q : Pl) : (p.showPins q).loss = q.loss := (rfl)
@[simp] theorem Pl.showPins_cores (p q : Pl) : (p.showPins q).cores = q.cores := (rfl)
@[simp] theorem Pl.showPins_circ (p q : Pl) : (p.showPins q).circ = q.circ := (rfl)
@[simp] theorem Pl.showPins_written (p q : Pl) : (p.showPins q).written = q.written := (rfl)
@[simp] theorem Pl.showPins_lastStamp (p q : Pl) : (p.showPins q).lastStamp = q.lastStamp := (rfl)
@[simp] theorem Pl.showPins_stampEnd (p q : Pl) : (p.showPins q).stampEnd = q.stampEnd := (rfl)
@[simp] theorem Pl.showPins_stampPend (p q : Pl) : (p.showPins q).stampPend = q.stampPend := (rfl)
@[simp] theorem Pl.showPins_dmaLast (p q : Pl) : (p.showPins q).dmaLast = q.dmaLast := (rfl)
@[simp] theorem Pl.showPins_mons (p q : Pl) : (p.showPins q).mons = q.mons := (rfl)
@[simp] theorem Pl.showPins_pgSel (p q : Pl) : (p.showPins q).pgSel = q.pgSel := (rfl)
@[simp] theorem Pl.showPins_rpMon (p q : Pl) : (p.showPins q).rpMon = q.rpMon := (rfl)
@[simp] theorem Pl.showPins_rpEn (p q : Pl) : (p.showPins q).rpEn = q.rpEn := (rfl)
@[simp] theorem Pl.showPins_pgStall (p q : Pl) : (p.showPins q).pgStall = q.pgStall := (rfl)
@[simp] theorem Pl.showPins_seeds (p q : Pl) : (p.showPins q).seeds = q.seeds := (rfl)
@[simp] theorem Pl.showPins_exps (p q : Pl) : (p.showPins q).exps = q.exps := (rfl)
@[simp] theorem Pl.showPins_inStream (p q : Pl) : (p.showPins q).inStream = q.inStream := (rfl)
@[simp] theorem Pl.showPins_nextSeq (p q : Pl) : (p.showPins q).nextSeq = q.nextSeq := (rfl)
@[simp] theorem Pl.showPins_watermark (p q : Pl) : (p.showPins q).watermark = q.watermark := (rfl)
@[simp] theorem Pl.showPins_rpQ (p q : Pl) : (p.showPins q).rpQ = q.rpQ := (rfl)
@[simp] theorem Pl.showPins_rpUp (p q : Pl) : (p.showPins q).rpUp = q.rpUp := (rfl)
@[simp] theorem Pl.showPins_rpLow (p q : Pl) : (p.showPins q).rpLow = q.rpLow := (rfl)
@[simp] theorem Pl.showPins_rexQ (p q : Pl) : (p.showPins q).rexQ = q.rexQ := (rfl)
@[simp] theorem Pl.showPins_seedMiss (p q : Pl) : (p.showPins q).seedMiss = q.seedMiss := (rfl)
@[simp] theorem Pl.showPins_selSkip (p q : Pl) : (p.showPins q).selSkip = q.selSkip := (rfl)
@[simp] theorem Pl.showPins_exports (p q : Pl) : (p.showPins q).exports = q.exports := (rfl)
@[simp] theorem Pl.showPins_rpMerge (p q : Pl) : (p.showPins q).rpMerge = q.rpMerge := (rfl)
@[simp] theorem Pl.showPins_vdUnknown (p q : Pl) : (p.showPins q).vdUnknown = q.vdUnknown := (rfl)
@[simp] theorem Pl.showPins_evs (p q : Pl) : (p.showPins q).evs = q.evs := (rfl)
@[simp] theorem Pl.showPins_coal (p q : Pl) : (p.showPins q).coal = q.coal := (rfl)
@[simp] theorem Pl.showPins_evDropped (p q : Pl) : (p.showPins q).evDropped = q.evDropped := (rfl)
@[simp] theorem Pl.showPins_pentimento (p q : Pl) : (p.showPins q).pentimento = q.pentimento := (rfl)
@[simp] theorem Pl.showPins_lkState (p q : Pl) : (p.showPins q).lkState = q.lkState := (rfl)
@[simp] theorem Pl.showPins_restarts (p q : Pl) : (p.showPins q).restarts = q.restarts := (rfl)
@[simp] theorem Pl.showPins_rxBad (p q : Pl) : (p.showPins q).rxBad = q.rxBad := (rfl)
@[simp] theorem Pl.showPins_studio (p q : Pl) : (p.showPins q).studio = q.studio := (rfl)
@[simp] theorem Pl.showPins_tagValid (p q : Pl) : (p.showPins q).tagValid = q.tagValid := (rfl)
@[simp] theorem Pl.showPins_mpDeny (p q : Pl) : (p.showPins q).mpDeny = q.mpDeny := (rfl)
@[simp] theorem Pl.showPins_q (p q : Pl) : (p.showPins q).q = q.q := (rfl)
@[simp] theorem Pl.showPins_grants (p q : Pl) : (p.showPins q).grants = q.grants := (rfl)
@[simp] theorem Pl.showPins_seqs (p q : Pl) : (p.showPins q).seqs = q.seqs := (rfl)
@[simp] theorem Pl.showPins_wrote (p q : Pl) : (p.showPins q).wrote = q.wrote := (rfl)
@[simp] theorem Pl.emitOut_par (p : Pl) (x : Out) : (p.emitOut x).par = p.par := (rfl)
@[simp] theorem Pl.emitOut_intStat (p : Pl) (x : Out) : (p.emitOut x).intStat = p.intStat := (rfl)
@[simp] theorem Pl.emitOut_intEn (p : Pl) (x : Out) : (p.emitOut x).intEn = p.intEn := (rfl)
@[simp] theorem Pl.emitOut_tm (p : Pl) (x : Out) : (p.emitOut x).tm = p.tm := (rfl)
@[simp] theorem Pl.emitOut_valid (p : Pl) (x : Out) : (p.emitOut x).valid = p.valid := (rfl)
@[simp] theorem Pl.emitOut_resync (p : Pl) (x : Out) : (p.emitOut x).resync = p.resync := (rfl)
@[simp] theorem Pl.emitOut_frzEn (p : Pl) (x : Out) : (p.emitOut x).frzEn = p.frzEn := (rfl)
@[simp] theorem Pl.emitOut_frzMaxUs (p : Pl) (x : Out) : (p.emitOut x).frzMaxUs = p.frzMaxUs := (rfl)
@[simp] theorem Pl.emitOut_overrun (p : Pl) (x : Out) : (p.emitOut x).overrun = p.overrun := (rfl)
@[simp] theorem Pl.emitOut_sitReqs (p : Pl) (x : Out) : (p.emitOut x).sitReqs = p.sitReqs := (rfl)
@[simp] theorem Pl.emitOut_images (p : Pl) (x : Out) : (p.emitOut x).images = p.images := (rfl)
@[simp] theorem Pl.emitOut_frzs (p : Pl) (x : Out) : (p.emitOut x).frzs = p.frzs := (rfl)
@[simp] theorem Pl.emitOut_frzSince (p : Pl) (x : Out) : (p.emitOut x).frzSince = p.frzSince := (rfl)
@[simp] theorem Pl.emitOut_frzSit (p : Pl) (x : Out) : (p.emitOut x).frzSit = p.frzSit := (rfl)
@[simp] theorem Pl.emitOut_ivl (p : Pl) (x : Out) : (p.emitOut x).ivl = p.ivl := (rfl)
@[simp] theorem Pl.emitOut_palArmed (p : Pl) (x : Out) : (p.emitOut x).palArmed = p.palArmed := (rfl)
@[simp] theorem Pl.emitOut_skipCnt (p : Pl) (x : Out) : (p.emitOut x).skipCnt = p.skipCnt := (rfl)
@[simp] theorem Pl.emitOut_palGen (p : Pl) (x : Out) : (p.emitOut x).palGen = p.palGen := (rfl)
@[simp] theorem Pl.emitOut_pal (p : Pl) (x : Out) : (p.emitOut x).pal = p.pal := (rfl)
@[simp] theorem Pl.emitOut_palPend (p : Pl) (x : Out) : (p.emitOut x).palPend = p.palPend := (rfl)
@[simp] theorem Pl.emitOut_skips (p : Pl) (x : Out) : (p.emitOut x).skips = p.skips := (rfl)
@[simp] theorem Pl.emitOut_resumed (p : Pl) (x : Out) : (p.emitOut x).resumed = p.resumed := (rfl)
@[simp] theorem Pl.emitOut_cnt (p : Pl) (x : Out) : (p.emitOut x).cnt = p.cnt := (rfl)
@[simp] theorem Pl.emitOut_shadow (p : Pl) (x : Out) : (p.emitOut x).shadow = p.shadow := (rfl)
@[simp] theorem Pl.emitOut_sitShadow (p : Pl) (x : Out) : (p.emitOut x).sitShadow = p.sitShadow := (rfl)
@[simp] theorem Pl.emitOut_cntIdx (p : Pl) (x : Out) : (p.emitOut x).cntIdx = p.cntIdx := (rfl)
@[simp] theorem Pl.emitOut_latches (p : Pl) (x : Out) : (p.emitOut x).latches = p.latches := (rfl)
@[simp] theorem Pl.emitOut_trEn (p : Pl) (x : Out) : (p.emitOut x).trEn = p.trEn := (rfl)
@[simp] theorem Pl.emitOut_trMode (p : Pl) (x : Out) : (p.emitOut x).trMode = p.trMode := (rfl)
@[simp] theorem Pl.emitOut_trStall (p : Pl) (x : Out) : (p.emitOut x).trStall = p.trStall := (rfl)
@[simp] theorem Pl.emitOut_loss (p : Pl) (x : Out) : (p.emitOut x).loss = p.loss := (rfl)
@[simp] theorem Pl.emitOut_cores (p : Pl) (x : Out) : (p.emitOut x).cores = p.cores := (rfl)
@[simp] theorem Pl.emitOut_circ (p : Pl) (x : Out) : (p.emitOut x).circ = p.circ := (rfl)
@[simp] theorem Pl.emitOut_written (p : Pl) (x : Out) : (p.emitOut x).written = p.written := (rfl)
@[simp] theorem Pl.emitOut_lastStamp (p : Pl) (x : Out) : (p.emitOut x).lastStamp = p.lastStamp := (rfl)
@[simp] theorem Pl.emitOut_stampEnd (p : Pl) (x : Out) : (p.emitOut x).stampEnd = p.stampEnd := (rfl)
@[simp] theorem Pl.emitOut_stampPend (p : Pl) (x : Out) : (p.emitOut x).stampPend = p.stampPend := (rfl)
@[simp] theorem Pl.emitOut_dmaLast (p : Pl) (x : Out) : (p.emitOut x).dmaLast = p.dmaLast := (rfl)
@[simp] theorem Pl.emitOut_mons (p : Pl) (x : Out) : (p.emitOut x).mons = p.mons := (rfl)
@[simp] theorem Pl.emitOut_pgSel (p : Pl) (x : Out) : (p.emitOut x).pgSel = p.pgSel := (rfl)
@[simp] theorem Pl.emitOut_rpMon (p : Pl) (x : Out) : (p.emitOut x).rpMon = p.rpMon := (rfl)
@[simp] theorem Pl.emitOut_rpEn (p : Pl) (x : Out) : (p.emitOut x).rpEn = p.rpEn := (rfl)
@[simp] theorem Pl.emitOut_pgStall (p : Pl) (x : Out) : (p.emitOut x).pgStall = p.pgStall := (rfl)
@[simp] theorem Pl.emitOut_seeds (p : Pl) (x : Out) : (p.emitOut x).seeds = p.seeds := (rfl)
@[simp] theorem Pl.emitOut_exps (p : Pl) (x : Out) : (p.emitOut x).exps = p.exps := (rfl)
@[simp] theorem Pl.emitOut_inStream (p : Pl) (x : Out) : (p.emitOut x).inStream = p.inStream := (rfl)
@[simp] theorem Pl.emitOut_nextSeq (p : Pl) (x : Out) : (p.emitOut x).nextSeq = p.nextSeq := (rfl)
@[simp] theorem Pl.emitOut_watermark (p : Pl) (x : Out) : (p.emitOut x).watermark = p.watermark := (rfl)
@[simp] theorem Pl.emitOut_rpQ (p : Pl) (x : Out) : (p.emitOut x).rpQ = p.rpQ := (rfl)
@[simp] theorem Pl.emitOut_rpUp (p : Pl) (x : Out) : (p.emitOut x).rpUp = p.rpUp := (rfl)
@[simp] theorem Pl.emitOut_rpLow (p : Pl) (x : Out) : (p.emitOut x).rpLow = p.rpLow := (rfl)
@[simp] theorem Pl.emitOut_rexQ (p : Pl) (x : Out) : (p.emitOut x).rexQ = p.rexQ := (rfl)
@[simp] theorem Pl.emitOut_seedMiss (p : Pl) (x : Out) : (p.emitOut x).seedMiss = p.seedMiss := (rfl)
@[simp] theorem Pl.emitOut_selSkip (p : Pl) (x : Out) : (p.emitOut x).selSkip = p.selSkip := (rfl)
@[simp] theorem Pl.emitOut_exports (p : Pl) (x : Out) : (p.emitOut x).exports = p.exports := (rfl)
@[simp] theorem Pl.emitOut_rpMerge (p : Pl) (x : Out) : (p.emitOut x).rpMerge = p.rpMerge := (rfl)
@[simp] theorem Pl.emitOut_vdUnknown (p : Pl) (x : Out) : (p.emitOut x).vdUnknown = p.vdUnknown := (rfl)
@[simp] theorem Pl.emitOut_evs (p : Pl) (x : Out) : (p.emitOut x).evs = p.evs := (rfl)
@[simp] theorem Pl.emitOut_coal (p : Pl) (x : Out) : (p.emitOut x).coal = p.coal := (rfl)
@[simp] theorem Pl.emitOut_evDropped (p : Pl) (x : Out) : (p.emitOut x).evDropped = p.evDropped := (rfl)
@[simp] theorem Pl.emitOut_pentimento (p : Pl) (x : Out) : (p.emitOut x).pentimento = p.pentimento := (rfl)
@[simp] theorem Pl.emitOut_lkState (p : Pl) (x : Out) : (p.emitOut x).lkState = p.lkState := (rfl)
@[simp] theorem Pl.emitOut_restarts (p : Pl) (x : Out) : (p.emitOut x).restarts = p.restarts := (rfl)
@[simp] theorem Pl.emitOut_rxBad (p : Pl) (x : Out) : (p.emitOut x).rxBad = p.rxBad := (rfl)
@[simp] theorem Pl.emitOut_studio (p : Pl) (x : Out) : (p.emitOut x).studio = p.studio := (rfl)
@[simp] theorem Pl.emitOut_tagValid (p : Pl) (x : Out) : (p.emitOut x).tagValid = p.tagValid := (rfl)
@[simp] theorem Pl.emitOut_mpDeny (p : Pl) (x : Out) : (p.emitOut x).mpDeny = p.mpDeny := (rfl)
@[simp] theorem Pl.emitOut_q (p : Pl) (x : Out) : (p.emitOut x).q = p.q := (rfl)
@[simp] theorem Pl.emitOut_grants (p : Pl) (x : Out) : (p.emitOut x).grants = p.grants := (rfl)
@[simp] theorem Pl.emitOut_seqs (p : Pl) (x : Out) : (p.emitOut x).seqs = p.seqs := (rfl)
@[simp] theorem Pl.emitOut_wrote (p : Pl) (x : Out) : (p.emitOut x).wrote = p.wrote := (rfl)
@[simp] theorem Pl.raise_par (p : Pl) (b : Nat) : (p.raise b).par = p.par := (rfl)
@[simp] theorem Pl.raise_intEn (p : Pl) (b : Nat) : (p.raise b).intEn = p.intEn := (rfl)
@[simp] theorem Pl.raise_tm (p : Pl) (b : Nat) : (p.raise b).tm = p.tm := (rfl)
@[simp] theorem Pl.raise_valid (p : Pl) (b : Nat) : (p.raise b).valid = p.valid := (rfl)
@[simp] theorem Pl.raise_resync (p : Pl) (b : Nat) : (p.raise b).resync = p.resync := (rfl)
@[simp] theorem Pl.raise_frzEn (p : Pl) (b : Nat) : (p.raise b).frzEn = p.frzEn := (rfl)
@[simp] theorem Pl.raise_frzMaxUs (p : Pl) (b : Nat) : (p.raise b).frzMaxUs = p.frzMaxUs := (rfl)
@[simp] theorem Pl.raise_overrun (p : Pl) (b : Nat) : (p.raise b).overrun = p.overrun := (rfl)
@[simp] theorem Pl.raise_sitReqs (p : Pl) (b : Nat) : (p.raise b).sitReqs = p.sitReqs := (rfl)
@[simp] theorem Pl.raise_images (p : Pl) (b : Nat) : (p.raise b).images = p.images := (rfl)
@[simp] theorem Pl.raise_frzs (p : Pl) (b : Nat) : (p.raise b).frzs = p.frzs := (rfl)
@[simp] theorem Pl.raise_frzSince (p : Pl) (b : Nat) : (p.raise b).frzSince = p.frzSince := (rfl)
@[simp] theorem Pl.raise_frzSit (p : Pl) (b : Nat) : (p.raise b).frzSit = p.frzSit := (rfl)
@[simp] theorem Pl.raise_ivl (p : Pl) (b : Nat) : (p.raise b).ivl = p.ivl := (rfl)
@[simp] theorem Pl.raise_palArmed (p : Pl) (b : Nat) : (p.raise b).palArmed = p.palArmed := (rfl)
@[simp] theorem Pl.raise_skipCnt (p : Pl) (b : Nat) : (p.raise b).skipCnt = p.skipCnt := (rfl)
@[simp] theorem Pl.raise_palGen (p : Pl) (b : Nat) : (p.raise b).palGen = p.palGen := (rfl)
@[simp] theorem Pl.raise_pal (p : Pl) (b : Nat) : (p.raise b).pal = p.pal := (rfl)
@[simp] theorem Pl.raise_palPend (p : Pl) (b : Nat) : (p.raise b).palPend = p.palPend := (rfl)
@[simp] theorem Pl.raise_skips (p : Pl) (b : Nat) : (p.raise b).skips = p.skips := (rfl)
@[simp] theorem Pl.raise_resumed (p : Pl) (b : Nat) : (p.raise b).resumed = p.resumed := (rfl)
@[simp] theorem Pl.raise_cnt (p : Pl) (b : Nat) : (p.raise b).cnt = p.cnt := (rfl)
@[simp] theorem Pl.raise_shadow (p : Pl) (b : Nat) : (p.raise b).shadow = p.shadow := (rfl)
@[simp] theorem Pl.raise_sitShadow (p : Pl) (b : Nat) : (p.raise b).sitShadow = p.sitShadow := (rfl)
@[simp] theorem Pl.raise_cntIdx (p : Pl) (b : Nat) : (p.raise b).cntIdx = p.cntIdx := (rfl)
@[simp] theorem Pl.raise_latches (p : Pl) (b : Nat) : (p.raise b).latches = p.latches := (rfl)
@[simp] theorem Pl.raise_trEn (p : Pl) (b : Nat) : (p.raise b).trEn = p.trEn := (rfl)
@[simp] theorem Pl.raise_trMode (p : Pl) (b : Nat) : (p.raise b).trMode = p.trMode := (rfl)
@[simp] theorem Pl.raise_trStall (p : Pl) (b : Nat) : (p.raise b).trStall = p.trStall := (rfl)
@[simp] theorem Pl.raise_loss (p : Pl) (b : Nat) : (p.raise b).loss = p.loss := (rfl)
@[simp] theorem Pl.raise_cores (p : Pl) (b : Nat) : (p.raise b).cores = p.cores := (rfl)
@[simp] theorem Pl.raise_circ (p : Pl) (b : Nat) : (p.raise b).circ = p.circ := (rfl)
@[simp] theorem Pl.raise_written (p : Pl) (b : Nat) : (p.raise b).written = p.written := (rfl)
@[simp] theorem Pl.raise_lastStamp (p : Pl) (b : Nat) : (p.raise b).lastStamp = p.lastStamp := (rfl)
@[simp] theorem Pl.raise_stampEnd (p : Pl) (b : Nat) : (p.raise b).stampEnd = p.stampEnd := (rfl)
@[simp] theorem Pl.raise_stampPend (p : Pl) (b : Nat) : (p.raise b).stampPend = p.stampPend := (rfl)
@[simp] theorem Pl.raise_dmaLast (p : Pl) (b : Nat) : (p.raise b).dmaLast = p.dmaLast := (rfl)
@[simp] theorem Pl.raise_mons (p : Pl) (b : Nat) : (p.raise b).mons = p.mons := (rfl)
@[simp] theorem Pl.raise_pgSel (p : Pl) (b : Nat) : (p.raise b).pgSel = p.pgSel := (rfl)
@[simp] theorem Pl.raise_rpMon (p : Pl) (b : Nat) : (p.raise b).rpMon = p.rpMon := (rfl)
@[simp] theorem Pl.raise_rpEn (p : Pl) (b : Nat) : (p.raise b).rpEn = p.rpEn := (rfl)
@[simp] theorem Pl.raise_pgStall (p : Pl) (b : Nat) : (p.raise b).pgStall = p.pgStall := (rfl)
@[simp] theorem Pl.raise_seeds (p : Pl) (b : Nat) : (p.raise b).seeds = p.seeds := (rfl)
@[simp] theorem Pl.raise_exps (p : Pl) (b : Nat) : (p.raise b).exps = p.exps := (rfl)
@[simp] theorem Pl.raise_inStream (p : Pl) (b : Nat) : (p.raise b).inStream = p.inStream := (rfl)
@[simp] theorem Pl.raise_nextSeq (p : Pl) (b : Nat) : (p.raise b).nextSeq = p.nextSeq := (rfl)
@[simp] theorem Pl.raise_watermark (p : Pl) (b : Nat) : (p.raise b).watermark = p.watermark := (rfl)
@[simp] theorem Pl.raise_rpQ (p : Pl) (b : Nat) : (p.raise b).rpQ = p.rpQ := (rfl)
@[simp] theorem Pl.raise_rpUp (p : Pl) (b : Nat) : (p.raise b).rpUp = p.rpUp := (rfl)
@[simp] theorem Pl.raise_rpLow (p : Pl) (b : Nat) : (p.raise b).rpLow = p.rpLow := (rfl)
@[simp] theorem Pl.raise_rexQ (p : Pl) (b : Nat) : (p.raise b).rexQ = p.rexQ := (rfl)
@[simp] theorem Pl.raise_seedMiss (p : Pl) (b : Nat) : (p.raise b).seedMiss = p.seedMiss := (rfl)
@[simp] theorem Pl.raise_selSkip (p : Pl) (b : Nat) : (p.raise b).selSkip = p.selSkip := (rfl)
@[simp] theorem Pl.raise_exports (p : Pl) (b : Nat) : (p.raise b).exports = p.exports := (rfl)
@[simp] theorem Pl.raise_rpMerge (p : Pl) (b : Nat) : (p.raise b).rpMerge = p.rpMerge := (rfl)
@[simp] theorem Pl.raise_vdUnknown (p : Pl) (b : Nat) : (p.raise b).vdUnknown = p.vdUnknown := (rfl)
@[simp] theorem Pl.raise_evs (p : Pl) (b : Nat) : (p.raise b).evs = p.evs := (rfl)
@[simp] theorem Pl.raise_coal (p : Pl) (b : Nat) : (p.raise b).coal = p.coal := (rfl)
@[simp] theorem Pl.raise_evDropped (p : Pl) (b : Nat) : (p.raise b).evDropped = p.evDropped := (rfl)
@[simp] theorem Pl.raise_pentimento (p : Pl) (b : Nat) : (p.raise b).pentimento = p.pentimento := (rfl)
@[simp] theorem Pl.raise_lkState (p : Pl) (b : Nat) : (p.raise b).lkState = p.lkState := (rfl)
@[simp] theorem Pl.raise_restarts (p : Pl) (b : Nat) : (p.raise b).restarts = p.restarts := (rfl)
@[simp] theorem Pl.raise_rxBad (p : Pl) (b : Nat) : (p.raise b).rxBad = p.rxBad := (rfl)
@[simp] theorem Pl.raise_studio (p : Pl) (b : Nat) : (p.raise b).studio = p.studio := (rfl)
@[simp] theorem Pl.raise_tagValid (p : Pl) (b : Nat) : (p.raise b).tagValid = p.tagValid := (rfl)
@[simp] theorem Pl.raise_mpDeny (p : Pl) (b : Nat) : (p.raise b).mpDeny = p.mpDeny := (rfl)
@[simp] theorem Pl.raise_q (p : Pl) (b : Nat) : (p.raise b).q = p.q := (rfl)
@[simp] theorem Pl.raise_grants (p : Pl) (b : Nat) : (p.raise b).grants = p.grants := (rfl)
@[simp] theorem Pl.raise_seqs (p : Pl) (b : Nat) : (p.raise b).seqs = p.seqs := (rfl)
@[simp] theorem Pl.raise_wrote (p : Pl) (b : Nat) : (p.raise b).wrote = p.wrote := (rfl)
@[simp] theorem Pl.raise_out (p : Pl) (b : Nat) : (p.raise b).out = p.out := (rfl)
@[simp] theorem Pl.queue_par (p : Pl) (it : PlItem) : (p.queue it).par = p.par := (rfl)
@[simp] theorem Pl.queue_intStat (p : Pl) (it : PlItem) : (p.queue it).intStat = p.intStat := (rfl)
@[simp] theorem Pl.queue_intEn (p : Pl) (it : PlItem) : (p.queue it).intEn = p.intEn := (rfl)
@[simp] theorem Pl.queue_tm (p : Pl) (it : PlItem) : (p.queue it).tm = p.tm := (rfl)
@[simp] theorem Pl.queue_valid (p : Pl) (it : PlItem) : (p.queue it).valid = p.valid := (rfl)
@[simp] theorem Pl.queue_resync (p : Pl) (it : PlItem) : (p.queue it).resync = p.resync := (rfl)
@[simp] theorem Pl.queue_frzEn (p : Pl) (it : PlItem) : (p.queue it).frzEn = p.frzEn := (rfl)
@[simp] theorem Pl.queue_frzMaxUs (p : Pl) (it : PlItem) : (p.queue it).frzMaxUs = p.frzMaxUs := (rfl)
@[simp] theorem Pl.queue_overrun (p : Pl) (it : PlItem) : (p.queue it).overrun = p.overrun := (rfl)
@[simp] theorem Pl.queue_sitReqs (p : Pl) (it : PlItem) : (p.queue it).sitReqs = p.sitReqs := (rfl)
@[simp] theorem Pl.queue_images (p : Pl) (it : PlItem) : (p.queue it).images = p.images := (rfl)
@[simp] theorem Pl.queue_frzs (p : Pl) (it : PlItem) : (p.queue it).frzs = p.frzs := (rfl)
@[simp] theorem Pl.queue_frzSince (p : Pl) (it : PlItem) : (p.queue it).frzSince = p.frzSince := (rfl)
@[simp] theorem Pl.queue_frzSit (p : Pl) (it : PlItem) : (p.queue it).frzSit = p.frzSit := (rfl)
@[simp] theorem Pl.queue_ivl (p : Pl) (it : PlItem) : (p.queue it).ivl = p.ivl := (rfl)
@[simp] theorem Pl.queue_palArmed (p : Pl) (it : PlItem) : (p.queue it).palArmed = p.palArmed := (rfl)
@[simp] theorem Pl.queue_skipCnt (p : Pl) (it : PlItem) : (p.queue it).skipCnt = p.skipCnt := (rfl)
@[simp] theorem Pl.queue_palGen (p : Pl) (it : PlItem) : (p.queue it).palGen = p.palGen := (rfl)
@[simp] theorem Pl.queue_pal (p : Pl) (it : PlItem) : (p.queue it).pal = p.pal := (rfl)
@[simp] theorem Pl.queue_palPend (p : Pl) (it : PlItem) : (p.queue it).palPend = p.palPend := (rfl)
@[simp] theorem Pl.queue_skips (p : Pl) (it : PlItem) : (p.queue it).skips = p.skips := (rfl)
@[simp] theorem Pl.queue_resumed (p : Pl) (it : PlItem) : (p.queue it).resumed = p.resumed := (rfl)
@[simp] theorem Pl.queue_cnt (p : Pl) (it : PlItem) : (p.queue it).cnt = p.cnt := (rfl)
@[simp] theorem Pl.queue_shadow (p : Pl) (it : PlItem) : (p.queue it).shadow = p.shadow := (rfl)
@[simp] theorem Pl.queue_sitShadow (p : Pl) (it : PlItem) : (p.queue it).sitShadow = p.sitShadow := (rfl)
@[simp] theorem Pl.queue_cntIdx (p : Pl) (it : PlItem) : (p.queue it).cntIdx = p.cntIdx := (rfl)
@[simp] theorem Pl.queue_latches (p : Pl) (it : PlItem) : (p.queue it).latches = p.latches := (rfl)
@[simp] theorem Pl.queue_trEn (p : Pl) (it : PlItem) : (p.queue it).trEn = p.trEn := (rfl)
@[simp] theorem Pl.queue_trMode (p : Pl) (it : PlItem) : (p.queue it).trMode = p.trMode := (rfl)
@[simp] theorem Pl.queue_trStall (p : Pl) (it : PlItem) : (p.queue it).trStall = p.trStall := (rfl)
@[simp] theorem Pl.queue_loss (p : Pl) (it : PlItem) : (p.queue it).loss = p.loss := (rfl)
@[simp] theorem Pl.queue_cores (p : Pl) (it : PlItem) : (p.queue it).cores = p.cores := (rfl)
@[simp] theorem Pl.queue_circ (p : Pl) (it : PlItem) : (p.queue it).circ = p.circ := (rfl)
@[simp] theorem Pl.queue_written (p : Pl) (it : PlItem) : (p.queue it).written = p.written := (rfl)
@[simp] theorem Pl.queue_lastStamp (p : Pl) (it : PlItem) : (p.queue it).lastStamp = p.lastStamp := (rfl)
@[simp] theorem Pl.queue_stampEnd (p : Pl) (it : PlItem) : (p.queue it).stampEnd = p.stampEnd := (rfl)
@[simp] theorem Pl.queue_stampPend (p : Pl) (it : PlItem) : (p.queue it).stampPend = p.stampPend := (rfl)
@[simp] theorem Pl.queue_dmaLast (p : Pl) (it : PlItem) : (p.queue it).dmaLast = p.dmaLast := (rfl)
@[simp] theorem Pl.queue_mons (p : Pl) (it : PlItem) : (p.queue it).mons = p.mons := (rfl)
@[simp] theorem Pl.queue_pgSel (p : Pl) (it : PlItem) : (p.queue it).pgSel = p.pgSel := (rfl)
@[simp] theorem Pl.queue_rpMon (p : Pl) (it : PlItem) : (p.queue it).rpMon = p.rpMon := (rfl)
@[simp] theorem Pl.queue_rpEn (p : Pl) (it : PlItem) : (p.queue it).rpEn = p.rpEn := (rfl)
@[simp] theorem Pl.queue_pgStall (p : Pl) (it : PlItem) : (p.queue it).pgStall = p.pgStall := (rfl)
@[simp] theorem Pl.queue_seeds (p : Pl) (it : PlItem) : (p.queue it).seeds = p.seeds := (rfl)
@[simp] theorem Pl.queue_exps (p : Pl) (it : PlItem) : (p.queue it).exps = p.exps := (rfl)
@[simp] theorem Pl.queue_inStream (p : Pl) (it : PlItem) : (p.queue it).inStream = p.inStream := (rfl)
@[simp] theorem Pl.queue_nextSeq (p : Pl) (it : PlItem) : (p.queue it).nextSeq = p.nextSeq := (rfl)
@[simp] theorem Pl.queue_watermark (p : Pl) (it : PlItem) : (p.queue it).watermark = p.watermark := (rfl)
@[simp] theorem Pl.queue_rpQ (p : Pl) (it : PlItem) : (p.queue it).rpQ = p.rpQ := (rfl)
@[simp] theorem Pl.queue_rpUp (p : Pl) (it : PlItem) : (p.queue it).rpUp = p.rpUp := (rfl)
@[simp] theorem Pl.queue_rpLow (p : Pl) (it : PlItem) : (p.queue it).rpLow = p.rpLow := (rfl)
@[simp] theorem Pl.queue_rexQ (p : Pl) (it : PlItem) : (p.queue it).rexQ = p.rexQ := (rfl)
@[simp] theorem Pl.queue_seedMiss (p : Pl) (it : PlItem) : (p.queue it).seedMiss = p.seedMiss := (rfl)
@[simp] theorem Pl.queue_selSkip (p : Pl) (it : PlItem) : (p.queue it).selSkip = p.selSkip := (rfl)
@[simp] theorem Pl.queue_exports (p : Pl) (it : PlItem) : (p.queue it).exports = p.exports := (rfl)
@[simp] theorem Pl.queue_rpMerge (p : Pl) (it : PlItem) : (p.queue it).rpMerge = p.rpMerge := (rfl)
@[simp] theorem Pl.queue_vdUnknown (p : Pl) (it : PlItem) : (p.queue it).vdUnknown = p.vdUnknown := (rfl)
@[simp] theorem Pl.queue_evs (p : Pl) (it : PlItem) : (p.queue it).evs = p.evs := (rfl)
@[simp] theorem Pl.queue_coal (p : Pl) (it : PlItem) : (p.queue it).coal = p.coal := (rfl)
@[simp] theorem Pl.queue_evDropped (p : Pl) (it : PlItem) : (p.queue it).evDropped = p.evDropped := (rfl)
@[simp] theorem Pl.queue_pentimento (p : Pl) (it : PlItem) : (p.queue it).pentimento = p.pentimento := (rfl)
@[simp] theorem Pl.queue_lkState (p : Pl) (it : PlItem) : (p.queue it).lkState = p.lkState := (rfl)
@[simp] theorem Pl.queue_restarts (p : Pl) (it : PlItem) : (p.queue it).restarts = p.restarts := (rfl)
@[simp] theorem Pl.queue_rxBad (p : Pl) (it : PlItem) : (p.queue it).rxBad = p.rxBad := (rfl)
@[simp] theorem Pl.queue_studio (p : Pl) (it : PlItem) : (p.queue it).studio = p.studio := (rfl)
@[simp] theorem Pl.queue_tagValid (p : Pl) (it : PlItem) : (p.queue it).tagValid = p.tagValid := (rfl)
@[simp] theorem Pl.queue_mpDeny (p : Pl) (it : PlItem) : (p.queue it).mpDeny = p.mpDeny := (rfl)
@[simp] theorem Pl.queue_grants (p : Pl) (it : PlItem) : (p.queue it).grants = p.grants := (rfl)
@[simp] theorem Pl.queue_seqs (p : Pl) (it : PlItem) : (p.queue it).seqs = p.seqs := (rfl)
@[simp] theorem Pl.queue_wrote (p : Pl) (it : PlItem) : (p.queue it).wrote = p.wrote := (rfl)
@[simp] theorem Pl.queue_out (p : Pl) (it : PlItem) : (p.queue it).out = p.out := (rfl)
@[simp] theorem Pl.send_par (p : Pl) (typ cls : Nat) (body : List Byte) : (p.send typ cls body).par = p.par := (rfl)
@[simp] theorem Pl.send_intStat (p : Pl) (typ cls : Nat) (body : List Byte) : (p.send typ cls body).intStat = p.intStat := (rfl)
@[simp] theorem Pl.send_intEn (p : Pl) (typ cls : Nat) (body : List Byte) : (p.send typ cls body).intEn = p.intEn := (rfl)
@[simp] theorem Pl.send_tm (p : Pl) (typ cls : Nat) (body : List Byte) : (p.send typ cls body).tm = p.tm := (rfl)
@[simp] theorem Pl.send_valid (p : Pl) (typ cls : Nat) (body : List Byte) : (p.send typ cls body).valid = p.valid := (rfl)
@[simp] theorem Pl.send_resync (p : Pl) (typ cls : Nat) (body : List Byte) : (p.send typ cls body).resync = p.resync := (rfl)
@[simp] theorem Pl.send_frzEn (p : Pl) (typ cls : Nat) (body : List Byte) : (p.send typ cls body).frzEn = p.frzEn := (rfl)
@[simp] theorem Pl.send_frzMaxUs (p : Pl) (typ cls : Nat) (body : List Byte) : (p.send typ cls body).frzMaxUs = p.frzMaxUs := (rfl)
@[simp] theorem Pl.send_overrun (p : Pl) (typ cls : Nat) (body : List Byte) : (p.send typ cls body).overrun = p.overrun := (rfl)
@[simp] theorem Pl.send_sitReqs (p : Pl) (typ cls : Nat) (body : List Byte) : (p.send typ cls body).sitReqs = p.sitReqs := (rfl)
@[simp] theorem Pl.send_images (p : Pl) (typ cls : Nat) (body : List Byte) : (p.send typ cls body).images = p.images := (rfl)
@[simp] theorem Pl.send_frzs (p : Pl) (typ cls : Nat) (body : List Byte) : (p.send typ cls body).frzs = p.frzs := (rfl)
@[simp] theorem Pl.send_frzSince (p : Pl) (typ cls : Nat) (body : List Byte) : (p.send typ cls body).frzSince = p.frzSince := (rfl)
@[simp] theorem Pl.send_frzSit (p : Pl) (typ cls : Nat) (body : List Byte) : (p.send typ cls body).frzSit = p.frzSit := (rfl)
@[simp] theorem Pl.send_ivl (p : Pl) (typ cls : Nat) (body : List Byte) : (p.send typ cls body).ivl = p.ivl := (rfl)
@[simp] theorem Pl.send_palArmed (p : Pl) (typ cls : Nat) (body : List Byte) : (p.send typ cls body).palArmed = p.palArmed := (rfl)
@[simp] theorem Pl.send_skipCnt (p : Pl) (typ cls : Nat) (body : List Byte) : (p.send typ cls body).skipCnt = p.skipCnt := (rfl)
@[simp] theorem Pl.send_palGen (p : Pl) (typ cls : Nat) (body : List Byte) : (p.send typ cls body).palGen = p.palGen := (rfl)
@[simp] theorem Pl.send_pal (p : Pl) (typ cls : Nat) (body : List Byte) : (p.send typ cls body).pal = p.pal := (rfl)
@[simp] theorem Pl.send_palPend (p : Pl) (typ cls : Nat) (body : List Byte) : (p.send typ cls body).palPend = p.palPend := (rfl)
@[simp] theorem Pl.send_skips (p : Pl) (typ cls : Nat) (body : List Byte) : (p.send typ cls body).skips = p.skips := (rfl)
@[simp] theorem Pl.send_resumed (p : Pl) (typ cls : Nat) (body : List Byte) : (p.send typ cls body).resumed = p.resumed := (rfl)
@[simp] theorem Pl.send_cnt (p : Pl) (typ cls : Nat) (body : List Byte) : (p.send typ cls body).cnt = p.cnt := (rfl)
@[simp] theorem Pl.send_shadow (p : Pl) (typ cls : Nat) (body : List Byte) : (p.send typ cls body).shadow = p.shadow := (rfl)
@[simp] theorem Pl.send_sitShadow (p : Pl) (typ cls : Nat) (body : List Byte) : (p.send typ cls body).sitShadow = p.sitShadow := (rfl)
@[simp] theorem Pl.send_cntIdx (p : Pl) (typ cls : Nat) (body : List Byte) : (p.send typ cls body).cntIdx = p.cntIdx := (rfl)
@[simp] theorem Pl.send_latches (p : Pl) (typ cls : Nat) (body : List Byte) : (p.send typ cls body).latches = p.latches := (rfl)
@[simp] theorem Pl.send_trEn (p : Pl) (typ cls : Nat) (body : List Byte) : (p.send typ cls body).trEn = p.trEn := (rfl)
@[simp] theorem Pl.send_trMode (p : Pl) (typ cls : Nat) (body : List Byte) : (p.send typ cls body).trMode = p.trMode := (rfl)
@[simp] theorem Pl.send_trStall (p : Pl) (typ cls : Nat) (body : List Byte) : (p.send typ cls body).trStall = p.trStall := (rfl)
@[simp] theorem Pl.send_loss (p : Pl) (typ cls : Nat) (body : List Byte) : (p.send typ cls body).loss = p.loss := (rfl)
@[simp] theorem Pl.send_cores (p : Pl) (typ cls : Nat) (body : List Byte) : (p.send typ cls body).cores = p.cores := (rfl)
@[simp] theorem Pl.send_circ (p : Pl) (typ cls : Nat) (body : List Byte) : (p.send typ cls body).circ = p.circ := (rfl)
@[simp] theorem Pl.send_written (p : Pl) (typ cls : Nat) (body : List Byte) : (p.send typ cls body).written = p.written := (rfl)
@[simp] theorem Pl.send_lastStamp (p : Pl) (typ cls : Nat) (body : List Byte) : (p.send typ cls body).lastStamp = p.lastStamp := (rfl)
@[simp] theorem Pl.send_stampEnd (p : Pl) (typ cls : Nat) (body : List Byte) : (p.send typ cls body).stampEnd = p.stampEnd := (rfl)
@[simp] theorem Pl.send_stampPend (p : Pl) (typ cls : Nat) (body : List Byte) : (p.send typ cls body).stampPend = p.stampPend := (rfl)
@[simp] theorem Pl.send_dmaLast (p : Pl) (typ cls : Nat) (body : List Byte) : (p.send typ cls body).dmaLast = p.dmaLast := (rfl)
@[simp] theorem Pl.send_mons (p : Pl) (typ cls : Nat) (body : List Byte) : (p.send typ cls body).mons = p.mons := (rfl)
@[simp] theorem Pl.send_pgSel (p : Pl) (typ cls : Nat) (body : List Byte) : (p.send typ cls body).pgSel = p.pgSel := (rfl)
@[simp] theorem Pl.send_rpMon (p : Pl) (typ cls : Nat) (body : List Byte) : (p.send typ cls body).rpMon = p.rpMon := (rfl)
@[simp] theorem Pl.send_rpEn (p : Pl) (typ cls : Nat) (body : List Byte) : (p.send typ cls body).rpEn = p.rpEn := (rfl)
@[simp] theorem Pl.send_pgStall (p : Pl) (typ cls : Nat) (body : List Byte) : (p.send typ cls body).pgStall = p.pgStall := (rfl)
@[simp] theorem Pl.send_seeds (p : Pl) (typ cls : Nat) (body : List Byte) : (p.send typ cls body).seeds = p.seeds := (rfl)
@[simp] theorem Pl.send_exps (p : Pl) (typ cls : Nat) (body : List Byte) : (p.send typ cls body).exps = p.exps := (rfl)
@[simp] theorem Pl.send_inStream (p : Pl) (typ cls : Nat) (body : List Byte) : (p.send typ cls body).inStream = p.inStream := (rfl)
@[simp] theorem Pl.send_nextSeq (p : Pl) (typ cls : Nat) (body : List Byte) : (p.send typ cls body).nextSeq = p.nextSeq := (rfl)
@[simp] theorem Pl.send_watermark (p : Pl) (typ cls : Nat) (body : List Byte) : (p.send typ cls body).watermark = p.watermark := (rfl)
@[simp] theorem Pl.send_rpQ (p : Pl) (typ cls : Nat) (body : List Byte) : (p.send typ cls body).rpQ = p.rpQ := (rfl)
@[simp] theorem Pl.send_rpUp (p : Pl) (typ cls : Nat) (body : List Byte) : (p.send typ cls body).rpUp = p.rpUp := (rfl)
@[simp] theorem Pl.send_rpLow (p : Pl) (typ cls : Nat) (body : List Byte) : (p.send typ cls body).rpLow = p.rpLow := (rfl)
@[simp] theorem Pl.send_rexQ (p : Pl) (typ cls : Nat) (body : List Byte) : (p.send typ cls body).rexQ = p.rexQ := (rfl)
@[simp] theorem Pl.send_seedMiss (p : Pl) (typ cls : Nat) (body : List Byte) : (p.send typ cls body).seedMiss = p.seedMiss := (rfl)
@[simp] theorem Pl.send_selSkip (p : Pl) (typ cls : Nat) (body : List Byte) : (p.send typ cls body).selSkip = p.selSkip := (rfl)
@[simp] theorem Pl.send_exports (p : Pl) (typ cls : Nat) (body : List Byte) : (p.send typ cls body).exports = p.exports := (rfl)
@[simp] theorem Pl.send_rpMerge (p : Pl) (typ cls : Nat) (body : List Byte) : (p.send typ cls body).rpMerge = p.rpMerge := (rfl)
@[simp] theorem Pl.send_vdUnknown (p : Pl) (typ cls : Nat) (body : List Byte) : (p.send typ cls body).vdUnknown = p.vdUnknown := (rfl)
@[simp] theorem Pl.send_evs (p : Pl) (typ cls : Nat) (body : List Byte) : (p.send typ cls body).evs = p.evs := (rfl)
@[simp] theorem Pl.send_coal (p : Pl) (typ cls : Nat) (body : List Byte) : (p.send typ cls body).coal = p.coal := (rfl)
@[simp] theorem Pl.send_evDropped (p : Pl) (typ cls : Nat) (body : List Byte) : (p.send typ cls body).evDropped = p.evDropped := (rfl)
@[simp] theorem Pl.send_pentimento (p : Pl) (typ cls : Nat) (body : List Byte) : (p.send typ cls body).pentimento = p.pentimento := (rfl)
@[simp] theorem Pl.send_lkState (p : Pl) (typ cls : Nat) (body : List Byte) : (p.send typ cls body).lkState = p.lkState := (rfl)
@[simp] theorem Pl.send_restarts (p : Pl) (typ cls : Nat) (body : List Byte) : (p.send typ cls body).restarts = p.restarts := (rfl)
@[simp] theorem Pl.send_rxBad (p : Pl) (typ cls : Nat) (body : List Byte) : (p.send typ cls body).rxBad = p.rxBad := (rfl)
@[simp] theorem Pl.send_studio (p : Pl) (typ cls : Nat) (body : List Byte) : (p.send typ cls body).studio = p.studio := (rfl)
@[simp] theorem Pl.send_tagValid (p : Pl) (typ cls : Nat) (body : List Byte) : (p.send typ cls body).tagValid = p.tagValid := (rfl)
@[simp] theorem Pl.send_mpDeny (p : Pl) (typ cls : Nat) (body : List Byte) : (p.send typ cls body).mpDeny = p.mpDeny := (rfl)
@[simp] theorem Pl.send_grants (p : Pl) (typ cls : Nat) (body : List Byte) : (p.send typ cls body).grants = p.grants := (rfl)
@[simp] theorem Pl.send_seqs (p : Pl) (typ cls : Nat) (body : List Byte) : (p.send typ cls body).seqs = p.seqs := (rfl)
@[simp] theorem Pl.send_wrote (p : Pl) (typ cls : Nat) (body : List Byte) : (p.send typ cls body).wrote = p.wrote := (rfl)
@[simp] theorem Pl.send_out (p : Pl) (typ cls : Nat) (body : List Byte) : (p.send typ cls body).out = p.out := (rfl)

end Sys2Proof.Machine
end

