-- ==== Sys2Proof/Laws/Block.lean ====
section
/-! SUPPORT. What the shared operations of the Plovlugo block can do: pins, the message port, the event buffer, trace pieces, counters and hall
time. -/

namespace Sys2Proof.Machine

set_option Elab.async false

/-! ### Lists -/

/-- Removing the first element that a test finds never lengthens a list. -/
theorem removeFirst_length_le {α : Type} (q : α → Bool) : ∀ l : List α, (removeFirst q l).length ≤ l.length
  | [] => Nat.le_refl _
  | x :: l => by
    unfold removeFirst
    split
    · exact Nat.le_succ _
    · exact Nat.succ_le_succ (removeFirst_length_le q l)

/-- It shortens the list when the test finds one. -/
theorem removeFirst_length_lt {α : Type} (q : α → Bool) : ∀ l : List α, (∃ x ∈ l, q x = true) → (removeFirst q l).length < l.length
  | [], h => by obtain ⟨x, h, _⟩ := h; cases h
  | x :: l, h => by
    unfold removeFirst
    split
    · exact Nat.lt_succ_self _
    · rename_i hx
      obtain ⟨y, hy, hq⟩ := h
      rcases List.mem_cons.1 hy with e | e
      · exact absurd (e ▸ hq) hx
      · exact Nat.succ_lt_succ (removeFirst_length_lt q l ⟨y, e, hq⟩)

/-! ### Pins, the port, the event buffer -/

/-- Showing the pins adds to the output log and changes nothing else. -/
theorem Pl.showPins_log (p q : Pl) : ∃ o, p.showPins q = { q with out := q.out ++ o } := by
  unfold Pl.showPins
  simp only [List.append_assoc]
  exact ⟨_, rfl⟩

/-- The pins show nothing new where no level has changed. -/
theorem Pl.showPins_eq (p q : Pl) (h1 : q.freeze = p.freeze) (h2 : q.replayPin = p.replayPin) (h3 : q.irq = p.irq) (h4 : q.pxReady = p.pxReady) :
    p.showPins q = q := by
  unfold Pl.showPins
  simp only [h1, h2, h3, h4, if_pos, List.append_nil]

/-- What a record can do (R267): it takes a slot; or all slots hold records of higher severity and it is dropped and counted; or it takes the place of
the oldest of equal or lower severity. -/
theorem Pl.storeRec_cases (p : Pl) (r : RecIn) :
    (p.evs.length < 2048 ∧ p.storeRec r = p.putRec r)
      ∨ p.storeRec r = { p with evDropped := sat 12 (p.evDropped + 1) }
      ∨ (∃ old q, old ∈ p.evs ∧ p.storeRec r
          = ({ p with evs := removeFirst (fun x => x == old) p.evs, q := q, pentimento := sat 8 (p.pentimento + 1) } : Pl).putRec r) := by
  unfold Pl.storeRec
  split
  · rename_i h; exact .inl ⟨h, rfl⟩
  · split
    · exact .inr (.inl rfl)
    · rename_i old h; exact .inr (.inr ⟨old, _, List.mem_of_find?_eq_some h, rfl⟩)

/-- A record of the block is one of these (R371). -/
theorem Pl.record_eq (p : Pl) (code sev source p0 p1 p2 p3 : Nat) : ∃ r, p.record code sev source p0 p1 p2 p3 = p.storeRec r := ⟨_, rfl⟩

/-! ### Trace -/

/-- A piece that is written changes the circular buffer, the count of bytes written and the port's queue only (R145, R147). -/
theorem Pl.putChunk_some {p x : Pl} {ws : List Word} (h : p.putChunk ws = some x) :
    x = { p with circ := x.circ, written := p.written + 8 * ws.length, q := x.q } := by
  unfold Pl.putChunk at h
  dsimp only at h
  split at h
  · cases h; rfl
  · split at h
    · cases h
    · cases h; rfl

/-! ### Counters -/

/-- A lane changes the counters only. -/
theorem Pl.addLane_cnt (p : Pl) (i v : Nat) : p.addLane i v = { p with cnt := (p.addLane i v).cnt } := by
  unfold Pl.addLane
  split <;> rfl

/-- A counter after a lane (R137). -/
theorem Pl.addLane_ctr (p : Pl) (i v k : Nat) :
    (p.addLane i v).ctr k = if i < p.nctr ∧ k = i then p.ctr i + BitVec.ofNat 64 (v % 256) else p.ctr k := by
  unfold Pl.addLane
  by_cases h : i < p.nctr
  · rw [if_pos h]
    unfold Pl.ctr
    dsimp only
    rw [SMap.get_set]
    by_cases e : k = i
    · rw [if_pos e, if_pos ⟨h, e⟩]
    · rw [if_neg e, if_neg (fun x => e x.2)]
  · rw [if_neg h, if_neg (fun x => h x.1)]

/-! ### Hall time -/

/-- A step of hall time never takes the count back: a forward one jumps, a backward one is held (R161). -/
theorem TimeSt.stepBy_fix_le (t : TimeSt) (d : Int) : t.fix ≤ (t.stepBy d).fix := by
  unfold TimeSt.stepBy
  split
  · exact Nat.le_add_right _ _
  · exact Nat.le_refl _

end Sys2Proof.Machine
end

