-- ==== Sys2Proof/Laws/Ops.lean ====
section
/-! SUPPORT. One lemma for each shared operation, saying what it can do: register fields, records, descriptors, completions, frames. -/

namespace Sys2Proof.Machine

set_option Elab.async false

/-! ### Register fields -/

/-- Reading a field after a write of a field. -/
theorem Gn.rg_wr (g : Gn) (f e : FRef) (v : Nat) : (g.wr f v).rg e = if e.key = f.key then v % 2 ^ f.len else g.rg e := by
  simp [Gn.rg, Gn.wr, SMap.get_set]

/-- Reading the field written. -/
@[simp] theorem Gn.rg_wr_self (g : Gn) (f : FRef) (v : Nat) : (g.wr f v).rg f = v % 2 ^ f.len := by simp [Gn.rg_wr]

/-- Reading another field. -/
theorem Gn.rg_wr_ne (g : Gn) {f e : FRef} (v : Nat) (h : e.key ≠ f.key) : (g.wr f v).rg e = g.rg e := by simp [Gn.rg_wr, h]

/-- Fields with offsets of 21 bits have one key only when function, offset and low bit are the same. -/
theorem FRef.key_inj {e f : FRef} (h1 : e.off < 2 ^ 21) (h2 : f.off < 2 ^ 21) (h3 : e.lo < 64) (h4 : f.lo < 64) :
    e.key = f.key ↔ e.fn = f.fn ∧ e.off = f.off ∧ e.lo = f.lo := by
  unfold FRef.key
  constructor
  · intro h; refine ⟨?_, ?_, ?_⟩ <;> omega
  · rintro ⟨a, b, c⟩; rw [a, b, c]

/-- The registers are read through `regs` only. -/
theorem Gn.rg_congr {g k : Gn} (h : g.regs = k.regs) (f : FRef) : g.rg f = k.rg f := by simp [Gn.rg, h]

/-! Register fields after an update of another part of the module. -/

@[simp] theorem Gn.rg_set_msix (g : Gn) (f : FRef) x : Gn.rg { g with msix := x } f = g.rg f := (rfl)
@[simp] theorem Gn.flag_set_msix (g : Gn) (f : FRef) x : Gn.flag { g with msix := x } f = g.flag f := (rfl)
@[simp] theorem Gn.rg_set_lastRst (g : Gn) (f : FRef) x : Gn.rg { g with lastRst := x } f = g.rg f := (rfl)
@[simp] theorem Gn.flag_set_lastRst (g : Gn) (f : FRef) x : Gn.flag { g with lastRst := x } f = g.flag f := (rfl)
@[simp] theorem Gn.rg_set_ev (g : Gn) (f : FRef) x : Gn.rg { g with ev := x } f = g.rg f := (rfl)
@[simp] theorem Gn.flag_set_ev (g : Gn) (f : FRef) x : Gn.flag { g with ev := x } f = g.flag f := (rfl)
@[simp] theorem Gn.rg_set_hq (g : Gn) (f : FRef) x : Gn.rg { g with hq := x } f = g.rg f := (rfl)
@[simp] theorem Gn.flag_set_hq (g : Gn) (f : FRef) x : Gn.flag { g with hq := x } f = g.flag f := (rfl)
@[simp] theorem Gn.rg_set_pw (g : Gn) (f : FRef) x : Gn.rg { g with pw := x } f = g.rg f := (rfl)
@[simp] theorem Gn.flag_set_pw (g : Gn) (f : FRef) x : Gn.flag { g with pw := x } f = g.flag f := (rfl)
@[simp] theorem Gn.rg_set_sc (g : Gn) (f : FRef) x : Gn.rg { g with sc := x } f = g.rg f := (rfl)
@[simp] theorem Gn.flag_set_sc (g : Gn) (f : FRef) x : Gn.flag { g with sc := x } f = g.flag f := (rfl)
@[simp] theorem Gn.rg_set_hg (g : Gn) (f : FRef) x : Gn.rg { g with hg := x } f = g.rg f := (rfl)
@[simp] theorem Gn.flag_set_hg (g : Gn) (f : FRef) x : Gn.flag { g with hg := x } f = g.flag f := (rfl)
@[simp] theorem Gn.rg_set_lk (g : Gn) (f : FRef) x : Gn.rg { g with lk := x } f = g.rg f := (rfl)
@[simp] theorem Gn.flag_set_lk (g : Gn) (f : FRef) x : Gn.flag { g with lk := x } f = g.flag f := (rfl)
@[simp] theorem Gn.rg_set_tm (g : Gn) (f : FRef) x : Gn.rg { g with tm := x } f = g.rg f := (rfl)
@[simp] theorem Gn.flag_set_tm (g : Gn) (f : FRef) x : Gn.flag { g with tm := x } f = g.flag f := (rfl)
@[simp] theorem Gn.rg_set_isls (g : Gn) (f : FRef) x : Gn.rg { g with isls := x } f = g.rg f := (rfl)
@[simp] theorem Gn.flag_set_isls (g : Gn) (f : FRef) x : Gn.flag { g with isls := x } f = g.flag f := (rfl)
@[simp] theorem Gn.rg_set_wins (g : Gn) (f : FRef) x : Gn.rg { g with wins := x } f = g.rg f := (rfl)
@[simp] theorem Gn.flag_set_wins (g : Gn) (f : FRef) x : Gn.flag { g with wins := x } f = g.flag f := (rfl)
@[simp] theorem Gn.rg_set_sits (g : Gn) (f : FRef) x : Gn.rg { g with sits := x } f = g.rg f := (rfl)
@[simp] theorem Gn.flag_set_sits (g : Gn) (f : FRef) x : Gn.flag { g with sits := x } f = g.flag f := (rfl)
@[simp] theorem Gn.rg_set_parked (g : Gn) (f : FRef) x : Gn.rg { g with parked := x } f = g.rg f := (rfl)
@[simp] theorem Gn.flag_set_parked (g : Gn) (f : FRef) x : Gn.flag { g with parked := x } f = g.flag f := (rfl)
@[simp] theorem Gn.rg_set_rd (g : Gn) (f : FRef) x : Gn.rg { g with rd := x } f = g.rg f := (rfl)
@[simp] theorem Gn.flag_set_rd (g : Gn) (f : FRef) x : Gn.flag { g with rd := x } f = g.flag f := (rfl)
@[simp] theorem Gn.rg_set_sq (g : Gn) (f : FRef) x : Gn.rg { g with sq := x } f = g.rg f := (rfl)
@[simp] theorem Gn.flag_set_sq (g : Gn) (f : FRef) x : Gn.flag { g with sq := x } f = g.flag f := (rfl)
@[simp] theorem Gn.rg_set_ar (g : Gn) (f : FRef) x : Gn.rg { g with ar := x } f = g.rg f := (rfl)
@[simp] theorem Gn.flag_set_ar (g : Gn) (f : FRef) x : Gn.flag { g with ar := x } f = g.flag f := (rfl)
@[simp] theorem Gn.rg_set_ts (g : Gn) (f : FRef) x : Gn.rg { g with ts := x } f = g.rg f := (rfl)
@[simp] theorem Gn.flag_set_ts (g : Gn) (f : FRef) x : Gn.flag { g with ts := x } f = g.flag f := (rfl)
@[simp] theorem Gn.rg_set_pf (g : Gn) (f : FRef) x : Gn.rg { g with pf := x } f = g.rg f := (rfl)
@[simp] theorem Gn.flag_set_pf (g : Gn) (f : FRef) x : Gn.flag { g with pf := x } f = g.flag f := (rfl)
@[simp] theorem Gn.rg_set_hl (g : Gn) (f : FRef) x : Gn.rg { g with hl := x } f = g.rg f := (rfl)
@[simp] theorem Gn.flag_set_hl (g : Gn) (f : FRef) x : Gn.flag { g with hl := x } f = g.flag f := (rfl)
@[simp] theorem Gn.rg_set_free (g : Gn) (f : FRef) x : Gn.rg { g with free := x } f = g.rg f := (rfl)
@[simp] theorem Gn.flag_set_free (g : Gn) (f : FRef) x : Gn.flag { g with free := x } f = g.flag f := (rfl)
@[simp] theorem Gn.rg_set_out (g : Gn) (f : FRef) x : Gn.rg { g with out := x } f = g.rg f := (rfl)
@[simp] theorem Gn.flag_set_out (g : Gn) (f : FRef) x : Gn.flag { g with out := x } f = g.flag f := (rfl)
@[simp] theorem Gn.rg_set_mem (g : Gn) (f : FRef) x : Gn.rg { g with mem := x } f = g.rg f := (rfl)
@[simp] theorem Gn.flag_set_mem (g : Gn) (f : FRef) x : Gn.flag { g with mem := x } f = g.flag f := (rfl)

@[simp] theorem Gn.emitOut_rg (g : Gn) (x : Out) (f : FRef) : (g.emitOut x).rg f = g.rg f := (rfl)

@[simp] theorem Gn.emitOut_flag (g : Gn) (x : Out) (f : FRef) : (g.emitOut x).flag f = g.flag f := (rfl)

/-- A one-bit field after another is written. -/
theorem Gn.flag_wr_ne (g : Gn) {f e : FRef} (v : Nat) (h : e.key ≠ f.key) : (g.wr f v).flag e = g.flag e := by
  simp [Gn.flag, Gn.rg_wr_ne g v h]

/-- Reading a field after a one-bit field is written. -/
theorem Gn.rg_put_ne (g : Gn) {f e : FRef} (b : Bool) (h : e.key ≠ f.key) : (g.put f b).rg e = g.rg e := Gn.rg_wr_ne g (b2n b) h

theorem Gn.flag_put_ne (g : Gn) {f e : FRef} (b : Bool) (h : e.key ≠ f.key) : (g.put f b).flag e = g.flag e :=
  Gn.flag_wr_ne g (b2n b) h

/-- A one-bit field after it is written. -/
@[simp] theorem Gn.flag_put_self (g : Gn) (f : FRef) (b : Bool) (h : f.len = 1) : (g.put f b).flag f = b := by
  cases b <;> simp [Gn.flag, Gn.put, b2n, h]

/-! ### Records -/

/-- A request raised at an arbiter changes the arbiters' waiting requests only (R201). -/
theorem Gn.raiseReq_cases (g : Gn) (a i : Nat) : ∃ arbs, g.raiseReq a i = { g with lk := { g.lk with arbs := arbs } } := by
  unfold Gn.raiseReq
  simp only []
  split
  · exact ⟨g.lk.arbs, rfl⟩
  · exact ⟨_, rfl⟩

/-- A vector's message is put out, or marked pending in the MSI-X tables, or there is none (R301, R346). -/
theorem Gn.sendVec_cases (g : Gn) (fn vec : Nat) :
    g.sendVec fn vec = g ∨ (∃ x, g.sendVec fn vec = { g with msix := x }) ∨ g.sendVec fn vec = g.emitOut (.msix fn vec) := by
  unfold Gn.sendVec
  split
  · exact .inl rfl
  · split
    · exact .inr (.inl ⟨_, rfl⟩)
    · exact .inr (.inr rfl)

/-- A level that is followed changes the levels held, and a message goes out or waits for it (R346). -/
theorem Gn.level_cases (g : Gn) (fn vec : Nat) (lvl again : Bool) :
    ∃ lv mx o, g.level fn vec lvl again = { g with hq := { g.hq with levels := lv }, msix := mx, out := o } := by
  unfold Gn.level
  simp only []
  generalize (if lvl = true then _ else _ : List Nat) = lv
  split
  · rcases Gn.sendVec_cases { g with hq := { g.hq with levels := lv } } fn vec with x | ⟨m, x⟩ | x <;> rw [x]
    · exact ⟨lv, g.msix, g.out, rfl⟩
    · exact ⟨lv, m, g.out, rfl⟩
    · exact ⟨lv, g.msix, _, rfl⟩
  · exact ⟨lv, g.msix, g.out, rfl⟩

/-- What a record can do: it takes a place in its producer's outbox, where it waits for the event-ring arbiter, or it is dropped and counted under its
severity (R201, R264), and a fatal or safety record that is lost raises vector 5 (R279). -/
theorem Gn.submit_cases (g : Gn) (prod : Nat) (it : RecItem) :
    (∃ arbs, g.submit prod it = { g with ev := { g.ev with outbox := g.ev.outbox ++ [(prod, it)] }, lk := { g.lk with arbs := arbs } })
      ∨ g.submit prod it = g.inc (F.evCnt_drop it.r.sev)
      ∨ 6 ≤ it.r.sev ∧ ∃ rs lv mx o, g.submit prod it = { g with regs := rs, hq := { g.hq with levels := lv }, msix := mx, out := o } := by
  unfold Gn.submit
  simp only []
  split
  · obtain ⟨arbs, h⟩ := ({ g with ev := { g.ev with outbox := g.ev.outbox ++ [(prod, it)] } } : Gn).raiseReq_cases 131 prod
    exact .inl ⟨arbs, h⟩
  · split
    · obtain ⟨lv, mx, o, h⟩ := ((g.inc (F.evCnt_drop it.r.sev)).put F.evStat_fxFull true).level_cases 0 5
        (((g.inc (F.evCnt_drop it.r.sev)).put F.evStat_fxFull true).alarm4 != 0) false
      exact .inr (.inr ⟨by assumption, _, lv, mx, o, h⟩)
    · exact .inr (.inl rfl)

/-- A record leaves the ports' own states, hall time and the memories alone, and of the host queues touches the levels only. -/
@[simp] theorem Gn.submit_port (g : Gn) (prod : Nat) (it : RecItem) (p : Nat) : (g.submit prod it).port p = g.port p := by
  rcases g.submit_cases prod it with ⟨arbs, h⟩ | h | ⟨_, _, _, _, _, h⟩ <;> rw [h] <;> rfl

@[simp] theorem Gn.submit_now (g : Gn) (prod : Nat) (it : RecItem) : (g.submit prod it).now = g.now := by
  rcases g.submit_cases prod it with ⟨arbs, h⟩ | h | ⟨_, _, _, _, _, h⟩ <;> rw [h] <;> rfl

@[simp] theorem Gn.submit_mem (g : Gn) (prod : Nat) (it : RecItem) : (g.submit prod it).mem = g.mem := by
  rcases g.submit_cases prod it with ⟨lk, h⟩ | h | ⟨_, _, _, _, _, h⟩ <;> rw [h]
  rfl

theorem Gn.submit_hq (g : Gn) (prod : Nat) (it : RecItem) : ∃ lv, (g.submit prod it).hq = { g.hq with levels := lv } := by
  rcases g.submit_cases prod it with ⟨lk, h⟩ | h | ⟨_, _, lv, _, _, h⟩ <;> rw [h]
  · exact ⟨g.hq.levels, rfl⟩
  · exact ⟨g.hq.levels, rfl⟩
  · exact ⟨lv, rfl⟩

@[simp] theorem Gn.record_mem (g : Gn) (prod code sev source p0 p1 p2 p3 : Nat) :
    (g.record prod code sev source p0 p1 p2 p3).mem = g.mem := by simp [Gn.record]

/-- A record in an outbox with room. -/
theorem Gn.submit_room (g : Gn) (prod : Nat) (it : RecItem) (h : g.ev.outbox.length < 14) :
    ∃ arbs, g.submit prod it = { g with ev := { g.ev with outbox := g.ev.outbox ++ [(prod, it)] }, lk := { g.lk with arbs := arbs } } := by
  · unfold Gn.submit
    have a : (g.ev.outbox.filter (fun e => e.1 == prod)).length ≤ g.ev.outbox.length := List.length_filter_le _ _
    have b := List.length_filter_le (fun e : Nat × RecItem => decide (e.2.r.sev < 6)) (g.ev.outbox.filter (fun e => e.1 == prod))
    simp only []
    rw [if_pos ⟨by omega, .inr (by omega)⟩]
    exact Gn.raiseReq_cases _ _ _

/-! ### Resets -/

/-- What the boot header gives: the half-start delay, when a configuration slot is valid (R328). -/
theorem Gn.bootHeader_cases (g : Gn) :
    (bestSlot g.sc.cfgSlots 0 = none ∧ g.bootHeader = g) ∨ ∃ v, g.bootHeader = g.wr F.ckCfg_hsDelayMs v := by
  unfold Gn.bootHeader
  split
  · exact .inr ⟨_, rfl⟩
  · exact .inl ⟨by assumption, rfl⟩

/-- With no register written, every field reads its reset value. -/
theorem Gn.rg_default (g : Gn) (h : g.regs = []) (f : FRef) : g.rg f = regDefault f.key := by rw [Gn.rg, h, SMap.get]

/-- A module cold reset leaves every register at its reset value but the half-start delay (R285, R328). -/
theorem Gn.coldNow_rg (g : Gn) (cause : Nat) (f : FRef) (h : f.key ≠ F.ckCfg_hsDelayMs.key) : (g.coldNow cause).rg f = regDefault f.key := by
  unfold Gn.coldNow
  rcases Gn.bootHeader_cases _ with ⟨_, e⟩ | ⟨v, e⟩ <;> rw [e]
  · exact Gn.rg_default _ (by rfl) f
  · rw [Gn.rg_wr_ne _ _ h]; exact Gn.rg_default _ (by rfl) f

/-! ### Descriptors and completions -/

/-- An admitted descriptor runs its operation on the state in which it has begun. -/
theorem Gn.desc_admitted {g : Gn} {op : Nat} {r : OpRule} {h : DescHdr} (body : Gn → Gn) (a : g.admits op r h = true) :
    g.desc op r h body = body (g.begun op h) := by
  simp only [Gn.admits, Bool.and_eq_true, decide_eq_true_eq, Bool.not_eq_true', Bool.or_eq_true, beq_iff_eq] at a
  obtain ⟨⟨⟨⟨⟨⟨a1, a3⟩, a4⟩, a5⟩, a6⟩, a7⟩, a8⟩ := a
  unfold Gn.desc
  have c1 : (!g.alive || !g.fnServed h.fn || decide (4 ≤ h.sq)) = false := by simp [a1, a3, a4]
  have c3 : (h.fn != 0 && !r.vf) = false := by rcases a6 with x | x <;> simp [x]
  have c4 : (!(((g.fetch op h).startDesc op h).wake).stateOk r) = false := by simpa [Gn.begun] using a7
  simp [c1, a5, c3, c4, a8, Gn.begun]

/-- What every round of a loop keeps, the loop keeps. -/
theorem forEach_keeps {α ι : Type} (P : α → Prop) (l : List ι) (f : ι → α → α) (hf : ∀ i y, P y → P (f i y)) :
    ∀ x, P x → P (forEach l f x) := by
  induction l with
  | nil => intro x h; exact h
  | cons i l ih => intro x h; exact ih (f i x) (hf i x h)

/-- An arbitration writes its own registers and the arbiters' waiting requests only (R201, R202). -/
theorem Gn.arbitrate_keeps (P : Gn → Prop) (h1 : ∀ g f v, P g → P (g.wr f v)) (h2 : ∀ (g : Gn) x, P g → P { g with lk := x }) (g : Gn) (a : Nat)
    (reqs : List Nat) (h : P g) : P (g.arbitrate a reqs).1 := by
  unfold Gn.arbitrate
  simp only []
  split
  · exact h2 _ _ h
  · split
    · exact h2 _ _ h
    · split <;> exact h1 _ _ _ (h1 _ _ _ (h2 _ _ h))

/-- Requests that are all of one requester grant that requester, whichever waited longest. -/
theorem longestWait_lone (i : Nat) (l : List (Nat × Nat)) (h : ∀ r ∈ l, r.1 = i) (n : l ≠ []) : ∃ t, longestWait l = some (i, t) := by
  have gen : ∀ (l : List (Nat × Nat)) (o : Nat × Nat), o.1 = i → (∀ r ∈ l, r.1 = i) → ∃ t,
      l.foldl (fun acc r => match acc with
        | none => some r
        | some o => if r.2 < o.2 ∨ (r.2 = o.2 ∧ r.1 < o.1) then some r else some o) (some o) = some (i, t) := by
    intro l
    induction l with
    | nil => intro o ho _; exact ⟨o.2, by rw [← ho]; rfl⟩
    | cons r l ih =>
      intro o ho hl
      simp only [List.foldl_cons]
      split
      · exact ih r (hl r (by simp)) (fun x hx => hl x (by simp [hx]))
      · exact ih o ho (fun x hx => hl x (by simp [hx]))
  cases l with
  | nil => exact absurd rfl n
  | cons r l => exact gen l r (h r (by simp)) (fun x hx => h x (by simp [hx]))

/-- The search from the pointer on finds a lone requester. -/
theorem firstFrom_lone (n ptr i : Nat) (l : List (Nat × Nat)) (hi : i < n) (h : ∀ r ∈ l, r.1 = i) (ne : l ≠ []) : ∃ t, firstFrom n ptr l = some (i, t) := by
  unfold firstFrom
  cases e : ((List.range n).map (fun k => (ptr + k) % n)).findSome? (fun j => l.find? (fun r => r.1 == j)) with
  | some x =>
    obtain ⟨j, _, hj⟩ := List.exists_of_findSome?_eq_some e
    exact ⟨x.2, by rw [← h x (List.mem_of_find?_eq_some hj)]⟩
  | none =>
    rw [List.findSome?_eq_none_iff] at e
    cases l with
    | nil => exact absurd rfl ne
    | cons r l =>
      have hr := h r (by simp)
      have := e i (by
        rw [List.mem_map]
        refine ⟨(i + n - ptr % n) % n, List.mem_range.2 (Nat.mod_lt _ (by omega)), ?_⟩
        have hp : ptr % n < n := Nat.mod_lt _ (by omega)
        rw [Nat.add_mod, Nat.mod_mod, ← Nat.add_mod]
        have e1 : ptr = n * (ptr / n) + ptr % n := (Nat.div_add_mod ptr n).symm
        have e2 : ptr + (i + n - ptr % n) = i + n * (ptr / n + 1) := by rw [Nat.mul_add, Nat.mul_one]; omega
        rw [e2, Nat.add_mul_mod_self_left, Nat.mod_eq_of_lt hi])
      rw [List.find?_eq_none] at this
      exact absurd (by simp [hr]) (this r (by simp))

/-- An arbiter that is not held grants the one requester it has; only its own registers and the waiting requests change (R201). -/
theorem Gn.arbitrate_lone (g : Gn) (a i : Nat) (h : g.arbHeld a = false) (hi : i < arbCount a) :
    ∃ k : Gn, g.arbitrate a [i] = (k, some i) ∧ (∃ regs lk, k = { g with regs := regs, lk := lk })
      ∧ ∀ f : FRef, f.key ≠ (F.arb_maxWait a).key → f.key ≠ (F.arb_ptr a).key → f.key ≠ (F.arb_starv a).key → k.rg f = g.rg f := by
  simp only [Gn.arbHeld, Bool.or_eq_false_iff] at h
  obtain ⟨h1, h2⟩ := h
  have h2 : (g.rg F.hgDump_state != 1) = true := by simpa using h2
  have all : ∀ l : List (Nat × Nat), l.filter (fun _ => true) = l := fun l => List.filter_eq_self.2 (by simp)
  unfold Gn.arbitrate
  simp only [h1, h2, Bool.true_or, all, Bool.false_eq_true, if_false]
  generalize hk : (SMap.get arbDefault g.lk.arbs a).reqs.filter (fun r => [i].contains r.1) = kept
  have hkm : ∀ r ∈ kept, r.1 = i := by
    intro r hr; rw [← hk] at hr; simpa using (List.mem_filter.1 hr).2
  generalize hp : kept ++ _ = pend
  have hpm : ∀ r ∈ pend, r.1 = i := by
    intro r hr
    rw [← hp, List.mem_append] at hr
    rcases hr with hr | hr
    · exact hkm r hr
    · simp only [List.mem_map, List.mem_filter, List.mem_eraseDups, List.mem_singleton] at hr
      obtain ⟨j, ⟨hj, _⟩, rfl⟩ := hr
      exact hj
  have hne : pend ≠ [] := by
    rw [← hp]
    intro hz
    rw [List.append_eq_nil_iff] at hz
    obtain ⟨z1, z2⟩ := hz
    subst z1
    have e : [i].eraseDups = [i] := by simp [List.eraseDups, List.eraseDupsBy, List.eraseDupsBy.loop]
    simp [e, hi] at z2
  by_cases hl : g.rg (F.arb_n a) ≤ (SMap.get arbDefault g.lk.arbs a).since + 1
  · obtain ⟨t, ht⟩ := longestWait_lone i pend hpm hne
    simp only [hl, decide_true, if_true, ht]
    refine ⟨_, rfl, ⟨_, _, rfl⟩, fun f f1 f2 f3 => ?_⟩
    rw [Gn.inc, Gn.addSat, Gn.rg_wr_ne _ _ f3, Gn.rg_wr_ne _ _ f1]; rfl
  · obtain ⟨t, ht⟩ := firstFrom_lone (arbCount a) (g.rg (F.arb_ptr a)) i pend hi hpm hne
    simp only [hl, decide_false, Bool.false_eq_true, if_false, ht]
    refine ⟨_, rfl, ⟨_, _, rfl⟩, fun f f1 f2 f3 => ?_⟩
    rw [Gn.rg_wr_ne _ _ f2, Gn.rg_wr_ne _ _ f1]; rfl

/-- What accesses of the host DMA touch (R201): registers, the host queues, the arbiters, the MSI-X tables, the output. -/
theorem Gn.dmaPush_keeps (P : Gn → Prop) (h1 : ∀ g f v, P g → P (g.wr f v)) (h2 : ∀ (g : Gn) x, P g → P { g with lk := x })
    (h3 : ∀ (g : Gn) x, P g → P { g with hq := x }) (h4 : ∀ (g : Gn) x, P g → P { g with msix := x })
    (h5 : ∀ (g : Gn) x, P g → P { g with out := x }) (g : Gn) (fn : Nat) (os : List DmaOp) (h : P g) : P (g.dmaPush fn os) := by
  have send : ∀ (k : Gn) fn vec, P k → P (k.sendVec fn vec) := by
    intro k fn vec hk
    rcases k.sendVec_cases fn vec with x | ⟨_, x⟩ | x <;> rw [x]
    · exact hk
    · exact h4 _ _ hk
    · exact h5 _ _ hk
  have put : ∀ (k : Gn) fn q e, P k → P (k.putCqe fn q e) := by
    intro k fn q e hk
    unfold Gn.putCqe
    simp only []
    have hw : ∀ o f v c, P ((({ k with out := o } : Gn).wr f v).setCq fn q c) := fun o f v c => h3 _ _ (h1 _ f v (h5 k o hk))
    repeat' split
    all_goals first
      | exact send _ _ _ (hw _ _ _ _)
      | exact hw _ _ _ _
  have act : ∀ (k : Gn) fn o, P k → P (k.dmaDo fn o) := by
    intro k fn o hk
    cases o with
    | cqe q e => exact put k fn q e hk
    | write a b => exact h5 _ _ hk
    | read a n => exact h5 _ _ hk
  have grant : ∀ k : Gn, P k → P (k.dmaGrant []) := by
    intro k hk
    have ha := Gn.arbitrate_keeps P h1 h2 k 128 ([] ++ k.hq.dma.map (·.1)) hk
    unfold Gn.dmaGrant
    split
    · rename_i e; rw [e] at ha; exact ha
    · rename_i e
      rw [e] at ha
      split
      · exact ha
      · exact act _ _ _ (h3 _ _ ha)
  unfold Gn.dmaPush
  simp only []
  obtain ⟨lk, r⟩ := ({ g with hq := { g.hq with dma := g.hq.dma ++ os.map (fun o => (fn, o)) } } : Gn).raiseReq_cases 128 fn
  have hr : P (({ g with hq := { g.hq with dma := g.hq.dma ++ os.map (fun o => (fn, o)) } } : Gn).raiseReq 128 fn) := by
    rw [r]; exact h2 _ _ (h3 _ _ h)
  exact forEach_keeps P _ _ (fun _ k hk => grant k hk) _ hr

theorem Gn.writeCqe_keeps (P : Gn → Prop) (h1 : ∀ g f v, P g → P (g.wr f v)) (h2 : ∀ (g : Gn) x, P g → P { g with lk := x })
    (h3 : ∀ (g : Gn) x, P g → P { g with hq := x }) (h4 : ∀ (g : Gn) x, P g → P { g with msix := x })
    (h5 : ∀ (g : Gn) x, P g → P { g with out := x }) (g : Gn) (fn q : Nat) (e : Cqe) (h : P g) : P (g.writeCqe fn q e) :=
  Gn.dmaPush_keeps P h1 h2 h3 h4 h5 g fn _ h

/-- An entry that no other access waits with, while arbiter 128 is not held, is granted and put at once: the arbiter's registers and the waiting requests are all
that changes before (R201, R338). -/
theorem Gn.writeCqe_lone (g : Gn) (fn q : Nat) (e : Cqe) (h : g.arbHeld 128 = false) (d : g.hq.dma = []) (hf : fn < 16) :
    ∃ k : Gn, g.writeCqe fn q e = k.putCqe fn q e ∧ (∃ regs lk, k = { g with regs := regs, lk := lk })
      ∧ ∀ f : FRef, f.key ≠ (F.arb_maxWait 128).key → f.key ≠ (F.arb_ptr 128).key → f.key ≠ (F.arb_starv 128).key → k.rg f = g.rg f := by
  unfold Gn.writeCqe Gn.dmaPush
  simp only [List.map_cons, List.map_nil]
  obtain ⟨arbs, hr⟩ := ({ g with hq := { g.hq with dma := g.hq.dma ++ [(fn, .cqe q e)] } } : Gn).raiseReq_cases 128 fn
  rw [hr]
  have hd : ({ g with hq := { g.hq with dma := g.hq.dma ++ [(fn, .cqe q e)] }, lk := { g.lk with arbs := arbs } } : Gn).hq.dma = [(fn, .cqe q e)] := by
    show g.hq.dma ++ _ = _; rw [d]; rfl
  generalize hK : ({ g with hq := { g.hq with dma := g.hq.dma ++ [(fn, .cqe q e)] }, lk := { g.lk with arbs := arbs } } : Gn) = k at hd
  have hk : k.arbHeld 128 = false := by rw [← hK]; exact h
  obtain ⟨k2, a, ⟨rs, l2, b⟩, c⟩ := k.arbitrate_lone 128 fn hk hf
  have d2 : k2.hq.dma = [(fn, .cqe q e)] := by rw [b]; exact hd
  have key : forEach k.hq.dma (fun _ g => g.dmaGrant []) k = ({ k2 with hq := { k2.hq with dma := [] } } : Gn).putCqe fn q e := by
    simp [forEach, hd, Gn.dmaGrant, a, d2, Gn.dmaDo]
  refine ⟨_, key, ⟨rs, l2, ?_⟩, fun f f1 f2 f3 => ?_⟩
  · rw [b, ← hK]; show ({ g with hq := { g.hq with dma := [] }, regs := rs, lk := l2 } : Gn) = _; rw [← d]
  · rw [← (show k.rg f = g.rg f by rw [← hK]; rfl), ← c f f1 f2 f3]; rfl

/-- While arbiter 128 is frozen accesses wait, and nothing but the waiting requests changes (R202). -/
theorem Gn.dmaPush_frozen (g : Gn) (fn : Nat) (os : List DmaOp) (h : g.flag (F.arb_frz 128) = true) :
    ∃ lk, g.dmaPush fn os = { g with hq := { g.hq with dma := g.hq.dma ++ os.map (fun o => (fn, o)) }, lk := lk } := by
  have grant : ∀ k : Gn, k.flag (F.arb_frz 128) = true → ∃ lk, k.dmaGrant [] = { k with lk := lk } := by
    intro k hk
    have : ∃ lk, k.arbitrate 128 ([] ++ k.hq.dma.map (·.1)) = ({ k with lk := lk }, none) := by
      unfold Gn.arbitrate
      simp only [hk, if_true]
      exact ⟨_, rfl⟩
    obtain ⟨lk, hl⟩ := this
    exact ⟨lk, by unfold Gn.dmaGrant; rw [hl]⟩
  unfold Gn.dmaPush
  simp only []
  generalize hx : g.hq.dma ++ os.map (fun o => (fn, o)) = l
  obtain ⟨arbs, hr⟩ := ({ g with hq := { g.hq with dma := l } } : Gn).raiseReq_cases 128 fn
  rw [hr]
  refine forEach_keeps (fun x : Gn => ∃ lk, x = { g with hq := { g.hq with dma := l }, lk := lk }) _ _ ?_ _ ⟨_, rfl⟩
  rintro _ k ⟨m, rfl⟩
  obtain ⟨l2, h2⟩ := grant _ (show ({ g with hq := { g.hq with dma := l }, lk := m } : Gn).flag (F.arb_frz 128) = true from h)
  exact ⟨l2, h2⟩

theorem Gn.writeCqe_frozen (g : Gn) (fn q : Nat) (e : Cqe) (h : g.flag (F.arb_frz 128) = true) :
    ∃ lk, g.writeCqe fn q e = { g with hq := { g.hq with dma := g.hq.dma ++ [(fn, .cqe q e)] }, lk := lk } := Gn.dmaPush_frozen g fn _ h

/-- What a turn of reserved operations touches is what an entry touches (R336, R342). -/
theorem Gn.passReserved_keeps (P : Gn → Prop) (h1 : ∀ g f v, P g → P (g.wr f v)) (h2 : ∀ (g : Gn) x, P g → P { g with lk := x })
    (h3 : ∀ (g : Gn) x, P g → P { g with hq := x }) (h4 : ∀ (g : Gn) x, P g → P { g with msix := x })
    (h5 : ∀ (g : Gn) x, P g → P { g with out := x }) (g : Gn) (fn q : Nat) (h : P g) : P (g.passReserved fn q) := by
  have ans : ∀ (k : Gn) o st ht r, P k → P (k.answerDesc o st ht r) := by
    intro k o st ht r hk
    unfold Gn.answerDesc
    split
    · exact Gn.writeCqe_keeps P h1 h2 h3 h4 h5 _ _ _ _ hk
    · exact hk
  have all : ∀ n (k : Gn), P k → P (k.reservedTurns fn q n) := by
    intro n
    induction n with
    | zero => intro k hk; exact hk
    | succ n ih =>
      intro k hk
      unfold Gn.reservedTurns
      split
      · exact hk
      · split
        · exact ih _ (ans _ _ _ _ _ (h3 _ _ hk))
        · exact hk
  exact all _ _ h

/-- Where no reserved operation is owed, a turn of reserved operations is nothing (R336, R342). -/
theorem Gn.passReserved_none (g : Gn) (fn q : Nat) (h : ∀ x ∈ g.hq.owed, x.d.op < 0x1F) : g.passReserved fn q = g := by
  unfold Gn.passReserved
  cases g.hq.owed.length with
  | zero => rfl
  | succ n =>
    unfold Gn.reservedTurns
    split
    · rfl
    · rename_i o ho
      unfold Gn.nextTurn at ho
      split at ho
      · cases ho
      · rename_i o2 h2
        split at ho
        · cases ho
        · cases ho
          have hm := h o (List.mem_filter.mp (List.mem_of_find?_eq_some h2)).1
          rw [if_neg (by omega)]

/-- What is left of a list after its first match stood in it. -/
theorem removeFirst_mem {α : Type} (q : α → Bool) : ∀ (l : List α) (x : α), x ∈ removeFirst q l → x ∈ l
  | [], x, h => by simp [removeFirst] at h
  | y :: ys, x, h => by
    unfold removeFirst at h
    split at h
    · exact List.mem_cons_of_mem _ h
    · rcases List.mem_cons.mp h with h | h
      · subst h; exact List.mem_cons_self
      · exact List.mem_cons_of_mem _ (removeFirst_mem q ys x h)

/-- What a completion touches is what an entry touches (R337, R338, R343). -/
theorem Gn.completeAt_keeps (P : Gn → Prop) (h1 : ∀ g f v, P g → P (g.wr f v)) (h2 : ∀ (g : Gn) x, P g → P { g with lk := x })
    (h3 : ∀ (g : Gn) x, P g → P { g with hq := x }) (h4 : ∀ (g : Gn) x, P g → P { g with msix := x })
    (h5 : ∀ (g : Gn) x, P g → P { g with out := x }) (g : Gn) (op : Nat) (h : DescHdr) (status ht : Nat) (result : List Nat) (hg : P g) :
    P (g.completeAt op h status ht result) := by
  unfold Gn.completeAt
  simp only []
  split
  · exact hg
  · refine Gn.passReserved_keeps P h1 h2 h3 h4 h5 _ _ _ ?_
    unfold Gn.answerDesc
    split
    · exact Gn.writeCqe_keeps P h1 h2 h3 h4 h5 _ _ _ _ (h3 _ _ hg)
    · exact h3 _ _ hg

/-- A completion leaves the memories and hall time alone. -/
@[simp] theorem Gn.writeCqe_mem (g : Gn) (fn q : Nat) (e : Cqe) : (g.writeCqe fn q e).mem = g.mem :=
  Gn.writeCqe_keeps (fun x => x.mem = g.mem) (fun _ _ _ h => h) (fun _ _ h => h) (fun _ _ h => h) (fun _ _ h => h) (fun _ _ h => h) g fn q e rfl

@[simp] theorem Gn.writeCqe_tm (g : Gn) (fn q : Nat) (e : Cqe) : (g.writeCqe fn q e).tm = g.tm :=
  Gn.writeCqe_keeps (fun x => x.tm = g.tm) (fun _ _ _ h => h) (fun _ _ h => h) (fun _ _ h => h) (fun _ _ h => h) (fun _ _ h => h) g fn q e rfl

@[simp] theorem Gn.completeAt_mem (g : Gn) (op : Nat) (h : DescHdr) (status ht : Nat) (result : List Nat) :
    (g.completeAt op h status ht result).mem = g.mem :=
  Gn.completeAt_keeps (fun x => x.mem = g.mem) (fun _ _ _ h => h) (fun _ _ h => h) (fun _ _ h => h) (fun _ _ h => h) (fun _ _ h => h) g op h status
    ht result rfl

@[simp] theorem Gn.complete_mem (g : Gn) (op : Nat) (h : DescHdr) (status : Nat) (result : List Nat) :
    (g.complete op h status result).mem = g.mem := by simp [Gn.complete]

@[simp] theorem Gn.complete_tm (g : Gn) (op : Nat) (h : DescHdr) (status : Nat) (result : List Nat) :
    (g.complete op h status result).tm = g.tm :=
  Gn.completeAt_keeps (fun x => x.tm = g.tm) (fun _ _ _ h => h) (fun _ _ h => h) (fun _ _ h => h) (fun _ _ h => h) (fun _ _ h => h) g op h status
    g.now result rfl

/-- The exit of a power state writes register fields, the watch over the islands, and resume records. -/
theorem Gn.wake_keeps (P : Gn → Prop) (h1 : ∀ g f v, P g → P (g.wr f v)) (h2 : ∀ (g : Gn) x, P g → P { g with isls := x })
    (h3 : ∀ g prod code sev source p0 p1 p2 p3, P g → P (Gn.record g prod code sev source p0 p1 p2 p3)) (g : Gn) (h : P g) : P g.wake := by
  unfold Gn.wake
  split
  · apply forEach_keeps P
    · intro i y hy
      split
      · exact h3 _ _ _ _ _ _ _ _ _ (h2 _ _ (h1 _ _ _ (h1 _ _ _ hy)))
      · exact hy
    · exact h1 _ _ _ h
  · exact h

/-- The exit of a power state leaves the debug memory alone, and of the host queues touches the levels only. -/
theorem Gn.wake_hq (g : Gn) : ∃ lv, g.wake.hq = { g.hq with levels := lv } :=
  Gn.wake_keeps (fun x => ∃ lv, x.hq = { g.hq with levels := lv }) (by intro g f v h; exact h) (by intro g x h; exact h)
    (by
      rintro k a b c d e f g' l ⟨lv, h⟩
      obtain ⟨l2, h2⟩ := Gn.submit_hq k a { r := k.mkRec b c d e f g' l, studio := 0, rank := 0x1FFFF, var := none }
      refine ⟨l2, ?_⟩
      show (k.submit a _).hq = _
      rw [h2, h]) g ⟨g.hq.levels, rfl⟩

@[simp] theorem Gn.wake_mem (g : Gn) : g.wake.mem = g.mem :=
  Gn.wake_keeps (fun x => x.mem = g.mem) (by intro g f v h; exact h) (by intro g x h; exact h)
    (by intro k a b c d e f g' l h; simpa using h) g (by rfl)

@[simp] theorem Gn.startDesc_mem (g : Gn) (op : Nat) (h : DescHdr) : (g.startDesc op h).mem = g.mem :=
  Gn.passReserved_keeps (fun x => x.mem = g.mem) (fun _ _ _ h => h) (fun _ _ h => h) (fun _ _ h => h) (fun _ _ h => h) (fun _ _ h => h) _ _ _ rfl

@[simp] theorem Gn.fetch_mem (g : Gn) (op : Nat) (h : DescHdr) : (g.fetch op h).mem = g.mem := by
  unfold Gn.fetch
  split
  · rfl
  · unfold Gn.fetchOne
    refine Gn.passReserved_keeps (fun x => x.mem = g.mem) (fun _ _ _ h => h) (fun _ _ h => h) (fun _ _ h => h) (fun _ _ h => h) (fun _ _ h => h) _ _ _ ?_
    exact Gn.dmaPush_keeps (fun x => x.mem = g.mem) (fun _ _ _ h => h) (fun _ _ h => h) (fun _ _ h => h) (fun _ _ h => h) (fun _ _ h => h) _ _ _ rfl

@[simp] theorem Gn.begun_mem (g : Gn) (op : Nat) (h : DescHdr) : (g.begun op h).mem = g.mem := by simp [Gn.begun]

/-! ### Frames -/

/-- A port that is UP, is no uplink and has no TC-2 collector at its end queues a frame behind what waits. -/
theorem Gn.queueFrame_up (g : Gn) (p : Nat) (f : Frame) (u : g.portUp p = true) (n : p < 32) (t : g.portUse p ≠ useTc2) :
    g.queueFrame p f = g.setPort p { g.port p with sendQ := (g.port p).sendQ ++ [f] } := by
  have : ¬ (p = 32 ∨ p = 33) := by omega
  simp [Gn.queueFrame, u, this, t]

/-- A port that is not UP takes no frame. -/
theorem Gn.queueFrame_down (g : Gn) (p : Nat) (f : Frame) (u : g.portUp p = false) : g.queueFrame p f = g := by
  simp [Gn.queueFrame, u]

/-- What an uplink's new heads ask of its arbiter changes the arbiters' waiting requests only. -/
theorem Gn.noteAsks_lk (g : Gn) (u : Nat) : ∃ ab, g.noteAsks u = { g with lk := { g.lk with arbs := ab } } := by
  unfold Gn.noteAsks
  refine forEach_keeps (fun x : Gn => ∃ ab, x = { g with lk := { g.lk with arbs := ab } }) _ _ ?_ _ ⟨g.lk.arbs, rfl⟩
  rintro i _ ⟨ab, rfl⟩
  obtain ⟨a2, h⟩ := Gn.raiseReq_cases { g with lk := { g.lk with arbs := ab } } (129 + u) i
  exact ⟨a2, h⟩

/-- A frame queued for a port or a die, and the studio tags rewritten to the dies, change the ports' queues, the shapers' settled credit and the arbiters' waiting
requests only, and the tag map (R187, R198, R201, R325, R326). -/
theorem Gn.queueFrame_lk (g : Gn) (p : Nat) (f : Frame) :
    ∃ ps sh ab, g.queueFrame p f = { g with lk := { g.lk with ports := ps, shapers := sh, arbs := ab } } := by
  have wake : ∀ (k : Gn) q, ∃ sh, k.shaperWake q = { k with lk := { k.lk with shapers := sh } } := by
    intro k q
    unfold Gn.shaperWake
    split
    · exact ⟨_, rfl⟩
    · exact ⟨k.lk.shapers, rfl⟩
  have asks : ∀ (k : Gn), (∃ sh, k = { g with lk := { g.lk with shapers := sh } }) → ∀ x, ∃ ps sh' ab,
      (if p = 32 ∨ p = 33 then (k.setPort p x).noteAsks (p - 32) else k.setPort p x) = { g with lk := { g.lk with ports := ps, shapers := sh', arbs := ab } } := by
    rintro _ ⟨sh, rfl⟩ x
    split
    · obtain ⟨ab, h⟩ := (({ g with lk := { g.lk with shapers := sh } } : Gn).setPort p x).noteAsks_lk (p - 32)
      exact ⟨_, sh, ab, h⟩
    · exact ⟨_, sh, g.lk.arbs, rfl⟩
  unfold Gn.queueFrame
  split
  · refine asks _ ?_ _
    split
    · exact wake g _
    · exact ⟨g.lk.shapers, rfl⟩
  · exact ⟨g.lk.ports, g.lk.shapers, g.lk.arbs, rfl⟩

theorem Gn.sendSite_lk (g : Gn) (s typ : Nat) (body : List Byte) :
    ∃ ps sh ab, g.sendSite s typ body = { g with lk := { g.lk with ports := ps, shapers := sh, arbs := ab } } := by
  unfold Gn.sendSite
  split
  · exact Gn.queueFrame_lk _ _ _
  · exact ⟨g.lk.ports, g.lk.shapers, g.lk.arbs, rfl⟩

theorem Gn.retag_lk (g0 g : Gn) :
    ∃ ps sh ab ts, Gn.retag g0 g = { g with lk := { g.lk with ports := ps, shapers := sh, arbs := ab }, sc := { g.sc with tags := ts } } := by
  unfold Gn.retag
  simp only []
  generalize g.sc.tags ++ _ = ts
  refine forEach_keeps (fun x : Gn => ∃ ps sh ab ts, x = { g with lk := { g.lk with ports := ps, shapers := sh, arbs := ab }, sc := { g.sc with tags := ts } })
    _ _ ?_ _ ⟨g.lk.ports, g.lk.shapers, g.lk.arbs, ts, rfl⟩
  rintro x _ ⟨p1, s1, a1, t1, rfl⟩
  obtain ⟨p2, s2, a2, h⟩ := Gn.sendSite_lk { g with lk := { g.lk with ports := p1, shapers := s1, arbs := a1 }, sc := { g.sc with tags := t1 } } x 0x05
    (writeBody 0x3800 [g.studioOf (g.siteRank x)])
  exact ⟨p2, s2, a2, t1, h⟩

@[simp] theorem Gn.port_setPort (g : Gn) (p q : Nat) (x : Port) : (g.setPort p x).port q = if q = p then x else g.port q := by
  simp [Gn.port, Gn.setPort, SMap.get_set]

/-- As a frame leaves, the time it carries goes into its body, and nothing else of it changes (R162). -/
theorem stampTime_body (fix : Nat) (f : Frame) : ∃ b, stampTime fix f = { f with body := b } := by
  unfold stampTime
  split
  · exact ⟨_, rfl⟩
  · split
    · exact ⟨_, rfl⟩
    · exact ⟨f.body, rfl⟩

/-! ### The memories -/

/-- A byte put into HBM keeps the memory's canonical form, wherever it goes. -/
theorem Gn.hbmPut_wf (g : Gn) (a : Nat) (b : Byte) (w : SMap.wf memDefault g.mem = true) : SMap.wf memDefault (g.hbmPut a b).mem = true := by
  unfold Gn.hbmPut
  split
  · exact w
  · split
    · exact w
    · split
      · exact w
      · split
        · exact w
        · exact SMap.wf_set _ _ w

/-- Bytes written to HBM keep it. -/
theorem Gn.hbmWrite_wf (g : Gn) (a : Nat) (bs : List Byte) (w : SMap.wf memDefault g.mem = true) :
    SMap.wf memDefault (g.hbmWrite a bs).mem = true := by
  unfold Gn.hbmWrite
  apply forEach_keeps (fun x : Gn => SMap.wf memDefault x.mem = true) _ _ _ _ w
  intro i k hk
  split
  · exact Gn.hbmPut_wf k _ _ hk
  · exact hk

/-- A write of the debug port keeps the memory's canonical form. -/
theorem Gn.memWrite_wf (g : Gn) (space a n v : Nat) (w : SMap.wf memDefault g.mem = true) :
    SMap.wf memDefault (g.memWrite space a n v).mem = true := by
  unfold Gn.memWrite
  split
  · exact SMap.wf_setList _ _ w
  · exact Gn.hbmWrite_wf g a _ w

end Sys2Proof.Machine
end

