-- ==== Sys2Proof/WellFormed.lean ====
section
/-! DEFINITION. Which commands are well formed: every index inside the range the manual gives the thing it names. The meanings are total and
do not rely on it; a range the manual makes the device check (a descriptor field, a frame field) is not asked here. -/

namespace Sys2Proof

/-- A descriptor header names one of 16 functions (R334) and one of 4 submission rings (R335). -/
def DescHdr.wf (h : DescHdr) : Bool := decide (h.fn < 16) && decide (h.sq < 4)

/-- A port is 0 to 37 (R183). -/
def okPort (p : Nat) : Bool := decide (p < 38)

/-- A die site is 0 to 111 (R15). -/
def okSite (s : Nat) : Bool := decide (s < 112)

/-- A link the block keeps state for. -/
def LinkRef.wf : LinkRef → Bool
  | .port p => okPort p
  | .site s => okSite s

/-- A port, or the block's message port. -/
def Outlet.wf : Outlet → Bool
  | .port p => okPort p
  | .block => true

def Inlet.wf : Inlet → Bool
  | .port p => okPort p
  | .block _ => true

/-- A producer of the event-ring arbiter (R201), or the host die. -/
def RecSource.wf : RecSource → Bool
  | .producer prod => decide (prod < 22)
  | .hostDie _ => true

/-- A function and one of its four rings. -/
def okRing (fn q : Nat) : Bool := decide (fn < 16) && decide (q < 4)

/-- A cluster or its island, 0 to 15 (R44). -/
def okCluster (c : Nat) : Bool := decide (c < 16)

/-- The command is one that the block's surroundings can send. -/
def Instr.wf : Instr → Bool
  | .nop h | .topology h _ | .imageEvict h _ | .graphLoad h _ _ _ _ | .graphUnload h _ | .ensStage h _ | .ensRepair h _ | .ensUnload h _
  | .plan h _ _ | .sitRetire h _ | .bcCancel h _ | .powerRun h | .powerIdle h | .powerDeepIdle h | .accept h _ | .decline h _ _
  | .declineHeld h _ | .returnRank h _ | .clearAlarm h | .setJob h _ | .studioOpen h _ | .studioClose h _ | .logRead h _ _
  | .dumpRead h _ _ _ | .maintStop h | .attest h _ | .poolRelease h _ | .imageWrite h _ _ _ | .enrol h _ | .imageLoad h _ _ _
  | .rankmapLoad h _ _ | .regRead h _ _ | .regWrite h _ _ _ | .coreWithdraw h _ _ | .coreReturn h _ _ | .coreRetest h _ _ => h.wf
  | .timeSet h ht => h.wf && decide (ht < 2 ^ 64)
  | .seed h epoch _ => h.wf && decide (epoch < 2 ^ 32)
  | .read h _ sit => h.wf && decide (sit < 256)
  | .aggregateRead h _ win x => h.wf && decide (win < 2 ^ 64) && decide (x.epoch < 2 ^ 32) && decide (x.sit < 256)
  | .sitting h ident t => h.wf && decide (ident < 256) && decide (t < 2 ^ 64)
  | .broadcast h bid action studio tFire _ =>
    h.wf && decide (bid < 2 ^ 16) && decide (action < 256) && decide (studio < 256) && decide (tFire < 2 ^ 64)
  | .studioKey h block => h.wf && block.length == 137
  | .doorbellPoll fn tails heads descs => decide (fn < 16) && tails.length == 4 && heads.length == 4 && descs.all (fun d => decide (d.sq < 4))
  | .nudge fn | .functionLevelReset fn => decide (fn < 16)
  | .ringDisable fn _ q | .holdbackDrain fn q | .cqOvfWarning fn q | .irqModerationTimer fn q => okRing fn q
  | .powerApply | .holdupChargeDone | .bringupPhaseEnd _ | .hrefQualify | .refCompareGate _ _ _ | .refLoss | .powerCapEval _ _ _
  | .autoIdle | .idleWake | .pfailDetect | .undervoltage | .overvoltage | .flushEnd _ _ _ | .thermalTrip _ | .pcieFundamentalReset => true
  | .warmReset fn key | .coldReset fn key => decide (fn < 16) && decide (key < 2 ^ 16)
  | .clusterReset fn c => decide (fn < 16) && okCluster c
  | .linkPortReset fn p => decide (fn < 16) && okPort p
  | .dumpRequest fn => decide (fn < 16)
  | .monitorEval | .supervisorHeartbeat | .hwWatchdog | .dumpSnapshotDone | .dumpWriteDone => true
  | .gnMonitorStall n | .monitorConfigWrite n _ => decide (n < 32)
  | .dumpAck slot => decide (slot < 2)
  | .selfTestDue core | .selfTestStart core | .selfTestDeadline core | .selfTestDone core _ _ => decide (core < 256)
  | .linkTrainStart p | .linkAlignDone p | .linkCreditDone p _ | .linkStateTimeout p _
  | .flitReceive p _ _ _ _ | .decompressDone p _ _ | .linkControlFrame p _ _ | .creditReturnTimer p
  | .class0ResendTimeout p _ _ | .linkTrainFailWarning p | .unmappedSourceWarning p
  | .sittingReportFrame p _ | .readRequestFrame p _ | .readReplyFrame p _ | .summaryFrame p _
  | .latePartialFrame p _ | .passThroughFrame p _ | .armFrame p _ | .armAckFrame p _ _ _ _ | .armAckTimeout p _ _
  | .broadcastCancelFrame p _ _ | .fireReportFrame p _ _ _ _ _ _ | .tc2AbortFrame p _ => okPort p
  | .linkLoss o _ | .frameSend o | .keepaliveTimer o => o.wf
  | .linkTrainDone x => okPort x.port
  | .frameReceive i _ => i.wf
  | .linkStartDone l | .sittingMarkerSend l _ | .sittingMarkerArrival l _ _ | .timeReplyFrame _ l _ | .timeRequestFrame l _ _ _ => l.wf
  | .gateCommit u | .gateCycleStart u => decide (u < 2)
  | .keepaliveFrame site _ | .sampleRecordFrame site _ | .traceDataFrame site _ _ _ | .eventRecordFrame site _ _
  | .blockRefusalFrame site _ _ | .sittingOverrunFrame site _ | .regReplyFrame site _ _ _ _ | .progressRecordFrame site _
  | .exportPartFrame site _ _ _ _ | .proofDeadline site _ => okSite site
  | .arbiterGrant a _ | .arbFreeze a => decide (a < 132)
  | .tapOvfWarning | .timeRefresh _ | .sittingRequestFrame _ _ | .sittingFreeze _ | .sittingFreezeTimeout _ | .sittingReportTimeout _
  | .sittingRetireFrame _ _ | .readTimeout _ | .summaryEmit | .summaryWaitTimeout | .reductionControlTimer | .reductionControlFrame _ _
  | .rearmRequestFrame _ _ | .broadcastFire _ _ | .fireReportTimeout _ _ | .healthRun | .muteEnd _ | .weightFrame _ | .batchDispatch
  | .gatherExpiry | .proofRunDone _ _ | .taskLaunch => true
  | .islandStretch i _ | .islandStop i | .islandResume i => okCluster i
  | .windowClose w _ _ | .winCfgWrite w _ => decide (w < 8)
  | .winSkipWarning slot | .taskComplete slot _ _ | .breakPoint slot _ _ | .holdResume slot _ _ | .bpWatchdog slot _ _
  | .stagingDone slot | .panelWriteStart slot _ | .panelWriteDone slot _ => decide (slot < 64)
  | .pipelineCycle slot _ _ cluster _ => decide (slot < 64) && okCluster cluster
  | .scrubCycle c _ => okCluster c
  | .recordSubmit r => r.wf
  | .coalesceFlush | .fixedChunkFlash | .ringPageFlash | .ringAgeFlash | .closeEraseDone | .dpStatus | .dpClose | .idcode | .bypass
  | .extest | .samplePreload | .clamp | .highz | .trstN | .controlCoreTrap | .sequencerMemoryError | .timeUnitIncrement _ => true
  | .fxack slot => decide (slot < 2048)
  | .dpOpen level sig => decide (level < 256) && sig.length == 96
  | .dpAccess _ => true
  | .registerWrite fn _ width _ | .registerRead fn _ width => decide (fn < 16) && decide (width < 1024)
  | .mpRegisterWrite addr _ _ | .plCntLowRead addr _ | .mpRegisterRead addr _ => decide (addr < 2 ^ 16)
  | .regWriteFrame _ data => data.length != 0
  | .regReadFrame _ n _ => n != 0
  | .blockReset | .softReset _ _ | .samplingInstant | .palCommit | .palWrite _ _ | .blockSittingRequest _ _ | .sittingCapture _
  | .sittingRelease _ _ | .freezeExpiry | .traceBurstDma | .stampMarkerTimer | .traceFrameShip | .traceExtract _ => true
  | .traceWord core _ _ | .lpEntry core | .lpEntryTimeout core | .lpExit core => decide (core < 64)
  | .progressPulse mon | .progressRecordSend mon | .progressStall mon => decide (mon < 256)
  | .pxIdentity _ | .pxReexportIdentity _ | .pxStreamEnd _ _ _ _ _ | .verdictFrame _ | .pxRexGone | .exportSlotTimeout _ | .rpAck
  | .seedFrame _ _ _ _ | .watermarkKeepalive | .counterIncrement _ => true

end Sys2Proof
end

