-- ==== Sys2Proof/Tests/Slice0.lean ====
section
/-! SUPPORT. Small tests: ill-formed terms that WellFormed refuses, the manual's worked numbers, and for every statement of Obligations.lean states
and operands that meet its hypotheses. -/

namespace Sys2Proof.Tests

set_option Elab.async false

open Sys2Proof Sys2Proof.Machine

/-- A state that differs from reset in the module, or in the block. -/
def onG (f : Gn → Gn) : State := { State.reset with gn := f Gn.init }
def onP (f : Pl → Pl) : State := { State.reset with pl := f State.reset.pl }

set_option maxRecDepth 16000

def h0 : DescHdr := ⟨0, 0, 7, false, false, 4096⟩
def h1 : DescHdr := ⟨1, 3, 9, false, false, 0⟩

/-- Queue pair `q` of function `fn` in service, 64 entries each; the pairs of h0 and h1; READY with them; the hall time set. -/
def ringOf (fn q : Nat) (g : Gn) : Gn := ((((g.put (F.hqCtl_en fn) true).put (F.hqSq_en fn q) true).wr (F.hqSq_lg fn q) 6).put (F.hqCq_en fn q) true).wr (F.hqCq_lg fn q) 6
def rings (g : Gn) : Gn := ringOf 1 3 (ringOf 0 0 g)
def rdy (g : Gn) : Gn := (rings g).wr F.buStat_phase 7

def ht (ns : Nat) (g : Gn) : Gn := { g with tm := { g.tm with fix := ns * nsFix } }

/-! ### Witnesses: host queues, power, resets, hangs -/

theorem witness_NopCompletes : (onG rdy).gn.admits 0x00 ⟨true, true, true, true⟩ h0 = true
    ∧ (onG (fun g => (rdy g).wr (F.scStu_st 1) 2)).gn.admits 0x00 ⟨true, true, true, true⟩ h1 = true := by decide

/-- h0 as the first descriptor fetched from its queue. -/
def wOwed (started : Bool) : Owed := { fn := 0, d := ⟨0, 0x00, 7, false, false, 4096, []⟩, head := 1, started := started }

theorem witness_CompletionEntryWritten : (let s := onG (fun g => (rdy g).wr (F.hqImod_icN 0 0) 2); let g := s.gn.begun 0x00 h0;
    s.gn.admits 0x00 ⟨true, true, true, true⟩ h0 = true ∧ h0.fn < 16 ∧ g.hq.owed.find? (fun x => x.isIt 0x00 h0 && x.started) = some (wOwed true)
      ∧ (∀ x ∈ g.hq.owed, x.d.op < 0x1F) ∧ g.cqOn 0 0 = true ∧ g.arbHeld 128 = false ∧ g.hq.dma = [] ∧ (g.cq 0 0).unsig + 1 < g.rg (F.hqImod_icN 0 0))
    ∧ (let s := onG (fun g => let k := (rdy g).put (F.arb_frz 128) true; { k with hq := { k.hq with owed := [wOwed false] } }); let g := s.gn.begun 0x00 h0;
      s.gn.admits 0x00 ⟨true, true, true, true⟩ h0 = true ∧ g.hq.owed.find? (fun x => x.isIt 0x00 h0 && x.started) = some (wOwed true)
      ∧ (∀ x ∈ g.hq.owed, x.d.op < 0x1F) ∧ g.cqOn 0 0 = true ∧ g.flag (F.arb_frz 128) = true) := by decide +kernel

def wE : Cqe := ⟨0, 0x80, true, 0, true, 0, 0, []⟩

theorem witness_HostRingCommandsComplete :
    (let s := onG rdy; s.gn.alive = true ∧ s.gn.fnServed 0 = true ∧ s.gn.hq.polls.contains 0 = false)
    ∧ (let s := onG (fun g => (rdy g).put (F.hqCtl_en 0) true);
       s.gn.alive = true ∧ s.gn.fnServed 0 = true ∧ s.gn.flag (F.hqCtl_en 0) = true ∧ s.gn.arbHeld 128 = false)
    ∧ (let s := onG (fun g => (rdy g).setCq 0 0 { CqSt.empty with hold := [wE] });
       (s.gn.cq 0 0).hold = [wE] ∧ s.gn.cqOn 0 0 = true ∧ (s.gn.owedOf 0 0).length < s.gn.cqFree 0 0)
    ∧ (let s := onG (fun g => { g with hq := { g.hq with ovfPend := [3] } }); s.gn.hq.ovfPend.contains (0 * 4 + 3) = true)
    ∧ (let s := onG (fun g => (g.wr (F.hqImod_icUs 0 0) 1).setCq 0 0 { CqSt.empty with unsig := 1 });
       s.gn.rg (F.hqImod_icUs 0 0) ≠ 0 ∧ (s.gn.cq 0 0).unsig ≠ 0)
    ∧ (State.reset.gn.alive = true ∧ State.reset.gn.inReset = false ∧ 15 < 16)
    ∧ (onG (fun g => g.put (F.hqSq_en 15 3) true)).gn.flag (F.hqSq_en 15 3) = true
    ∧ (onG (fun g => g.put (F.hqCq_en 15 3) true)).gn.flag (F.hqCq_en 15 3) = true := by decide

theorem witness_HealthCommandsComplete :
    (let s := onG (fun g => (g.put F.rdCfg_top true).setHr 5 { rankInit with st := .muted, muteEnd := 0 });
     s.gn.alive = true ∧ (s.gn.hr 5).st = .muted ∧ (s.gn.hr 5).muteEnd ≤ s.gn.now)
    ∧ (let s := onG (fun g => (rdy g).put F.rdCfg_top true);
       s.gn.admits 0x14 ⟨false, false, true, false⟩ h0 = true ∧ (s.gn.begun 0x14 h0).isTop = true ∧ 131071 < 131072 ∧ 1 ≤ 10080 ∧ 131072 ≤ 131072) := by decide +kernel

def wSum : Summary :=
  { win := 0, lenUs := 1000, epoch := 1, stream := 0, epChg := false, short := false, partialF := false, lateF := false, foster := false, decim := 0,
    tq := 0, level := 0, origin := 1, dies := 1, diesExp := 1, stale := 0, bndUnc := 0, latePrior := 0, replay := 0, bytes := 0, part := 0, nparts := 1,
    contrib := 1, series := [] }

theorem witness_HealthRun : let s := onG (fun g => (g.put F.rdCfg_top true).onHl (fun h => { h with ready := [wSum] }));
    s.gn.alive = true ∧ s.gn.isTop = true ∧ s.gn.hl.nextWin = some 0 ∧ s.gn.winOpen 0 = false := by decide

theorem witness_PowerStateCommandsComplete :
    (let s := onG rdy; s.gn.admits 0x13 ⟨false, false, true, false⟩ h0 = true ∧ (s.gn.begun 0x13 h0).deepBusy = false)
    ∧ (let s := onG (fun g => (rdy g).put F.pwState_autoIdle true);
       s.gn.alive = true ∧ s.gn.ready = true ∧ s.gn.flag F.pwState_autoIdle = true ∧ s.gn.rg F.pwState_pstate = 0 ∧ s.gn.quiet = true
        ∧ s.gn.rg F.scStat_dbg ≠ 2)
    ∧ (let s := onG (fun g => g.wr F.pwState_pstate 1); s.gn.alive = true ∧ s.gn.rg F.pwState_pstate = 1) := by decide

theorem witness_IdleGatesEveryIsland :
    (let s := onG (fun g => (rdy g).put F.pwState_autoIdle true);
       s.gn.alive = true ∧ s.gn.ready = true ∧ s.gn.flag F.pwState_autoIdle = true ∧ s.gn.rg F.pwState_pstate = 0 ∧ s.gn.quiet = true
        ∧ s.gn.rg F.scStat_dbg ≠ 2)
    ∧ (let s := onG (fun g => g.wr F.pwState_pstate 1); s.gn.alive = true ∧ s.gn.rg F.pwState_pstate = 1) := by decide

def wUp (g : Gn) : Gn := (g.put F.ckStat_hrefQ true).wr (F.lkStat_state 32) 5

theorem witness_ReferenceCommandsComplete :
    (let s := onG (fun g => g.wr F.ckStat_act 0); s.gn.pw.coldWait = false ∧ s.gn.pw.off = false ∧ s.gn.pw.inp = .on ∧ s.gn.safe = false ∧ s.gn.rg F.ckStat_act ≠ 3)
    ∧ (let s := onG wUp;
       s.gn.alive = true ∧ s.gn.flag F.ckStat_hrefQ = true ∧ s.gn.portUp 32 = true ∧ gatePass (s.gn.rg F.ckCfg_winPpm) 156250 100000 = true ∧ hrefBad 100000 = false
        ∧ s.gn.pw.upGates < 7 ∧ s.gn.ready = false)
    ∧ (let s := onG (fun g => { wUp g with pw := { g.pw with upGates := 7 } });
       s.gn.alive = true ∧ s.gn.flag F.ckStat_hrefQ = true ∧ s.gn.portUp 32 = true ∧ gatePass (s.gn.rg F.ckCfg_winPpm) 156250 100000 = true ∧ hrefBad 100000 = false
        ∧ 7 ≤ s.gn.pw.upGates ∧ s.gn.ready = false)
    ∧ (let s := onG (fun g => (((g.put F.ckStat_hrefQ true).put F.ckStat_upQ true).wr F.ckStat_act 0).wr F.ckCfg_srcSel 1);
       s.gn.powered = true ∧ s.gn.rg F.ckStat_act ≠ 3
        ∧ (((s.gn.setRefQ (s.gn.rg F.ckStat_act) false).inc F.ckStat_losses).bestRef).isSome = true)
    ∧ (let s := onG (fun g => g.wr F.ckStat_act 0); s.gn.alive = true ∧ s.gn.powered = true ∧ s.gn.rg F.ckStat_act ≠ 3
        ∧ ((s.gn.setRefQ (s.gn.rg F.ckStat_act) false).inc F.ckStat_losses).bestRef = none) := by
  decide +kernel

theorem witness_InputAndCapCommandsComplete :
    (let s := State.reset; s.gn.alive = true ∧ s.gn.rg F.pwState_pstate ≠ 3 ∧ s.gn.canFlush = true ∧ s.gn.pw.off = false)
    ∧ (let s := onG (fun g => g.wr F.pwState_pstate 3); s.gn.pw.off = false ∧ s.gn.rg F.pwState_pstate = 3)
    ∧ (onG (fun g => { g with pw := { g.pw with off := true } })).gn.pw.off = true
    ∧ (onG (fun g => { g with pw := { g.pw with inp := .charging } })).gn.pw.inp = .charging := by decide

theorem witness_BringupPhasesAdvance : let p := fun n => onG (fun g => ((g.wr F.buStat_phase n).put F.ckStat_hrefQ true).put F.buStat_topoOk true)
    (∀ n ∈ [0, 1, 2, 3, 4, 5, 6], (p n).gn.alive = true ∧ (p n).gn.pw.inp = .on ∧ (p n).gn.rg F.pwState_pstate ≠ 3 ∧ (p n).gn.rg F.buStat_phase = n)
    ∧ (p 0).gn.flag F.ckStat_hrefQ = true ∧ (p 5).gn.flag F.buStat_topoOk = true ∧ (⟨[], [], true, 0⟩ : PhaseEnd).refReady = true := by decide

theorem witness_ModuleResetsComplete : (let s := onG rdy;
    s.gn.resettable = true ∧ s.gn.rg F.buStat_phase = 7 ∧ s.gn.hg.warmAfter = none ∧ s.gn.rg F.hgDump_state ≠ 1 ∧ s.gn.rg F.hgDump_state ≠ 2)
    ∧ (onG (fun g => g.wr F.buStat_phase 6)).gn.rg F.buStat_phase < 7 := by decide

theorem witness_ColdResetClears : let s := onG rdy;
    s.gn.resettable = true ∧ s.gn.rg F.buStat_phase = 7 ∧ s.gn.hg.warmAfter = none ∧ s.gn.rg F.hgDump_state ≠ 1 ∧ s.gn.rg F.hgDump_state ≠ 2 := by decide

theorem witness_ResetWritesRefused : State.reset.gn.alive = true ∧ 0x5A5B ≠ 0x5A5A ∧ 15 ≠ 0 := by decide

theorem witness_PartialResetsComplete : State.reset.gn.alive = true ∧ State.reset.gn.inReset = false ∧ 15 < 16 ∧ 37 < 38 := by decide


theorem witness_HangCommandsComplete : (let s := State.reset;
    s.gn.alive = true ∧ 31 < 32 ∧ s.gn.hg.warmAfter = none ∧ (forEach (List.range 32) (fun n g => g.monEval n) s.gn).hg.warmAfter = none)
    ∧ (let s := onG (fun g => ht 4000000000 (g.put F.buStat_mgood true));
       s.gn.alive = true ∧ s.gn.flag F.buStat_mgood = true ∧ s.gn.flag F.hgStat_rstBusy = false ∧ s.gn.hg.wdDone = false
        ∧ s.gn.hg.beatHt + s.gn.rg F.hgBeat_hwWdMs * 1000000 ≤ s.gn.now) := by decide

def wDump : DumpHdr := { cause := 1, complete := false, ht := 0, dseq := 1, cl := 0xFFFF, nsec := 7, fw := 0, fixed := [], ring := [], regs := [], mem := [], since := 0, cut := none }

theorem witness_DumpRunsToItsEnd :
    (let s := State.reset; s.gn.alive = true ∧ s.gn.rg F.hgDump_state ≠ 1 ∧ s.gn.rg F.hgDump_state ≠ 2)
    ∧ (let s := onG (fun g => (g.wr F.hgDump_state 1).onHg (fun h => { h with cur := some wDump }));
       s.gn.alive = true ∧ s.gn.hg.cur = some wDump ∧ s.gn.rg F.hgDump_state = 1
        ∧ ((s.gn.hg.slots.getD s.gn.dumpSlot none).isSome && (s.gn.rg F.hgDump_unread).testBit s.gn.dumpSlot) = false)
    ∧ (let s := onG (fun g => (g.wr F.hgDump_state 2).onHg (fun h => { h with cur := some wDump }));
       s.gn.alive = true ∧ s.gn.hg.cur = some wDump ∧ s.gn.rg F.hgDump_state = 2 ∧ s.gn.hg.warmAfter = none) := by decide

theorem witness_SelfTestCommandsComplete :
    (let s := onG (ht (3 * 21600000000000 + 255 * 84375000000 + 999)); s.gn.alive = true ∧ 255 < 256 ∧ s.gn.hg.deferred.any (fun d => d.1 == 255) = false
      ∧ s.gn.hg.waiting.contains 255 = false ∧ s.gn.hg.testing.contains 255 = false ∧ s.gn.flag (F.pwIsl_gated 15) = false
      ∧ 3 * 21600000000000 + 255 * 84375000000 ≤ s.gn.now ∧ s.gn.now < 3 * 21600000000000 + 255 * 84375000000 + 1000)
    ∧ (let s := onG (fun g => ht 1800000000000 (g.onHg (fun h => { h with deferred := [(17, 0)] })));
       s.gn.alive = true ∧ s.gn.hg.deferred.any (fun d => d.1 == 17) = true ∧ s.gn.testFree 17 = true ∧ (17, 0) ∈ s.gn.hg.deferred
        ∧ s.gn.flag (F.pwIsl_gated (17 / 16)) = false ∧ 0 + 1800000000000 ≤ s.gn.now)
    ∧ (let s := onG (fun g => (g.wr (F.clPlan_wdMask 1) 2).onHg (fun h => { h with testing := [17] }));
       s.gn.alive = true ∧ s.gn.hg.testing.contains 17 = true ∧ (s.gn.rg (F.clPlan_wdMask (17 / 16))).testBit (17 % 16) = true) := by decide +kernel

theorem witness_CoreCommandsComplete : let s := onG rdy;
    s.gn.admits 0x11 ⟨false, false, true, false⟩ h0 = true ∧ 15 < 16 ∧ 0xFFFF < 65536 ∧ 0xFFFF ≠ 0
      ∧ 0xFFFF &&& (s.gn.begun 0x11 h0).rg (F.clSt_failMask 15) = 0
      ∧ (s.gn.begun 0x11 h0).hg.testing.any (fun k => k / 16 == 15 && (0xFFFF).testBit (k % 16)) = false := by decide +kernel

/-! ### Witnesses: links, time, islands -/

/-- Port p in a link state; a tray topology with every port entry of one use, and site 5 mapped on port 0. -/
def lst (p n : Nat) (g : Gn) : Gn := g.wr (F.lkStat_state p) n

def wPort (use : Nat) : PortEnt := { use := use, peer := 9, asym := 0, pparent := 9, rearm := 0, resv := 0 }

def wTopo (use : Nat) (tray top : Bool) : Topology :=
  { magic := 0, len := 0, node := 1, level := 0, top := top, tray := tray, parent := 0, foster := 0, adopt := 0, gen := 1, nrank := 1, resv := 0,
    crcOk := true, ports := List.replicate 33 (wPort use), sites := List.replicate 112 { mapped := true, port := 0, asym := 0, resv := 0 },
    ranks := [(3, 5)] }

def topo (use : Nat) (tray top : Bool) (g : Gn) : Gn := g.onRd (fun d => { d with topo := some (wTopo use tray top), ranks := [(3, 5)] })

theorem witness_LinkTrainingAdvances :
    (let s := onG (topo 1 true false); s.gn.alive = true ∧ 31 < 32 ∧ s.gn.portUse 31 ≠ 0 ∧ s.gn.rg (F.lkStat_state 31) = 0)
    ∧ (∀ n ∈ [1, 2, 3, 4, 5], (onG (lst 31 n)).gn.alive = true ∧ (onG (lst 31 n)).gn.rg (F.lkStat_state 31) = n
      ∧ (onG (lst 31 n)).gn.childPort 31 = false)
    ∧ (onG (lst 31 1)).gn.flag F.rdCfg_tc2 = false ∧ (onG (fun g => (lst 31 1 g).put F.rdCfg_tc2 true)).gn.flag F.rdCfg_tc2 = true := by decide

/-- The 32 exchanges of a link's start, each of offset 4 (in 1/131,072 ns). -/
def started (l : Nat) (g : Gn) : Gn := { g with tm := { g.tm with xs := List.replicate 32 ⟨l, 4, 0, 0⟩ } }

theorem witness_LinkLossAndStartComplete :
    (let s := onG (lst 33 5); s.gn.alive = true ∧ s.gn.rg (F.lkStat_state 33) = 5 ∧ s.gn.rg (F.lkStat_state 0) ≠ 5)
    ∧ (let s := onG (fun g => lst 31 4 (topo 1 true true g)); s.gn.alive = true ∧ 31 < 32 ∧ s.gn.rg (F.lkStat_state 31) = 4
      ∧ s.gn.rd.topo = some (wTopo 1 true true) ∧ s.gn.childPort 31 = false)
    ∧ (∀ p ∈ [0, 32, 33], let s := onG (fun g => started p (lst p 4 g)); s.gn.alive = true ∧ p < 34 ∧ s.gn.rg (F.lkStat_state p) = 4)
    ∧ (let s := onG (fun g => lst 0 5 (topo 1 true false g)); s.gn.alive = true ∧ s.gn.siteMapped 5 = true ∧ s.gn.portUp (s.gn.sitePort 5) = true) := by
  decide +kernel

theorem witness_LinkStartKnown (p : Nat) : let s := onG (fun g => started p (lst p 4 g)); (s.gn.takeLinkStart (.port p)).2 = some 4 := by
  have h : ({ (lst p 4 Gn.init).tm with xs := List.replicate 32 ⟨p, 4, 0, 0⟩ } : TimeSt).exchs p = List.replicate 32 ⟨p, 4, 0, 0⟩ := by
    unfold TimeSt.exchs
    have e : (List.replicate 32 (⟨p, 4, 0, 0⟩ : Exch)).filter (fun e => e.link == p) = List.replicate 32 ⟨p, 4, 0, 0⟩ := by simp
    dsimp only
    rw [e]
    exact List.mergeSort_of_pairwise (by simp [List.replicate])
  show ((onG (fun g => started p (lst p 4 g))).gn.takeLinkStart (.port p)).2 = some 4
  unfold Gn.takeLinkStart TimeSt.linkStart
  rw [show ((onG (fun g => started p (lst p 4 g))).gn.tm.exchs (linkCode (.port p))) = List.replicate 32 ⟨p, 4, 0, 0⟩ from h]
  rfl

/-- The tag of a first flit of class 1 with the right check value, and the same with a wrong one. -/
def wTag : Word := let t := 2 ^ 52 + 2 ^ 54; BitVec.ofNat 64 (t + crc8 (leBytes 7 t) * 2 ^ 56)

/-- A reception of some bytes of a class, in progress or at its last flit. -/
def wRx (cls : Nat) (b : List Byte) (last : Bool) : Rx := { stamp := 0, ht := 0, ok := true, beads := 1, cls := cls, b := b, last := last }

/-- A flit of one bead that begins a frame of site 5, and the tag of a later flit. -/
def wFlit : List Byte := leBytes 8 0 ++ leBytes 8 (5 * 2 ^ 24) ++ List.replicate 48 0
def wTag2 : Word := let t := 2 ^ 53 + 2 ^ 54; BitVec.ofNat 64 (t + crc8 (leBytes 7 t) * 2 ^ 56)

theorem witness_FlitReceptionRules :
    (let s := onG (lst 33 5); s.gn.alive = true ∧ s.gn.portRx 33 = true ∧ (s.gn.port 33).rx = none ∧ 33 < 34 ∧ s.gn.rg F.pwState_pstate ≠ 2
      ∧ crc8 (leBytes 7 wTag.toNat) = bits wTag.toNat 56 8 ∧ bit wTag.toNat 52 = true ∧ wFlit.length = 64 * (bits wTag.toNat 48 4 + 1))
    ∧ (let s := onG (lst 0 5); let t := wTag ^^^ 1; s.gn.alive = true ∧ s.gn.portRx 0 = true ∧ 0 < 1
      ∧ crc8 (leBytes 7 t.toNat) ≠ bits t.toNat 56 8 ∧ ([] : List Byte).length ≠ 64 * (bits wTag.toNat 48 4 + 1))
    ∧ (let s := onG (fun g => (lst 0 5 g).setPort 0 { Port.empty with rx := some (wRx 1 (List.replicate 4032 0) false) });
      s.gn.alive = true ∧ s.gn.portRx 0 = true ∧ (s.gn.port 0).rx = some (wRx 1 (List.replicate 4032 0) false)
      ∧ crc8 (leBytes 7 wTag2.toNat) = bits wTag2.toNat 56 8 ∧ bit wTag2.toNat 52 = false ∧ wFlit.length = 64 * (bits wTag2.toNat 48 4 + 1)
      ∧ (wRx 1 [] false).stamp = bits wTag2.toNat 0 48 ∧ (wRx 1 [] false).last = false ∧ (wRx 1 [] false).ok = true ∧ (List.replicate 4032 0 ++ wFlit).length ≤ 4096)
    ∧ (∀ r ∈ [wRx 1 [] false, { wRx 1 [] false with ok := false }, wRx 1 [] true], let s := onG (fun g => (lst 0 5 g).setPort 0 { Port.empty with rx := some r });
      s.gn.alive = true ∧ s.gn.portRx 0 = true ∧ (s.gn.port 0).rx = some r) := by
  decide +kernel

theorem witness_PolicingAdmitsByTokens : let s := onG (fun g => (lst 7 5 (topo 1 true false g)).wr (F.lkPol_rate 5) 500); let src := bits (u64 wFlit 8) 24 8
    s.gn.alive = true ∧ s.gn.portRx 7 = true ∧ 7 < 8 ∧ src = 5 ∧ src < 112 ∧ s.gn.isTray = true ∧ s.gn.siteMapped src = true
      ∧ s.gn.lk.mismatch.contains src = false ∧ (s.gn.port 7).rx = none ∧ s.gn.rg F.pwState_pstate ≠ 2
      ∧ crc8 (leBytes 7 wTag.toNat) = bits wTag.toNat 56 8 ∧ bit wTag.toNat 52 = true ∧ wFlit.length = 64 * (bits wTag.toNat 48 4 + 1)
      ∧ bits wTag.toNat 54 2 ≠ 0 ∧ s.gn.rg (F.lkPol_rate src) ≠ 0 := by decide +kernel

/-- A whole sample frame of site 5: header, 44 zero bytes of body, CRC-32C. -/
def wFrame : List Byte := let b := leBytes 8 (0x12 * 2 ^ 48) ++ leBytes 8 (3 * 2 ^ 6 + 5 * 2 ^ 24) ++ List.replicate 44 0
  b ++ leBytes 4 (crc32c b)

theorem witness_SingleFrameItemHandedOn :
    let r := wRx 3 wFrame true; let f := parseFrame r.b; let s := onG (fun g => (lst 0 5 (topo 1 true false g)).setPort 0 { Port.empty with rx := some r });
    s.gn.alive = true ∧ s.gn.portRx 0 = true ∧ 0 < 34 ∧ (s.gn.port 0).rx = some r ∧ r.ok = true ∧ r.last = true ∧ frameOk r.b f = true
      ∧ headerFits r f = true ∧ f.cls ≠ 0 ∧ f.typ ≠ 0x40 ∧ (proofKind f.typ && (s.gn.portUse 0 == 2 || s.gn.portUse 0 == 3 || s.gn.portUse 0 == useTc2)) = false
      ∧ s.gn.typeOn 0 f.typ = true ∧ clsOk (decide (f.src < 112)) f.typ f.cls = true ∧ s.gn.srcOn 0 f.src f.typ = true ∧ f.z = false
      ∧ f.more = false ∧ f.seg = 0 ∧ (s.gn.port 0).expSeq.find? (fun e => e.1 == f.src && e.2.1 == f.cls) = none
      ∧ (s.gn.port 0).asm.find? (fun a => a.src == f.src && a.cls == f.cls) = none := by decide +kernel

def wF (cls : Nat) : Frame :=
  { dst := .port 31, typ := 0, cls := cls, stamp := 0, z := false, more := false, seg := 0, studio := 0, tq := 0, src := 0xFF, seq := 0, body := [] }

/-- A compressed item of 5 bytes in a raw block, between two skippable frames; one whose content fails `ocrc`. -/
def wZ (crc : Nat) : List Byte :=
  let x : List Byte := [1, 2, 3, 4, 5]
  let skip := leBytes 4 0x184D2A50 ++ leBytes 4 1 ++ [0]
  leBytes 4 5 ++ leBytes 4 (crc32c x + crc) ++ skip ++ leBytes 4 0xFD2FB528 ++ [0x24, 5] ++ leBytes 3 (1 + 8 * 5) ++ x
    ++ leBytes 4 ((xxh64 x).toNat % 2 ^ 32) ++ skip

def wAsm (b : List Byte) : Asm := { src := 5, cls := 3, typ := 0x12, z := true, stamp := 0, ht := 0, lost := false, segs := 1, beads := 1, b := b }

theorem witness_LinkServiceCommandsComplete :
    (∀ c ∈ [0, 1], ((onG (fun g => g.setPort 33 { Port.empty with heldZ := [wAsm (wZ c)] })).gn.port 33).heldZ = [wAsm (wZ c)])
    ∧ (wAsm []).src = 5 ∧ zRead (wZ 0) = ⟨2, some [1, 2, 3, 4, 5]⟩ ∧ (zRead (wZ 1)).out = none
    ∧ (let s := onG (lst 33 4); s.gn.alive = true ∧ 33 < 34 ∧ s.gn.portRx 33 = true)
    ∧ (∀ n ∈ [0, 2], let s := onG (fun g => (lst 0 5 g).setPort 0 { Port.empty with owed := [0, 1, 0, 0], cred := [n, 0, 0, 0] }); let x := s.gn.port 0
      s.gn.alive = true ∧ s.gn.portRx 0 = true ∧ (x.owed.all (· == 0) && x.acks.isEmpty) = false
      ∧ x.hasCredit (s.gn.newFrame (.port 0) 0x01 (linkCtlBody (x.owed.map (min 0xFFFF)) x.acks)) = decide (n = 2))
    ∧ (∀ k ∈ [1, 2], let u : Unack := { src := 0xFF, seq := 3, sent := k, f := wF 0 }
      let s := onG (fun g => g.setPort 0 { Port.empty with unack := [u], cred := [1, 0, 0, 0] });
      s.gn.alive = true ∧ (s.gn.port 0).unack.find? (fun v => v.src == 0xFF && v.seq == 3) = some u ∧ (s.gn.port 0).hasCredit u.f = true) := by
  decide +kernel

theorem witness_FrameSendStartsHead :
    (∀ c ∈ [0, 3], let s := onG (fun g => (lst 31 5 g).setPort 31 { Port.empty with cred := [1, 1, 1, 1], whole := [1, 1, 1, 1], sendQ := [wF c] });
      s.gn.alive = true ∧ s.gn.portRx 31 = true ∧ 31 < 32 ∧ (s.gn.port 31).sendQ = [wF c] ∧ (wF c).cls < 4
        ∧ (wF c).beads ≤ (s.gn.port 31).whole.getD (wF c).cls 0 ∧ (s.gn.port 31).canStart (wF c) = true) := by decide +kernel

def gated (x : Gate) (g : Gn) : Gn := { g with lk := { g.lk with gates := SMap.set gateDefault g.lk.gates 2 x } }

theorem witness_LinkTimersComplete :
    (let s := onG (fun g => ((g.wr (F.lkGate_dur 0) 125).wr (F.lkGate_open 0) 0xF).wr (F.lkGctl_nent 0) 1);
       (s.gn.pendingGate 0).ents ≠ [] ∧ (s.gn.pendingGate 0).ents.length ≤ 256 ∧ 1000 ≤ gateCycle (s.gn.pendingGate 0).ents
        ∧ gateCycle (s.gn.pendingGate 0).ents ≤ 1000000000 ∧ (s.gn.pendingGate 0).phase < gateCycle (s.gn.pendingGate 0).ents)
    ∧ (State.reset.gn.pendingGate 1).ents = []
    ∧ (onG (fun g => g.put (F.lkGctl_pend 1) true)).gn.flag (F.lkGctl_pend 1) = true
    ∧ (let s := onG (lst 33 4); s.gn.alive = true ∧ 33 < 34 ∧ (s.gn.port 33).sendQ.any (fun f => f.typ == 0) = false ∧ s.gn.portRx 33 = true)
    ∧ (onG (fun g => { g with lk := { g.lk with tapDrops := 1 } })).gn.lk.tapDrops ≠ 0
    ∧ (onG (lst 33 1)).gn.rg (F.lkStat_state 33) = 1
    ∧ SMap.get (fun _ => 0) (onG (fun g => { g with lk := { g.lk with unmapped := [(7, 2)] } })).gn.lk.unmapped 7 ≠ 0 := by decide +kernel

theorem witness_ArbiterGrantsInCyclicOrder : let s := onG (fun g => (g.wr (F.arb_n 127) 8).wr (F.arb_ptr 127) 1); let n := arbCount 127
    127 ≠ 128 ∧ 127 ≠ 131 ∧ s.gn.flag (F.arb_frz 127) = false ∧ s.gn.rg F.hgDump_state ≠ 1 ∧ (SMap.get arbDefault s.gn.lk.arbs 127).reqs = []
      ∧ (SMap.get arbDefault s.gn.lk.arbs 127).since + 1 < s.gn.rg (F.arb_n 127) ∧ 0 < n ∧ 0 ∈ [0]
      ∧ (∀ j ∈ [0], j < n → (0 + n - s.gn.rg (F.arb_ptr 127) % n) % n ≤ (j + n - s.gn.rg (F.arb_ptr 127) % n) % n) := by decide +kernel

theorem witness_TimeCommandsComplete :
    (let s := onG (fun g => topo 1 true true ((rdy g).wr F.buStat_phase 6)); s.gn.admits 0x02 ⟨false, true, true, false⟩ h0 = true
      ∧ (s.gn.begun 0x02 h0).rd.topo = some (wTopo 1 true true) ∧ (wTopo 1 true true).top = true ∧ (s.gn.begun 0x02 h0).timeValid = false)
    ∧ State.reset.gn.alive = true ∧ State.reset.gn.timeValid = false ∧ State.reset.gn.sc.maint = none ∧ State.reset.gn.childPort 31 = false
    ∧ (let s := onG (fun g => { g with tm := { g.tm with reqs := [(33, 7, 100)] } }); s.gn.tm.reqs.find? (fun e => e.1 == 33 && e.2.1 == 7) = some (33, 7, 100)
      ∧ s.gn.tm.reqs.find? (fun e => e.1 == 33 && e.2.1 == 8) = none)
    ∧ (let s := onG (fun g => lst 0 5 (topo 1 true false (g.put F.tmStat_valid true))); s.gn.alive = true ∧ s.gn.timeValid = true ∧ s.gn.portRx 0 = true
      ∧ s.gn.siteMapped 5 = true ∧ s.gn.portRx (s.gn.sitePort 5) = true) := by decide +kernel

theorem witness_TimeSetSetsHallTime : let s := onG (fun g => topo 1 true true ((rdy g).wr F.buStat_phase 6));
    s.gn.admits 0x02 ⟨false, true, true, false⟩ h0 = true ∧ (s.gn.begun 0x02 h0).rd.topo = some (wTopo 1 true true) ∧ (wTopo 1 true true).top = true
      ∧ (s.gn.begun 0x02 h0).timeValid = false ∧ 2 ^ 64 - 1 < 2 ^ 64 ∧ (s.gn.begun 0x02 h0).tm.fix ≤ (2 ^ 64 - 1) * nsFix := by decide +kernel

theorem witness_CycleRisesWithinSlewLimit : let t := TimeSt.init nsFix; t.hold = none
    ∧ (let u := { t with fix := 2 * nsFix, hold := some nsFix }; u.hold = some nsFix ∧ nsFix + u.inc ≤ u.fix)
    ∧ (let u := { t with fix := 2 * nsFix, hold := some (nsFix + 1) }; u.fix < nsFix + 1 + u.inc) := by decide +kernel

theorem witness_IslandCommandsComplete :
    (let s := onG (fun g => g.wr (F.pwIsl_step 3) 0); 5000000 < 4000000 * s.gn.islMhz 3 * 4 ∧ (s.gn.isl 3).stretched = false)
    ∧ (let s := onG (fun g => g.setIsl 3 { g.isl 3 with stretched := true, good := 62 }); 0 * s.gn.islMhz 3 * 4 ≤ 5000000
       ∧ (s.gn.isl 3).stretched = true ∧ (s.gn.isl 3).good < 63)
    ∧ (let s := onG (fun g => g.setIsl 3 { g.isl 3 with stretched := true, good := 63 }); 0 * s.gn.islMhz 3 * 4 ≤ 5000000
       ∧ (s.gn.isl 3).stretched = true ∧ 63 ≤ (s.gn.isl 3).good)
    ∧ (State.reset.gn.isl 15).stoppedAt = none
    ∧ (let s := onG (fun g => g.setIsl 15 { g.isl 15 with stoppedAt := some 0 }); (s.gn.isl 15).stoppedAt = some 0
       ∧ s.gn.flag (F.pwIsl_gated 15) = false ∧ s.gn.ev.outbox.length < 14) := by decide +kernel

/-! ### Witnesses: set-up, studios, registers, reads, the debug port -/

def wZeros (n : Nat) : List Byte := List.replicate n 0
/-- A topology that passes every check of R351, by its magic number: the header before the CRC, the bytes after it, the whole. -/
def wHead (magic : Nat) : List Byte := leBytes 4 magic ++ leBytes 4 525856 ++ leBytes 2 1 ++ [0, 2] ++ leBytes 2 0xFFFF ++ leBytes 2 0xFFFF ++ [0xFF, 0, 0, 0] ++ leBytes 2 1 ++ wZeros 38
def wTopoIn (magic : Nat) : TopoIn :=
  { head := wHead magic ++ (leBytes 4 (crc32c (wHead magic ++ wZeros 1504 ++ rankBytes [])) ++ wZeros 1504), ranks := [] }

theorem wTopoIn_parse (magic : Nat) : (parseTopo (wTopoIn magic)) = topoFields (wHead magic) (wZeros 1504) [] true := by
  have h1 : (wTopoIn magic).head.take 60 = wHead magic := rfl
  have h2 : (wTopoIn magic).head.drop 64 = wZeros 1504 := rfl
  have h3 : topoCrcOk (wTopoIn magic) = true := by
    simp only [topoCrcOk, h1, h2, Bool.and_eq_true, beq_iff_eq]
    exact ⟨rfl, rfl⟩
  simp only [parseTopo, h1, h2, h3]; rfl

/-- Bring-up phase 5; Maintenance in phase 7; an enrolled module. -/
def bu5 (g : Gn) : Gn := (rdy g).wr F.buStat_phase 5
def maint (g : Gn) : Gn := (rdy g).wr F.scStat_acc 2
def wStore : KeyStore := ⟨wZeros 32, wZeros 48, wZeros 32⟩
def ident (g : Gn) : Gn := (g.put F.scStat_idOk true).onSc (fun x => { x with store := some wStore })

theorem witness_SetupCommandsComplete :
    (let s := onG bu5; s.gn.admits 0x01 ⟨false, true, false, false⟩ h0 = true ∧ (s.gn.begun 0x01 h0).flag F.buStat_topoOk = false
      ∧ (s.gn.begun 0x01 h0).topoBad (parseTopo (wTopoIn 0x54504731)) (mkRanks (parseTopo (wTopoIn 0x54504731)).ranks) = none
      ∧ (s.gn.begun 0x01 h0).topoBad (parseTopo (wTopoIn 0)) (mkRanks (parseTopo (wTopoIn 0)).ranks) = some 0)
    ∧ (let s := onG rdy; s.gn.admits 0x03 ⟨false, false, true, false⟩ h0 = true ∧ [(131071, (5 : Word32))].any (fun e => decide (131072 ≤ e.1)) = false
      ∧ rankBad (s.gn.begun 0x03 h0).isTray (mkRanks [(131071, 5)]) = none)
    ∧ (let s := onG rdy; s.gn.admits 0x1C ⟨false, false, true, false⟩ h0 = true ∧ (s.gn.begun 0x1C h0).acc = 0) := by
  simp only [wTopoIn_parse]
  decide +kernel

theorem witness_StudioCommandsComplete :
    (let s := onG (fun g => ident (rdy g)); let g := s.gn.begun 0x15 h0; s.gn.admits 0x15 ⟨false, false, true, true⟩ h0 = true ∧ tenant 15 = true
      ∧ g.flag F.scStat_idOk = true ∧ g.flag F.scStat_ksErased = false ∧ g.acc ≠ 2 ∧ g.flag F.scStat_busy = false ∧ g.rg (F.scStu_st 15) = 0)
    ∧ (let s := onG (fun g => (ident (rdy g)).wr (F.scStu_st 15) 1); let g := s.gn.begun 0x15 h0
      s.gn.admits 0x15 ⟨false, false, true, true⟩ h0 = true ∧ g.flag F.scStat_idOk = true ∧ g.flag F.scStat_ksErased = false ∧ g.acc ≠ 2
      ∧ (g.flag F.scStat_busy = true ∨ g.rg (F.scStu_st 15) ≠ 0))
    ∧ (let s := onG (fun g => (rdy g).wr (F.scStu_st 1) 2); s.gn.admits 0x16 ⟨false, false, true, false⟩ h0 = true ∧ tenant 1 = true
      ∧ (s.gn.begun 0x16 h0).flag F.scStat_busy = false ∧ (s.gn.begun 0x16 h0).rg (F.scStu_st 1) ≠ 0)
    ∧ (let s := onG (fun g => g.onSc (fun x => { x with closing := [(15, h0)] })); s.gn.alive = true ∧ s.gn.sc.closing = [(15, h0)]) := by
  decide +kernel

/-- STUDIO_KEY: whether a key block unwraps rests on the shared secret, which is uninterpreted (assumption log 4); whenever one does, the other hypotheses hold here with it. -/
theorem witness_StudioKey (b k : List Byte) : let s := onG (fun g => ident ((rdy g).wr (F.scStu_st 1) 1)); let g := s.gn.begun 0x17 h1
    unwrapSession wStore.ident b (g.rg F.scId_fp) 1 = some k →
      s.gn.admits 0x17 ⟨true, false, true, false⟩ h1 = true ∧ h1.fn ≠ 0 ∧ g.flag F.scStat_idOk = true ∧ g.flag F.scStat_ksErased = false
      ∧ g.studioSt h1.fn = 1 ∧ g.sc.store = some wStore ∧ unwrapSession wStore.ident b (g.rg F.scId_fp) h1.fn = some k := by
  intro s g h
  exact ⟨by decide +kernel, by decide +kernel, by decide +kernel, by decide +kernel, by decide +kernel, by decide +kernel, h⟩

def wOwner : Owner324 := ⟨1, 2, 3, 4, wZeros 48⟩
def wCfg : CfgImage := { tray := true, top := false, tc2 := false, srcSel := 0, hsDelayMs := 0, capW := 0, pol := [], coalCodes := [] }
def wFw : FwImage := { ver := 3, digest := wZeros 48, sig := wZeros 96, len := 4096, cfg := wCfg }
def wOwnerIn : OwnerIn := ⟨1, 2, 3, 4, wZeros 96⟩
def owned (g : Gn) : Gn := g.onSc (fun c => { c with owner := some wOwner, ownerOk := true })

theorem witness_HostServicesComplete :
    (let s := onG (fun g => ident (rdy g)); let g := s.gn.begun 0x18 h0; s.gn.admits 0x18 ruleBSM h0 = true ∧ g.flag F.scStat_idOk = true ∧ g.sc.store = some wStore)
    ∧ (let s := onG rdy; s.gn.admits 0x19 ruleBSM h0 = true ∧ 1 ≤ 4096 ∧ 4096 ≤ 4096 ∧ 258048 + 4096 ≤ 262144)
    ∧ (let s := onG bu5; s.gn.admits 0x1A ruleBSM h0 = true ∧ 1 < 2 ∧ 98303 * 4096 + 4096 ≤ 402653184)
    ∧ (let s := onG (fun g => ident (maint g)); let g := s.gn.begun 0x1E h0; s.gn.admits 0x1E ruleM h0 = true ∧ g.sc.store = some wStore ∧ g.ownerRec = none) := by
  decide +kernel

/-- IMAGE_WRITE and a second ENROL: whether a signature verifies is uninterpreted (assumption log 4); whenever one does, the other hypotheses hold here with it. -/
theorem witness_ImageWrite : let s := onG (fun g => owned (maint g)); let g := s.gn.begun 0x1D h0;
    Config.ecdsaOk Config.bootKey wFw.digest wFw.sig = true →
      s.gn.admits 0x1D ruleM h0 = true ∧ 1 < 2 ∧ wFw.len ≠ 0 ∧ wFw.len ≤ 63 * 1048576 ∧ g.sc.fwLoaded ≠ 1 ∧ Config.ecdsaOk Config.bootKey wFw.digest wFw.sig = true
      ∧ (∀ o, g.ownerRec = some o → o.minFw ≤ wFw.ver) := by
  intro s g h
  refine ⟨by decide +kernel, by decide, by decide, by decide, by decide +kernel, h, fun o e => ?_⟩
  have k : g.ownerRec = some wOwner := by decide +kernel
  rw [k] at e
  exact Option.some.inj e ▸ (by decide)

theorem witness_Enrol : let s := onG (fun g => owned (ident (maint g))); let g := s.gn.begun 0x1E h0;
    Config.ecdsaOk wOwner.cfgKey (sha384 (ownerBytes 1 2 3 4)) wOwnerIn.sig = true →
      s.gn.admits 0x1E ruleM h0 = true ∧ g.sc.store = some wStore ∧ g.ownerRec = some wOwner
      ∧ Config.ecdsaOk wOwner.cfgKey (sha384 (ownerBytes wOwnerIn.cfgKey wOwnerIn.dbgKey wOwnerIn.minFw wOwnerIn.minCfg)) wOwnerIn.sig = true := by
  intro s g h
  exact ⟨by decide +kernel, by decide +kernel, by decide +kernel, h⟩

theorem witness_RegisterAccessesComplete : State.reset.gn.hostUp = true ∧ badAccess 0x1FFFF8 8 = false ∧ badAccess 4 4 = false
    ∧ (let s := onG rdy; s.gn.admits 0x1B ⟨false, true, true, true⟩ h0 = true ∧ badAccess 0x2010 (regWidth true) = false) := by decide +kernel

theorem witness_UnmappedReadGivesZero : (let s := State.reset; s.gn.hostUp = true ∧ badAccess 0x2FF8 8 = false ∧ 0x2FF8 < 2 ^ 21
      ∧ s.gn.gatedAt 0x2FF8 = false ∧ (0x2FF8 < 0x61000 ∨ 0x63000 ≤ 0x2FF8) ∧ (msixWord 0 0x2FF8).isSome = false ∧ pbaWord 0x2FF8 = false
      ∧ regParts 0x2FF8 8 = [] ∧ s.gn.flag F.idUnmap_valid = false)
    ∧ badAccess 2 4 = true ∧ badAccess 0 2 = true ∧ badAccess 4 8 = true := by decide +kernel

def wReq : ReadReq := { tag := 5, origin := 9, rstudio := 0, sit := 0, gen := 0, ta := 0 }
def wRep : ReadRep := { tag := 5, status := 0, tq := 0, value := 1, ht := 2 }
def wRd : Rd := { q := wReq, back := none, hdr := some h0, port := some 3, retried := false, sent := 0, site := some 7, sitWait := false }

def reads (g : Gn) : Gn := g.onRd (fun d => { d with reads := [wRd] })

theorem witness_ReadCommandsComplete :
    (onG rdy).gn.admits 0x0C ⟨true, false, true, true⟩ h0 = true
    ∧ (let s := onG (topo 4 false false); s.gn.takes = true ∧ s.gn.portUse 32 = 4)
    ∧ (let s := onG reads; s.gn.takes = true ∧ s.gn.rd.reads.find? (fun r => r.port == some 3 && r.q.tag == wRep.tag) = some wRd
      ∧ wRep.status ≠ rdLinkLost)
    ∧ (let r := { wRd with site := none }; let s := onG (fun g => ht 10000000 (g.onRd (fun d => { d with reads := [r] }))); s.gn.alive = true ∧ s.gn.rd.reads = [r]
      ∧ r.sent + 10000000 ≤ s.gn.now ∧ r.hdr.isSome = true ∧ r.sitWait = false ∧ s.gn.inFlight r = false)
    ∧ (onG reads).gn.rd.reads.find? (fun r => r.site == some 7) = some wRd := by decide +kernel

theorem witness_TapInstructionsComplete : State.reset.gn.pw.off = false ∧ State.reset.gn.boundaryOn = true
    ∧ (onG (fun g => g.onSc (fun x => { x with cfg := some wCfg }))).gn.boundaryOn = false := by decide +kernel

/-- DP_OPEN: whether a signature verifies is uninterpreted (assumption log 4); whenever one does, the other hypotheses hold here. -/
theorem witness_DpOpen (sig : List Byte) :
    let s := onG (fun g => (owned (maint g)).onSc (fun c => { c with nonce := some 3 }));
    s.gn.sigOk 2 sig = true → s.gn.alive = true ∧ s.gn.sc.ignore ≤ s.gn.now ∧ s.gn.openOk 2 = true ∧ s.gn.sigOk 2 sig = true ∧ s.gn.sc.tags = [] := by
  intro s h
  exact ⟨by decide +kernel, by decide +kernel, by decide +kernel, h, by decide +kernel⟩

theorem witness_DebugPortCommandsComplete :
    (let s := State.reset; s.gn.pw.off = false ∧ s.gn.alive = true ∧ s.gn.sc.ignore ≤ s.gn.now ∧ (s.gn.openOk 1 && s.gn.sigOk 1 []) = false
      ∧ s.gn.dpIsOpen = false)
    ∧ (let s := onG (fun g => g.wr F.scStat_dbg 1); s.gn.pw.off = false ∧ s.gn.dpIsOpen = true ∧ s.gn.safe = false) := by decide +kernel

theorem witness_DebugMemoryWriteIsLocal : let s := onG (fun g => g.wr F.scStat_dbg 2);
    s.gn.pw.off = false ∧ s.gn.rg F.scStat_dbg = 2 ∧ s.gn.safe = false ∧ s.gn.rg F.pwState_pstate ≠ 2 ∧ 8388600 + 8 ≤ 8388608 ∧ s.memWf = true := by
  decide +kernel

/-! ### Witnesses: images, graphs, ensembles, tasks, proofing -/


/-- Bytes with their CRC-32C after them. -/
def wSeal (b : List Byte) : List Byte := b ++ leBytes 4 (crc32c b)

def wFoot : Foot := { cores := 1, schedKib := 4, sbanks := 0, dataKib := 0, resv := 0 }
def wPlace : Place := { plan := 0, lc := 0, cores := 1, sbanks := 0, schedBytes := 64, bps := [3], last := 3 }

/-- An image of one logical cluster, one core and 4 KiB of schedule. -/
def wRaw : ImageIn :=
  let head := leBytes 4 0x4D4C4431 ++ leBytes 2 3 ++ leBytes 2 1 ++ leBytes 4 288 ++ leBytes 4 4 ++ wZeros 8 ++ leBytes 4 280 ++ wZeros 4 ++ leBytes 4 284 ++ wZeros 216
  let foot := leBytes 2 1 ++ leBytes 2 4 ++ wZeros 28
  { raw := head ++ leBytes 4 (crc32c (head ++ foot)) ++ foot, places := [wPlace], stages := [], ensSlots := [], quant := false }
def wImg : Image := parseImage wRaw

/-- A graph header for a slot, mode 1 (window stream 2) or 0, one instance, one task; a join task. -/
def wGraphHdr (slot mode : Nat) : List Byte :=
  wSeal (leBytes 2 slot ++ leBytes 1 mode ++ leBytes 1 1 ++ leBytes 4 1 ++ wZeros 20 ++ leBytes 2 (if mode = 1 then 2 else 0) ++ wZeros 30)
def wJoin : List Byte := wSeal (wZeros 2 ++ leBytes 2 1 ++ leBytes 1 1 ++ wZeros 3 ++ leBytes 2 1 ++ wZeros 50)

def wTask : Task :=
  { image := 1, kind := 0, pri := 0, strict := false, halt := false, npred := 0, cmask := 2, succs := [], k := 0, param := 0, inAddr := 0,
    outAddr := 0, auxAddr := 0, stride := 0 }
def wRun : Run :=
  { plans := [0], used := [1], cyc := [0], bp := 0, status := 0, why := .none, held := false, launched := 0, delay := 0, special := 0, idx := 0,
    released := [], cancel := false, oct := [0] }
def wGraph (t : TSt) : Graph :=
  { slot := 3, mode := 0, instMax := 1, stream := 0, tasks := [wTask], allTasks := false, fn := 0, sq := 0, enabled := true, halted := false,
    unload := none, unloading := false, winSkip := 2, skipWarn := true, wins := [], next := 1,
    insts := [{ n := 0, ts := [t], launchedTasks := [], cluster := none, bind := [], noPlan := [], freed := [], ended := false }] }

/-- READY with image 1 resident and graph 3, whose one task is in the state given. -/
def run (t : TSt) (g : Gn) : Gn := { rdy g with sq := { (rdy g).sq with images := [⟨1, wImg⟩], graphs := [wGraph t] } }

/-- A maintenance stop with a graph, then an ensemble, then nothing left, as the descriptor starts it and as a later increment of the time unit finds it. -/
def wMaint (graphs ens : Bool) (m : Option DescHdr) (g : Gn) : Gn :=
  let g := if graphs then run (.running wRun) g else rdy g
  (if ens then g.setEns 0 { ensEmpty with st := .unloading, hdr := some h0 } else g).onSc (fun x => { x with maint := m })

theorem witness_MaintenanceStop :
    (∀ e ∈ [(true, true), (false, true), (false, false)], let s := onG (wMaint e.1 e.2 none); let k := (s.gn.begun 0x1C h0).maintGraphs.onSc (fun x => { x with maint := some h0 })
      s.gn.admits 0x1C ruleS h0 = true ∧ (s.gn.begun 0x1C h0).acc = 0 ∧ k.alive = true ∧ (k.sq.graphs ≠ [] ↔ e.1 = true)
      ∧ k.maintDrop.ts.slots.any (fun x => x.2.st != .empty) = e.2)
    ∧ (∀ e ∈ [(true, true), (false, true), (false, false)], let s := onG (wMaint e.1 e.2 (some h0)); let k := s.gn.tick
      s.gn.alive = true ∧ s.gn.sc.maint = some h0 ∧ k.alive = true ∧ (s.gn.sq.graphs ≠ [] ↔ e.1 = true)
      ∧ k.maintDrop.ts.slots.any (fun x => x.2.st != .empty) = e.2) := by decide +kernel

theorem witness_ImageAndGraphCommandsComplete :
    (let s := onG rdy; let k := s.gn.hbmGranted 19 (hbmImage 255) 288; s.gn.alive = true ∧ s.gn.admits 0x04 ruleS h0 = true ∧ k.admits 0x04 ruleS h0 = true ∧ 255 < 256
      ∧ s.gn.hbmHeld 19 (hbmImage 255) 288 = false ∧ s.gn.image 255 = none ∧ (k.begun 0x04 h0).image 255 = none ∧ (s.gn.begun 0x04 h0).image 255 = none ∧ wImg.foots = [wFoot]
      ∧ imageCheck 288 wImg = 0 ∧ imageCheck 289 wImg ≠ 0)
    ∧ (let s := onG (fun g => { rdy g with sq := { g.sq with images := [⟨1, wImg⟩] } }); let g := s.gn.begun 0x05 h0
      s.gn.admits 0x05 ruleS h0 = true ∧ 1 < 256 ∧ g.sq.graphs.any (fun gr => gr.tasks.any (fun t => t.image == 1)) = false
      ∧ g.image 1 = some wImg)
    ∧ (∀ m ∈ [0, 1], let s := onG (fun g => { rdy g with sq := { g.sq with images := [⟨1, wImg⟩] } }); let g := s.gn.begun 0x06 h0; s.gn.admits 0x06 ruleS h0 = true
      ∧ g.graph (u16 (wGraphHdr 15 m) 0) = none ∧ g.graphCheck (wGraphHdr 15 m) [wJoin] [] = none)
    ∧ (let s := onG (run (.running wRun)); s.gn.admits 0x07 ruleS h0 = true ∧ 3 < 16
      ∧ (s.gn.begun 0x07 h0).graph 3 = some (wGraph (.running wRun)) ∧ (wGraph (.running wRun)).unloading = false) := by decide +kernel

/-- An epoch 5 of one feature, one output and one panel of a single leaf, for slot 63. -/
def wEns (repair : Nat) : EnsIn :=
  { hdr := wSeal (leBytes 1 63 ++ leBytes 1 repair ++ leBytes 2 1 ++ leBytes 4 5 ++ leBytes 2 1 ++ leBytes 2 1 ++ wZeros 48), qrecs := [3], bounds := [],
    panels := [{ hdr := wSeal (wZeros 2 ++ leBytes 2 2 ++ leBytes 4 1 ++ wZeros 8 ++ leBytes 2 1 ++ wZeros 106), nodes := [(0, 0, BitVec.ofNat 64 (2 ^ 63))],
                 sets := [] }] }
def wEp : Epoch := parseEpoch (wEns 0)
def wPanel : Panel := parsePanel { hdr := wSeal (wZeros 2 ++ leBytes 2 2 ++ leBytes 4 1 ++ wZeros 8 ++ leBytes 2 1 ++ wZeros 106), nodes := [(0, 0, BitVec.ofNat 64 (2 ^ 63))],
                                   sets := [] }
def ensAt (e : Ens) (g : Gn) : Gn := (rdy g).setEns 63 e

theorem witness_EnsembleCommandsComplete :
    (let s := onG rdy; let g := s.gn.begun 0x08 h0; let e := wEns 0; s.gn.admits 0x08 ruleS h0 = true ∧ u8 e.hdr 0 < 64 ∧ u8 e.hdr 1 = 0
      ∧ zeroBytes e.hdr 12 16 = true ∧ zeroBytes e.hdr 48 60 = true ∧ (g.ens (u8 e.hdr 0)).st = .empty)
    ∧ (let s := onG (ensAt { ensEmpty with st := .ready, cur := some wEp, damaged := [(5, 1, 0)] }); let g := s.gn.begun 0x08 h0; let e := wEns 1
      s.gn.admits 0x08 ruleS h0 = true ∧ u8 e.hdr 0 < 64 ∧ u8 e.hdr 1 = 1 ∧ zeroBytes e.hdr 12 16 = true ∧ zeroBytes e.hdr 48 60 = true
      ∧ (g.ens (u8 e.hdr 0)).st = .ready
      ∧ (g.stageCheck e true).toOption.any (fun ep => ep.panels.all (fun p => ((g.ens 63).repairs p).isSome)) = true
      ∧ (g.stageCheck { e with qrecs := [] } true).toOption = none)
    ∧ (let s := onG (ensAt { ensEmpty with st := .ready, cur := some wEp }); s.gn.admits 0x09 ruleS h0 = true ∧ 63 < 64
      ∧ ((s.gn.begun 0x09 h0).ens 63).st = .ready ∧ ((s.gn.begun 0x09 h0).ens 0).st = .empty)
    ∧ (let s := onG (ensAt { ensEmpty with st := .staging, new := some wEp, hdr := some h0, input := some (wEns 0) }); let e := s.gn.ens 63
      e.st = .staging ∧ e.input = some (wEns 0) ∧ e.hdr = some h0 ∧ (s.gn.stageCheck (wEns 0) false).toOption.isSome = true
      ∧ (s.gn.stageCheck { wEns 0 with qrecs := [] } false).toOption = none) := by decide +kernel

theorem witness_PanelCommandsComplete :
    (let s := onG (ensAt { ensEmpty with st := .commit, new := some wEp, left := [0] }); let e := s.gn.ens 63; e.st = .commit ∧ e.new = some wEp
      ∧ wEp.panels = [wPanel] ∧ e.left = [wPanel.num] ∧ e.writing = [] ∧ e.eligible wPanel = true
      ∧ s.gn.ts.slots.all (fun x => x.2.st != .commit || x.2.writing.isEmpty) = true)
    ∧ (let s := onG (ensAt { ensEmpty with st := .commit, new := some wEp, left := [0], writing := [0] }); (s.gn.ens 63).st = .commit
      ∧ (s.gn.ens 63).new = some wEp ∧ wEp.panels.find? (fun q => q.num == 0) = some wPanel ∧ (s.gn.ens 63).writing.contains 0 = true ∧ s.gn.hbmHeld 19 (hbmPanels + 8 * wPanel.rowBase) 0 = false)
    ∧ (let s := onG rdy; s.gn.alive = true ∧ s.gn.flag (F.pwIsl_gated 15) = false ∧ (s.gn.isl 15).stoppedAt = none) := by decide +kernel

theorem witness_TaskCommandsComplete :
    (let s := onG (run (.ready 0)); s.gn.alive = true ∧ s.gn.rg F.pwState_pstate = 0 ∧ s.gn.frozen = false
      ∧ s.gn.pick s.gn.cands [] = some ⟨3, 0, 0, wTask, 0⟩ ∧ s.gn.hasPlan ⟨3, 0, 0, wTask, 0⟩ = true)
    ∧ (let s := onG (fun g => (run (.ready 0) g).wr (F.clPlan_wdMask 1) 1); s.gn.alive = true ∧ s.gn.rg F.pwState_pstate = 0 ∧ s.gn.frozen = false ∧ s.gn.pick s.gn.cands [] = some ⟨3, 0, 0, wTask, 0⟩
      ∧ s.gn.hasPlan ⟨3, 0, 0, wTask, 0⟩ = false)
    ∧ (let s := onG (fun g => (run (.running wRun) g).wr (F.clPlan_wdMask 1) 1); s.gn.runOf 3 0 0 = some (wTask, wRun) ∧ s.gn.moving = true
      ∧ (s.gn.plansNow wTask).all (·.isSome) = false)
    ∧ (∀ r ∈ [wRun, { wRun with status := 2 }, { wRun with cancel := true }, { wRun with held := true, cancel := true }],
      (onG (run (.running r))).gn.runOf 3 0 0 = some (wTask, r) ∧ (onG (run (.running r))).gn.moving = true)
    ∧ (onG (run (.running wRun))).gn.plansNow wTask = [some (0, 1)]
    ∧ (let r := { wRun with held := true }; let s := onG (run (.running r)); s.gn.runOf 3 0 0 = some (wTask, r) ∧ s.gn.moving = true
      ∧ (s.gn.plansNow wTask).all (·.isSome) = true ∧ s.gn.coresFree wTask = true)
    ∧ (let r := { wRun with cyc := [1028] }; let s := onG (run (.running r)); s.gn.runOf 3 0 0 = some (wTask, r) ∧ s.gn.alive = true
      ∧ s.gn.image wTask.image = some wImg ∧ r.cyc.any (fun c => decide (wImg.bpMax + 1024 ≤ c)) = true)
    ∧ (let s := onG (run (.running wRun)); wTask.clusters.findIdx? (· == 1) = some 0 ∧ s.gn.flag (F.pwIsl_gated 1) = false
      ∧ (s.gn.isl 1).stoppedAt = none ∧ (let x : Site := { slot := 3, inst := 0, idx := 0, c := 1, lc := 0, t := wTask, f := s.gn.foot wTask.image 0 };
        s.gn.throttled x wRun = false ∧ ((onG (fun g => (run (.running wRun) g).wr (F.pwIsl_thr 1) 1)).gn.throttled x wRun) = true)
      ∧ s.gn.freshCycle.stalls 1 [.access 0 0] = false ∧ s.gn.freshCycle.stalls 1 [.crossIn 0 none] = true ∧ s.gn.graph 3 = some (wGraph (.running wRun))
      ∧ (wGraph (.running wRun)).skipWarn = true) := by decide +kernel

def wSit (st : SitPhase) : Sit := { Sit.fresh 7 100 st none 0 with snap := if st == .frozen then [(1, 1)] else [] }
def frz (g : Gn) : Gn := { rdy g with sits := [wSit .frozen] }
def wPlan : Plan := { fromEpoch := 0, k := 3, dblAll := false, deadlineUs := 500, gatherUs := 0, batchMax := 1, pool := 3, tensors := [] }
def wExp : Exp := { Exp.blank 111 9 with hdr := wZeros 64, st := .running }
def wPfRun : PfRun := { id := 4, slot := 0, inst := 0, cl := 1, role := 0, rbs := [(111, 9)], suspect := false, bad := none, ended := true }
def proof (g : Gn) : Gn :=
  let tr := SMap.set trackInit g.pf.tracks 5 { base := none, seen := [], awaitBase := true }
  ht 500000 ((rdy g).onPf (fun q => { q with plans := [wPlan], exps := [wExp], runs := [wPfRun], barred := [2], tracks := tr }))

/-- READY under a topology of a tray, or of a manager. -/
def node (tray : Bool) (g : Gn) : Gn := topo 1 tray false (rdy g)

theorem witness_ProofCommandsComplete :
    (onG rdy).gn.admits 0x0A ruleS h0 = true ∧ (let s := onG rdy; let g := s.gn.begun 0x0B h0; s.gn.admits 0x0B ruleS h0 = true ∧ g.pf.epoch ≤ 0
      ∧ (g.pf.seeds.filter (fun x => x.epoch != 0) ++ [(⟨0, 1, none⟩ : Seed)]).length ≤ 3)
    ∧ (let s := onG (fun g => (rdy g).onPf (fun q => { q with epoch := 1 })); s.gn.admits 0x0B ruleS h0 = true ∧ 0 < (s.gn.begun 0x0B h0).pf.epoch)
    ∧ (let s := onG proof; s.gn.admits 0x12 ruleS h0 = true ∧ 2 < 16 ∧ (s.gn.begun 0x12 h0).pf.barred.contains 2 = true
      ∧ (s.gn.begun 0x12 h0).pf.barred.contains 15 = false)
    ∧ (let s := onG (node true); s.gn.takes = true ∧ s.gn.isTray = true ∧ s.gn.frozen = false ∧ s.gn.hbmHeld 18 (s.gn.landAt 111 9) 64 = false)
    ∧ (let s := onG (fun g => node true (frz g)); s.gn.takes = true ∧ s.gn.isTray = true ∧ s.gn.frozen = true)
    ∧ (let s := onG (node false); s.gn.takes = true ∧ s.gn.isTray = false)
    ∧ (let s := onG (fun g => topo 1 true false (proof g)); s.gn.takes = true ∧ s.gn.isTray = true ∧ s.gn.alive = true ∧ (s.gn.track 5).awaitBase = true
      ∧ s.gn.frozen = false ∧ s.gn.pf.runs.find? (fun q => q.slot == 0 && q.inst == 0 && q.ended) = some wPfRun
      ∧ s.gn.pf.exps.find? (fun e => e.site == 111 && e.seq == 9 && e.st != .answered) = some wExp ∧ s.gn.expPlan wExp = some wPlan
      ∧ wExp.htDone + wPlan.deadlineUs * 1000 ≤ s.gn.now) := by decide +kernel

/-! ### Witnesses: ingest, sittings, reduction, broadcasts, the recorder -/

/-- A manager with every port of one use; all its first 32 ports UP. -/
def mgr (use : Nat) (g : Gn) : Gn := forEach [0, 31] (fun p g => lst p 5 g) (topo use false false (rdy g))

def wStream (us : Nat) : WinSt := { segs := [(0, us)], closes := [], closed := 0, wins := [], cums := [] }

theorem witness_IngestCommandsComplete :
    (onG rdy).gn.ingests = true ∧ (onG rdy).gn.frozen = false ∧ (onG frz).gn.ingests = true ∧ (onG frz).gn.frozen = true
    ∧ (onG (topo 1 false false)).gn.takes = true ∧ (onG (topo 1 false false)).gn.isTray = false
    ∧ (∀ n ∈ [10, 1000000], (onG rdy).gn.alive = true ∧ bits n 0 20 = n ∧ 10 ≤ n ∧ n ≤ 1000000 ∧ n ≠ (onG rdy).gn.rg (F.winCfg_lenUs 7)
      ∧ bits n 20 14 = (onG (fun g => (rdy g).wr (F.winCfg_closeUs 7) 0)).gn.rg (F.winCfg_closeUs 7))
    ∧ (let s := onG (fun g => (rdy g).wr (F.winCfg_lenUs 0) 10); bits 0 0 20 = 0 ∧ 0 ≠ s.gn.rg (F.winCfg_lenUs 0))
    ∧ (let s := onG (fun g => ht 17000000 ((mgr 2 g).setWin 7 (wStream 10))); s.gn.alive = true ∧ s.gn.isTray = false
      ∧ (s.gn.win 7).windowOf (s.gn.win 7).closed = some (0, 10000, false) ∧ 10000 + s.gn.closeDelay 7 10000 * 1000 ≤ s.gn.now
      ∧ 7 ≠ (s.gn.count 2 7).rg F.hlSrch_hstream) := by decide +kernel

/-- Sitting 7 at T = 100 ns in a phase, hall time 300 ms, hall time valid or not. -/
def sat (st : SitPhase) (ok : Bool) (g : Gn) : Gn := ht 300000000 ({ mgr 2 g with sits := [wSit st] }.put F.tmStat_valid ok)

theorem witness_SittingCommandsComplete :
    (let s := onG (fun g => (rdy g).put F.tmStat_valid true); let g := s.gn.begun 0x0D h0; s.gn.admits 0x0D ruleS h0 = true ∧ 65535 ≠ 0
      ∧ g.timeValid = true ∧ g.now + 50000 ≤ 50000 ∧ g.sits.length < 8 ∧ g.sit 65535 = none)
    ∧ (let s := onG (sat .armed true); s.gn.admits 0x0E ruleS h0 = true ∧ (s.gn.begun 0x0E h0).sit 7 = some (wSit .armed))
    ∧ (let s := onG (mgr 2); s.gn.alive = true ∧ s.gn.rg F.pwState_pstate ≠ 2 ∧ s.gn.acc ≠ 2 ∧ s.gn.sits.length < 8 ∧ s.gn.sit 7 = none
      ∧ s.gn.wake.now < 1 ∧ 0 ≤ s.gn.wake.now)
    ∧ (let s := onG (sat .armed false); s.gn.alive = true ∧ s.gn.sit 7 = some (wSit .armed) ∧ (wSit .armed).t ≤ s.gn.now ∧ s.gn.timeValid = false
      ∧ (wSit .armed).t + 4 * s.gn.rg F.tmCfg_sitFrzUs * 1000 + 1000000 ≤ s.gn.now)
    ∧ (let s := onG (fun g => forEach (List.range 33) (fun p g => (lst p 5 g).put (F.tmPort_sitOk p) true) (sat .armed true g)); s.gn.timeValid = true
      ∧ s.gn.sit 7 = some (wSit .armed) ∧ (s.gn.sitLinks (wSit .armed)).length = 33
      ∧ (s.gn.sitLinks (wSit .armed)).all (fun l => s.gn.linkUp l && s.gn.sitCapable l) = true
      ∧ s.gn.sits.find? (fun y => y.t == (wSit .armed).t && y.snap != []) = none)
    ∧ (let s := onG (sat .frozen true); s.gn.alive = true ∧ s.gn.sit 7 = some (wSit .frozen)
      ∧ (wSit .frozen).t + s.gn.rg F.tmCfg_sitFrzUs * 1000 ≤ s.gn.now ∧ (wSit .frozen).images = [] ∧ ((wSit .frozen).snap == []) = false
      ∧ (wSit .frozen).sent.contains (.port 31) = false ∧ s.gn.markerLink (wSit .frozen) (.port 31) = true
      ∧ (s.gn.port 31).sendQ.any (fun f => decide (extStamp s.gn.now f.stamp < (wSit .frozen).t)) = false ∧ s.gn.portUse 31 = 2 ∧ (wSit .frozen).reported = false
      ∧ (wSit .frozen).lost.contains 31 = false ∧ (wSit .frozen).reports = []) := by decide +kernel

def wRod : Rod := { no := 0, x := { wSum with win := 0 }, cs := [] }

theorem witness_ReductionCommandsComplete :
    (onG (mgr 2)).gn.fromChild 31 = true ∧ (onG (mgr 3)).gn.fromChild 0 = true ∧ (onG (mgr 2)).gn.frozen = false
    ∧ (onG (sat .frozen true)).gn.fromChild 0 = true ∧ (onG (sat .frozen true)).gn.frozen = true
    ∧ (let s := onG (fun g => { mgr 1 g with rd := { (mgr 1 g).rd with rods := [wRod] } }); s.gn.alive = true ∧ s.gn.frozen = false
      ∧ s.gn.rd.rods.find? s.gn.rodReady = some wRod)
    ∧ (let s := onG (fun g => ht (10 ^ 12) { mgr 2 g with rd := { (mgr 2 g).rd with rods := [wRod] } }); s.gn.rd.rods = [wRod]
      ∧ s.gn.rodReady wRod = false ∧ wRod.x.win + wRod.x.span + s.gn.rg F.rdCfg_waitUs * 1000 ≤ s.gn.now)
    ∧ (onG (mgr 2)).gn.alive = true ∧ (onG (mgr 2)).gn.isTray = false ∧ (onG (mgr 2)).gn.rd.queued = [] := by decide +kernel

def wArm (t : Nat) : Arm := { bid := 65535, origin := 1, action := 2, rearm := false, studio := 0, tFire := t, param := 0 }
def wBc (fired : Bool) (own : Nat) : Bc := { a := wArm 100, hdr := none, wait := [(31, 0)], own := own, fired := fired, reports := [], rearmed := [] }
def arm (b : Bc) (t : Nat) (g : Gn) : Gn := ht t { mgr 2 g with rd := { (mgr 2 g).rd with bcs := [b], pend := some (65535, [(3, 5)]) } }

theorem witness_BroadcastCommandsComplete :
    (let s := onG (fun g => (rdy g).put F.tmStat_valid true); let g := s.gn.begun 0x0F h0; s.gn.admits 0x0F ruleS h0 = true ∧ 1 ≤ 3 ∧ 3 < 4 ∧ 15 < 16
      ∧ g.timeValid = true ∧ g.now + g.rg F.rdCfg_armMinUs * 1000 ≤ g.now + 10000000000 ∧ g.now + 10000000000 ≤ g.now + 10000000000
      ∧ (g.rd.bcs.filter (fun b => b.hdr.isSome || b.armed)).length < 8 ∧ g.bc g.node 65535 = none)
    ∧ (let s := onG (fun g => (arm (wBc false 0) 0 g).wr F.rdCfg_node 1); s.gn.admits 0x10 ruleS h0 = true
      ∧ (s.gn.begun 0x10 h0).bc (s.gn.begun 0x10 h0).node 65535 = some (wBc false 0) ∧ (wBc false 0).own ≠ 3)
    ∧ (∀ u ∈ [4, 5], let s := onG (mgr u); let a := wArm 1; s.gn.alive = true ∧ s.gn.fromAbove 31 = true ∧ s.gn.bc a.origin a.bid = none
      ∧ s.gn.now < a.tFire ∧ s.gn.armedCount < 8 ∧ s.gn.acc ≠ 2 ∧ s.gn.rg F.pwState_pstate ≠ 2 ∧ (wArm 0).tFire ≤ s.gn.now)
    ∧ (onG (mgr 2)).gn.fromAbove 31 = false
    ∧ (let s := onG (fun g => (mgr 4 g).onRd (fun d => { d with bcs := [{ wBc true 0 with own := 3 }] })); s.gn.fromAbove 31 = true
      ∧ (s.gn.bc 1 65535).any (fun b => b.own == 3) = true ∧ (s.gn.bc 2 65535).any (fun b => b.own == 3) = false)
    ∧ (let s := onG (arm (wBc true 0) (10 ^ 12)); let b := wBc true 0; s.gn.alive = true ∧ s.gn.bc 1 65535 = some b ∧ (31, 0) ∈ b.wait ∧ 0 + 20000 ≤ s.gn.now
      ∧ b.reports = [] ∧ b.fired = true ∧ b.a.tFire + s.gn.rg F.rdCfg_waitUs * 1000 * (s.gn.rg F.rdCfg_level + 1) ≤ s.gn.now)
    ∧ (onG rdy).gn.flag F.rdCfg_tc2 = false ∧ (onG (fun g => (rdy g).put F.rdCfg_tc2 true)).gn.flag F.rdCfg_tc2 = true := by decide +kernel

theorem witness_MapSwitchFiresOnce :
    (let s := onG (arm (wBc false 0) 100); let b := wBc false 0; s.gn.alive = true ∧ s.gn.bc 1 65535 = some b ∧ b.fired = false ∧ b.own = 0
      ∧ b.a.action = 2 ∧ b.a.tFire ≤ s.gn.now ∧ s.gn.rd.pend = some (65535, [(3, 5)]) ∧ 65535 < 2 ^ 16 ∧ s.gn.isTray = false ∧ b.reports = []
      ∧ s.gn.upChildren ≠ [])
    ∧ (let s := onG (arm (wBc false 0) 99); s.gn.alive = true ∧ s.gn.bc 1 65535 = some (wBc false 0) ∧ s.gn.now < (wBc false 0).a.tFire)
    ∧ (let s := onG (arm (wBc true 0) 100); s.gn.bc 1 65535 = some (wBc true 0) ∧ (wBc true 0).fired = true ∧ s.gn.isTray = false
      ∧ s.gn.upChildren ≠ []) := by decide +kernel

def wRec : RecIn := { ht := 1, code := 0x0702, sev := 4, tq := 0, rep := 0, source := 0, p0 := 0, p1 := 0, p2 := 0, p3 := 0 }
def wItem : RecItem := { r := wRec, studio := 0, rank := 3, var := none }
def wRing : RingRec := { len := 48, code := 0x0702, sev := 4, tq := 0, fx := true, conf := false, seq := 0, ht := 1, studio := 0, body := [] }
def wPage (closed : Bool) : Page := { pidx := 0, pgno := 0, sev := 4, used := 48, closed := closed, recs := [wRing], flashed := 0 }

theorem witness_RecorderCommandsComplete :
    (let s := onG (fun g => { g with ev := { g.ev with outbox := [(20, wItem)] } }); s.gn.arbHeld 131 = false ∧ s.gn.canTake (20, wItem) = true
      ∧ s.gn.ev.outbox = [(20, wItem)] ∧ 20 < 22 ∧ s.gn.ev.outbox.any (fun e => e.1 == 20) = true)
    ∧ State.reset.gn.ev.stopped = false
    ∧ (let s := onG (fun g => { g with ev := { g.ev with chunks := [15] } }); s.gn.alive = true ∧ 15 < 16 ∧ s.gn.ev.chunks = [15])
    ∧ (let s := onG (fun g => { g with ev := { g.ev with pages := [wPage true] } }); s.gn.alive = true ∧ oldestClosed s.gn.flashChunks.ev.pages = some (wPage true))
    ∧ (let s := onG (fun g => ht (10 ^ 15) { g with ev := { g.ev with pages := [wPage false] } }); let p := wPage false; s.gn.alive = true ∧ s.gn.ev.chunks = [] ∧ s.gn.ev.pages = [p]
      ∧ p.closed = false ∧ p.recs[p.flashed]? = some wRing ∧ wRing.ht + s.gn.rg F.evCfg_ageMs * 1000000 < s.gn.now)
    ∧ (let s := onG (fun g => { g with ev := { g.ev with fx := [⟨2047, wRec, true⟩] } });
      s.gn.ev.fx.any (fun x => x.slot == 2047 && x.inFlash) = true ∧ s.gn.ev.fx.any (fun x => x.slot == 0 && x.inFlash) = false) := by decide +kernel

/-! ### Witnesses: the Plovlugo block, the whole machine -/

/-- A tally whose value is v / 1,024. -/
def tOut (v : Int) : Tally := (Tally.empty 0).addInt (v * 2 ^ 141)


/-- Time valid, hall time `t` ns. -/
def at_ (t : Nat) (p : Pl) : Pl := { p with valid := true, tm := { p.tm with fix := t * nsFix } }

theorem witness_BlockRegisterCommandsComplete :
    State.reset.pl.linkOnly 0x100 = false ∧ State.reset.pl.wrote.contains (0x100, true) = false
    ∧ (onP (fun p => { p with wrote := [(0x14, true)] })).pl.wrote.contains (0x14, true) = true ∧ (∀ a ∈ [0x410, 0x900], State.reset.pl.linkOnly a = true)
    ∧ (onP (fun p => { p with par := { p.par with privs := 1 } })).pl.privOff 0xB04 = true ∧ State.reset.pl.privOff 0xB04 = false
    ∧ 63 < State.reset.pl.par.nbank ∧ 63 < 64
    ∧ (let s := onP (fun p => at_ 1999999 { p with ivl := 10000, palArmed := true, palPend := [(63, 1)] }); let p := s.pl.takePalette
      s.pl.valid = true ∧ s.pl.ivl ≠ 0 ∧ p.sampleUsed + (sampleLen (p.selected false).length + sampleLen (p.selected true).length) ≤ 40960) := by
  decide +kernel

theorem witness_LowReadLatchesHighWord : State.reset.pl.cntIdx < State.reset.pl.nctr ∧ State.reset.pl.par.nbank ≤ 64 := by decide +kernel

/-- A command that is no counter increment, at the front of a queue. -/
theorem witness_CountersAddLanesAndNeverClear : let s : State := { State.reset with pending := [.palCommit] };
    (s.pending = .palCommit :: [] ∧ 0 < s.pl.par.nbank ∧ 63 < 64 ∧ s.pl.par.nbank * 64 ≤ 4096) ∧ ∃ t, step s = .next t :=
  ⟨by decide +kernel, _, rfl⟩

def wCore (used : Nat) (lp : Lp) : TrCore := { items := [⟨0xC, 1, 0, false, false, List.replicate used 0, 1⟩], lost := 0, stall := false, lp := lp }

theorem witness_BlockSittingAndTraceComplete :
    (let s := onP (at_ 100); s.pl.valid = true ∧ s.pl.now < 101 ∧ s.pl.sitReqs.any (fun e => e.1 == 7) = false ∧ s.pl.sitReqs.length < 8)
    ∧ (let s := onP (fun p => at_ 100 { p with sitReqs := [(7, 100)], images := [5] });
      (s.pl.sitReqs.filter (fun e => e.2 == 100)).map (·.1) = [7] ∧ 100 ≤ s.pl.now ∧ s.pl.images.length < 2)
    ∧ (let s := onP (fun p => at_ 1000100 { p with frzs := [7], frzSince := 100 }); s.pl.frzs ≠ [] ∧ s.pl.frzSince + s.pl.frzMaxUs * 1000 ≤ s.pl.now)
    ∧ (let s := onP (fun p => at_ 1000099 { p with frzs := [7], frzSince := 100 }); s.pl.frzs ≠ [] ∧ s.pl.now < s.pl.frzSince + s.pl.frzMaxUs * 1000)
    ∧ (let s := onP (fun p => { p with trEn := true, cores := [(63, wCore 247 .on)] }); s.pl.trEn = true ∧ 63 < s.pl.par.ncore ∧ 0xB < 0xC
      ∧ (s.pl.core 63).lost = 0 ∧ (s.pl.core 63).used + 3 ≤ 252 ∧ s.pl.dmaCore = some 63 ∧ (s.pl.core 63).items = (wCore 247 .on).items
      ∧ (s.pl.circPut 63 ((wCore 247 .on).items.headD ⟨0, 0, 0, false, false, [], 0⟩)).isSome = true)
    ∧ (let s := onP (fun p => { p with par := { p.par with trbufLog := 0 }, cores := [(63, wCore 1 .on)], circ := [(0, List.replicate 128 0)] });
      s.pl.dmaCore = some 63 ∧ s.pl.circPut 63 ⟨0xC, 1, 0, false, false, [0], 1⟩ = none)
    ∧ (let s := onP (fun p => at_ 0 { p with written := 1, circ := [(0, [1, 2])] }); s.pl.valid = true ∧ s.pl.stampPend = [] ∧ s.pl.stampEnd < s.pl.written ∧ s.pl.trMode = false ∧ s.pl.circ ≠ [])
    ∧ (let s := onP (fun p => { p with trMode := true, circ := [(0, [1, 2])] }); s.pl.trBytes % 64 = 0 ∧ s.pl.trBytes ≤ s.pl.trBytes ∧ s.pl.trMode = true
      ∧ 64 % 64 = 0 ∧ 64 ≤ s.pl.trBytes ∧ (trimChunks 64 s.pl.circ).1 ≠ []
      ∧ (1 % 64 ≠ 0 ∨ s.pl.trBytes < 1) ∧ s.pl.trBytes < s.pl.trBytes + 64)
    ∧ (let s := State.reset; 63 < s.pl.par.ncore ∧ (s.pl.core 63).items = [] ∧ s.pl.trEn = false ∧ (s.pl.core 63).lp = .on)
    ∧ (onP (fun p => { p with cores := [(63, wCore 1 (.entering 4))] })).pl.core 63 = wCore 1 (.entering 4)
    ∧ (let s := onP (fun p => { p with cores := [(63, wCore 1 .asleep)] }); 63 < s.pl.par.ncore ∧ (s.pl.core 63).lp ≠ .on ∧ s.pl.trEn = false) := by
  decide +kernel

def wId : PxId := { epoch := 0, step := 0, rb := 6, tensor := 0, op := 0, resv := 0 }
def wHeld (r : Rex) : PlExp := { id := wId, seq := 9, attempt := 0, htDone := some 100, deadlineUs := 500, rex := r }

theorem witness_BlockProgressAndProofComplete :
    (let s := State.reset; 255 < s.pl.par.nmon ∧ (s.pl.mon 255).stalled = false ∧ (s.pl.mon 255).report = false ∧ (s.pl.mon 255).pend = false)
    ∧ (let s := onP (fun p => at_ 1100 (p.setMon 255 { p.mon 255 with pend := true, recHt := some 100 })); (s.pl.mon 255).pend = true
      ∧ (s.pl.mon 255).ready s.pl.now = true)
    ∧ (let s := onP (fun p => at_ 1000000000 (p.setMon 255 { p.mon 255 with en := true })); 255 < s.pl.par.nmon ∧ (s.pl.mon 255).en = true
      ∧ (s.pl.mon 255).stalled = false ∧ (s.pl.mon 255).since + (s.pl.mon 255).winMs * 1000000 ≤ s.pl.now)
    ∧ (let e : PlSeed := ⟨0, 0, 3, 500⟩; let s := onP (fun p => at_ 1 { p with seeds := [e] }); s.pl.par.px = true ∧ s.pl.valid = true
      ∧ s.pl.seeds.find? (fun e => e.epoch == wId.epoch) = some e ∧ e.k ≠ 0 ∧ selected e.seed e.k (pxIdent wId) s.pl.par.site = true
      ∧ s.pl.exps.length < 8 ∧ s.pl.rpQ.length < 8)
    ∧ (let s := onP (fun p => { p with exps := [wHeld .outstanding], rexQ := [9] }); s.pl.par.px = true
      ∧ s.pl.exps.find? (fun x => pxSame x.id wId && x.rex == .outstanding) = some (wHeld .outstanding) ∧ s.pl.rexQ = 9 :: [])
    ∧ (let s := onP (fun p => at_ 520100 { p with exps := [wHeld .none], inStream := [9], rpUp := true }); s.pl.inStream = 9 :: []
      ∧ s.pl.exps.find? (fun x => x.seq == 9) = some (wHeld .none) ∧ (wHeld .none).attempt = 0 ∧ (wHeld .none).htDone = some 100
      ∧ 100 + s.pl.deadline (wHeld .none) * 1000 + 20000 ≤ s.pl.now ∧ s.pl.rpUp = true ∧ s.pl.par.px = true ∧ s.pl.exps ≠ []
      ∧ (∀ c < 7, let b := wZeros 16 ++ leBytes 4 9 ++ leBytes 1 c ++ wZeros 11; b.length = 32 ∧ u8 b 20 % 8 ≠ 7
        ∧ s.pl.exps.find? (fun x => x.seq == u32 b 16) = some (wHeld .none)))
    ∧ (wZeros 31).length ≠ 32 ∧ (wZeros 32).length = 32 ∧ State.reset.pl.exps.find? (fun x => x.seq == u32 (wZeros 32) 16) = none := by
  decide +kernel

theorem witness_TallyIndependentOfOrder : (1 : Nat) + 2 ≤ 2 ^ 40 - 1 ∧ [(1, 0, 2, 0), (3, 0, 4, 0)].Perm [(3, 0, 4, 0), (1, 0, 2, 0)] :=
  ⟨by decide, List.Perm.swap _ _ _⟩

/-- A tally of 1.0, whose element at X = 0 is 64, and one of ±2.0, clamped on either side. -/
theorem witness_Int8OutputRoundsAndClamps : (tOut 1024).st = .finite ∧ (tOut 1024).toMxElem 5 0 = (64, 0, 0) ∧ (tOut 2048).toMxElem 5 0 = (127, 1, 0)
    ∧ (tOut (-2048)).toMxElem 5 0 = (0x81, 1, 0) ∧ (tOut 1040).toMxElem 5 0 = (65, 0, 0) ∧ (tOut 1032).toMxElem 5 0 = (64, 0, 0)
    ∧ (tOut 1048).toMxElem 5 0 = (66, 0, 0) := by decide +kernel

theorem witness_StepRunsFront : State.reset.pending = [] := rfl

theorem witness_StepKeepsBlockBounds : State.reset.pl.bounded ∧ step State.reset = .next State.reset :=
  ⟨by unfold Pl.bounded; decide +kernel, rfl⟩

theorem witness_BlockTimeNeverDecreases : let s : State := { State.reset with pending := [.palCommit] };
    s.pending = .palCommit :: [] ∧ ∃ t, step s = .next t := ⟨rfl, _, rfl⟩

/-! ### Numbers that the manual works out -/

/-- Run commands one after another. -/
def steps (l : List Instr) (s : State) : State := l.foldl (fun s c => match exec c s with | .next t => t | _ => s) s

/-- Ch. 02, a negative product below the grid: T and the FP32 output. -/
def tNeg : Tally := ((Tally.empty 6).product 0 7 0x7F 0 7 0x7F).product 0 9 0x0F 0 2 0x4F
theorem test_tally_below_grid : tNeg.t = 0x000000000047FFFFFFFFFFFFFFFFFFFFFFFFFFFFFFFFFFFF#192 ∧ (tNeg.toFp 7).1 = 0x42100000 := by decide +kernel
theorem test_anchor_mx : anchorMx 0 0 [(0x7F, [7]), (0x0F, [9])] [(0x7F, [7]), (0x4F, [2])] = 6 := by decide +kernel

/-- Ch. 02, not the correctly rounded result: T and the BF16 output. -/
def tBf : Tally := (((Tally.empty 2).product 6 0x3F80 0 6 0x3F80 0).product 6 0x3B80 0 6 0x3F80 0).product 6 0x0001 0 6 0x0001 0
theorem test_tally_bf16 : tBf.t = 0x000000000020200000000000000000000000000000000000#192 ∧ (tBf.toFp 6).1 = 0x3F80
    ∧ anchorBf16 [0x3F80, 0x3B80, 1] [0x3F80, 0x3F80, 1] = 2 := by decide +kernel

/-- Ch. 02, an MXFP8 E4M3 output block: 1,000, −3.25, 1.5 and 2^−10. -/
theorem test_mx_block : mxBlock 3 [tOut 1024000, tOut (-3328), tOut 1536, tOut 1, tOut 0] = (0x80, [0x7E, 0xBD, 0x34, 0, 0], 1, 0) := by decide +kernel

/-- exp2(0.5) is the square root of 2, log2(3) is 1.5849625; exp2(−150) is a tie that goes to the even 0 (R53). -/
theorem test_exp2_log2 : fpExp2 0x3F000000 = 0x3FB504F3 ∧ fpExp2 0xC3160000 = 0 ∧ fpLog2 0x40400000 = 0x3FCAE00D ∧ fpLog2 0x3E000000 = 0xC0400000 := by
  decide +kernel

/-- FIPS 197: the S-box of 0x53. -/
theorem test_aes_sub : aesSub 0x53 = 0xED := by decide +kernel

/-- Ch. 05, log2 codes of feature 7. -/
theorem test_quantize_log2 : [0x40400000, 0x40600000, 0x3DCCCCCD, 0x80000000, 0xC0400000, 0xC04CCCCD, 0x42C80000, 0x7FC00000].map
    (quantize 0x05FE0201 (fun _ => 0)) = [0x30, 0x31, 0x21, 0x21, 0x12, 0x11, 0x41, 0xFFFF] := by decide +kernel
theorem test_qrec_ok : qrecOk 0x05FE0201 0 [] = true ∧ qrecOk 0x05FE0221 0 [] = false := by decide +kernel

/-- Ch. 10, bucket indices and the median. -/
theorem test_sketch_buckets : [3, 1000, 1000000, 2 ^ 64 - 1].map sketchBucket = [0x030, 0x13E, 0x27D, 0x7FF] := by decide +kernel
theorem test_sketch_median : ([1000, 3, 1000000, 1000].foldl Sketch.count Sketch.empty).quantile 1 2 = 992 := by decide +kernel

/-- Ch. 04, the task descriptor of task 3. -/
theorem test_task_descriptor : let b := leBytes 8 0x00010100000E0003 ++ leBytes 8 0x0000000800010004 ++ wZeros 48;
    let t := parseTask b [1, 2, 3, 4, 4]; (t.image, t.pri, t.npred, t.cmask, t.succs) = (14, 1, 1, 4, [4]) := by decide +kernel

/-- Ch. 16, the fields of the TA of a tenant's read. -/
theorem test_ta_fields : taOf 0x0350008509100000 = ⟨3, 40961, 5, 0x091, 0, 0⟩ := by decide +kernel

/-- Ch. 08, one refresh of a die site, times in 1/65,536 ns: θ = −0.125 ns reads 0xFFFE and d = 312.375 ns. -/
theorem test_exchange : let e := mkExch 76 500 ⟨65536000000, 65556480000, 65562214400, 65582678016⟩;
    thReg e.th2 = 0xFFFE ∧ e.d2 = 624 * 65536 + 49152 ∧ e.rt = 624 * 65536 + 49152 := by decide +kernel

/-- The check values of CRC-32C, CRC-16 and CRC-8 over "123456789" (R186, R261 and the list of standards name their polynomials), the published
XXH64 of the empty string (R203), and the test vector of SipHash-2-4 (R111). -/
def digits9 : List Byte := [0x31, 0x32, 0x33, 0x34, 0x35, 0x36, 0x37, 0x38, 0x39]
theorem test_crcs : crc32c digits9 = 0xE3069283 ∧ crc16 digits9 = 0x29B1 ∧ crc8 digits9 = 0xF4 := by decide +kernel
theorem test_xxh64 : xxh64 [] = 0xEF46DB3751D8E999 := by decide +kernel
/-- R204, RFC 8878: a frame of one compressed block, ten raw literals and one sequence of predefined tables: twelve times "tally ", then "hall". -/
theorem test_zstd_block : let t : List Byte := [0x74, 0x61, 0x6C, 0x6C, 0x79, 0x20];
    zFrame 76 [0x28, 0xB5, 0x2F, 0xFD, 0x24, 0x4C, 0x85, 0, 0, 0x50, 0x74, 0x61, 0x6C, 0x6C, 0x79, 0x20, 0x68, 0x61, 0x6C, 0x6C, 1, 0, 0x8F, 0x54, 0x8A, 0x87, 0xCA, 0x86, 0x7C]
      = some ((List.replicate 12 t).flatten ++ [0x68, 0x61, 0x6C, 0x6C], []) := by decide +kernel
theorem test_siphash : sipHash24 0x0706050403020100 0x0f0e0d0c0b0a0908 8 [0x0706050403020100] = 0x93f5f5799a932462 := by decide +kernel

/-- Ch. 17, three accesses at bring-up. -/
theorem test_id_part : (steps [.registerRead 0 0 4, .registerRead 0 4 4] State.reset).gn.out = [.rdata 0x02B1474E, .rdata 0x302] := by decide +kernel
theorem test_unmapped_read : (steps [.registerRead 0 0x208 8, .registerRead 0 0x2008 8] State.reset).gn.out = [.rdata 0, .rdata 0x82010001] := by
  decide +kernel
theorem test_operator_read : (steps [.registerRead 7 0x2000 8, .registerRead 0 0x20200 8] State.reset).gn.out
    = [.rdata 0, .rdata 0x0010000200070001] := by decide +kernel
theorem test_narrow_read_aborts : let s := steps [.registerRead 7 0x100 2] State.reset; s.gn.out = [.abort]
    ∧ (s.gn.ev.outbox.map (fun e => (e.2.r.code, e.2.r.source, e.2.r.p0, e.2.r.p1))) = [(0x0001, 7, 0x100, 2)] := by decide +kernel

/-- Ch. 07, a burst, a sleep, a wake: the stored words. -/
def trAt (n : Nat) (s : State) : State := { s with pl := at_ n s.pl }
def trRun : State :=
  let s := trAt 1000000000 (onP (fun p => { p with trEn := true }));
  let s := trAt 1000000012 (steps [.traceWord 5 2 0x1A2B] s);
  let s := trAt 1000001000 (steps [.traceWord 5 2 0x1A2C] s);
  let s := trAt 1000005000 (steps [.traceWord 5 7 0x00FF00000001] s);
  let s := trAt 1000905000 (steps [.lpEntry 5] s);
  steps [.lpExit 5, .traceBurstDma] s
theorem test_trace_words : trRun.pl.circ.flatMap (fun c => c.2) = [0xC050000000000003, 0x000000003B9ACA00, 0x2000000000001A2B,
    0x2003000000001A2C, 0x70F700FF00000001, 0xD050000000000000, 0x000000003B9ADD88, 0xD050000000000001, 0x000000003BA89928] := by decide +kernel

/-- Ch. 15: the identification code. -/
theorem test_idcode : (steps [.idcode] State.reset).gn.out = [.jtag 32 0x1B10A4E3] := by decide +kernel

/-- R12: the high word of a counter is the one latched with its low word, whatever is counted in between. -/
theorem test_counter_latch : (steps [.mpRegisterWrite 0xB00 0 true, .counterIncrement [(0, 7)], .plCntLowRead 0xB04 true, .mpRegisterRead 0xB08 true]
    State.reset).pl.out = [.rdata 7, .rdata 0] := by decide +kernel

/-- R141: a sitting request while time is invalid is refused. -/
theorem test_block_time_invalid_refuses : (steps [.blockSittingRequest 7 100] State.reset).pl.sitReqs = [] := by decide +kernel

/-! ### Ill-formed commands, one for each check -/

theorem test_wf_headers : ([.nop ⟨16, 0, 0, false, false, 0⟩, .nop ⟨0, 4, 0, false, false, 0⟩, .timeSet h0 (2 ^ 64), .seed h0 (2 ^ 32) 0, .read h0 0 256,
    .aggregateRead h0 0 (2 ^ 64) ⟨0, 0⟩, .aggregateRead h0 0 0 ⟨2 ^ 32, 0⟩, .aggregateRead h0 0 0 ⟨0, 256⟩, .sitting h0 256 0, .sitting h0 0 (2 ^ 64), .broadcast h0 65536 1 0 0 0,
    .broadcast h0 0 256 0 0 0, .broadcast h0 0 1 256 0 0, .broadcast h0 0 1 0 (2 ^ 64) 0, .studioKey h0 []] : List Instr).all (fun c => !c.wf) = true := by
  decide +kernel

theorem test_wf_queues : ([.doorbellPoll 16 [0, 0, 0, 0] [0, 0, 0, 0] [], .doorbellPoll 0 [0] [0, 0, 0, 0] [], .doorbellPoll 0 [0, 0, 0, 0] [0] [],
    .doorbellPoll 0 [0, 0, 0, 0] [0, 0, 0, 0] [{ sq := 4, op := 0, tag := 0, fence := false, resv := false, addr := 0, body := wZeros 48 }], .nudge 16, .functionLevelReset 16,
    .ringDisable 0 false 4, .holdbackDrain 16 0, .cqOvfWarning 0 4, .irqModerationTimer 16 0] : List Instr).all (fun c => !c.wf) = true := by decide +kernel

theorem test_wf_module : ([.warmReset 16 0, .coldReset 0 65536, .clusterReset 0 16, .clusterReset 16 0, .linkPortReset 0 38, .linkPortReset 16 0,
    .dumpRequest 16, .gnMonitorStall 32, .monitorConfigWrite 32 0, .dumpAck 2, .selfTestDue 256, .linkTrainStart 38, .linkStartDone (.port 38),
    .linkStartDone (.site 112), .gateCommit 2, .keepaliveFrame 112 none, .arbFreeze 132, .islandStop 16, .winCfgWrite 8 0, .taskComplete 64 0 0,
    .pipelineCycle 0 0 0 16 [], .pipelineCycle 64 0 0 0 [], .scrubCycle 16 [], .recordSubmit (.producer 22), .linkLoss (.port 38) none, .frameReceive (.port 38) [], .linkTrainDone ⟨38, .full⟩, .fxack 2048, .dpOpen 256 (wZeros 96), .dpOpen 0 [],
    .registerRead 16 0 4, .registerRead 0 0 1024] : List Instr).all (fun c => !c.wf) = true := by decide +kernel

theorem test_wf_block : ([.mpRegisterRead 65536 true, .regWriteFrame 0 [], .regReadFrame 0 0 0, .traceWord 64 0 0, .progressPulse 256] : List Instr).all
    (fun c => !c.wf) = true := by decide +kernel

theorem test_wf_good : ([.nop h0, .studioKey h0 (wZeros 137), .fxack 2047, .linkStartDone (.site 111), .traceWord 63 0 0] : List Instr).all Instr.wf = true := by
  decide +kernel

/-- R351's worked example of a tenant's live read: the completion entry's four words (16_host_queues.md). -/
theorem test_read_entry : (⟨0x107, 0x0C, true, 0, false, 1, 0x065DD084F6A0, [100000, 0, 0]⟩ : Cqe).bytes
    = leBytes 8 0x0001008C00000107 ++ leBytes 8 0x0000065DD084F6A0 ++ leBytes 8 0x186A0 ++ leBytes 8 0 := by decide +kernel

/-- The table's rows have no bits, so no word spells a command. -/
theorem test_no_word : decodeTableWord 32 0 = none ∧ State.reset.withFetchWord 32 0 = State.reset := ⟨rfl, rfl⟩

end Sys2Proof.Tests
end

section
/-! Tally arithmetic (R34, R36): what a product adds to a tally does not depend on what the tally holds, so a sum of products is a sum of terms under
a commutative and associative join. -/

namespace Sys2Proof.Machine

/-! ### The table of special states -/

@[simp] theorem Sp.finite_combine (a : Sp) : Sp.combine .finite a = a := by cases a <;> rfl
@[simp] theorem Sp.combine_finite (a : Sp) : a.combine .finite = a := by cases a <;> rfl
@[simp] theorem Sp.nan_combine (a : Sp) : Sp.combine .nan a = .nan := by cases a <;> rfl
@[simp] theorem Sp.combine_nan (a : Sp) : a.combine .nan = .nan := by cases a <;> rfl

theorem Sp.combine_comm (a b : Sp) : a.combine b = b.combine a := by cases a <;> cases b <;> rfl

theorem Sp.combine_assoc (a b c : Sp) : (a.combine b).combine c = a.combine (b.combine c) := by
  cases a <;> cases b <;> cases c <;> rfl

/-! ### What one product adds -/

/-- The special state one product brings to its tally: NaN under a NaN scale, else the product's own (R27). -/
def productSp (fa ca sa fb cb sb : Nat) : Sp :=
  if ((isMx fa && sa == 0xFF) || (isMx fb && sb == 0xFF)) = true then .nan
  else productState (decodeElem fa ca).1 (decodeElem fa ca).2.1 (decodeElem fb cb).1 (decodeElem fb cb).2.1

/-- The sum of the two scale exponents of a product; a format that is not MX has none (R33). -/
def productScale (fa sa fb sb : Nat) : Int :=
  (if isMx fa = true then (sa : Int) - 127 else 0) + (if isMx fb = true then (sb : Int) - 127 else 0)

/-- The integer one product adds to T on the grid of anchor g: its placed value, and 0 for a product that is not finite or is zero (R33, R34). -/
def productPlaced (fa ca sa fb cb sb : Nat) (g : Int) : BitVec 192 :=
  let ea := decodeElem fa ca
  let eb := decodeElem fb cb
  if productSp fa ca sa fb cb sb = .finite ∧ ea.2.1 ≠ 0 ∧ eb.2.1 ≠ 0
  then BitVec.ofInt 192 (place (ea.2.1 * eb.2.1) (ea.2.2 + eb.2.2 + productScale fa sa fb sb) g) else 0

theorem Tally.product_eq (y : Tally) (fa ca sa fb cb sb : Nat) :
    y.product fa ca sa fb cb sb
      = ⟨y.t + productPlaced fa ca sa fb cb sb y.g, y.g, y.st.combine (productSp fa ca sa fb cb sb), y.cnt + 1⟩ := by
  unfold Tally.product productPlaced productSp productScale
  obtain ⟨ta, pa, qa⟩ := decodeElem fa ca
  obtain ⟨tb, pb, qb⟩ := decodeElem fb cb
  by_cases hbad : ((isMx fa && sa == 0xFF) || (isMx fb && sb == 0xFF)) = true
  · simp only [hbad, ↓reduceIte, reduceCtorEq, false_and, BitVec.ofNat_eq_ofNat, BitVec.add_zero]
  simp only [if_neg hbad]
  by_cases hst : productState ta pa tb pb = .finite
  · by_cases hz : pa = 0 ∨ pb = 0
    · have hnz : ¬ (pa ≠ 0 ∧ pb ≠ 0) := fun h => hz.elim h.1 h.2
      simp only [hst, if_pos hz, hnz, ne_eq, not_true_eq_false, and_false, ↓reduceIte, BitVec.ofNat_eq_ofNat, BitVec.add_zero, Sp.combine_finite]
    · have hnz : productState ta pa tb pb = .finite ∧ pa ≠ 0 ∧ pb ≠ 0 := ⟨hst, not_or.mp hz⟩
      rw [if_neg (not_not_intro hst), if_neg hz, if_pos hnz, hst, Sp.combine_finite, Int.add_assoc]
      rfl
  · simp only [hst, ne_eq, not_false_eq_true, false_and, ↓reduceIte, BitVec.ofNat_eq_ofNat, BitVec.add_zero]

@[simp] theorem Tally.product_g (y : Tally) (fa ca sa fb cb sb : Nat) : (y.product fa ca sa fb cb sb).g = y.g := by
  rw [Tally.product_eq]

@[simp] theorem Tally.product_cnt (y : Tally) (fa ca sa fb cb sb : Nat) : (y.product fa ca sa fb cb sb).cnt = y.cnt + 1 := by
  rw [Tally.product_eq]

/-! ### The join of two partials -/

/-- R36's merge of two partials on the grid of the first, without its two refusals. -/
def Tally.join (a b : Tally) : Tally := ⟨a.t + b.t, a.g, a.st.combine b.st, a.cnt + b.cnt⟩

theorem Tally.merge_eq_some_join {a b : Tally} (hg : a.g = b.g) (hcnt : a.cnt + b.cnt ≤ 2 ^ 40 - 1) : a.merge b = some (a.join b) :=
  if_neg (by omega)

@[simp] theorem Tally.join_g (a b : Tally) : (a.join b).g = a.g := rfl

@[simp] theorem Tally.join_empty (a : Tally) (g : Int) : a.join (Tally.empty g) = a := by
  simp only [Tally.join, Tally.empty, BitVec.ofNat_eq_ofNat, BitVec.add_zero, Sp.combine_finite, Nat.add_zero]

theorem Tally.join_assoc (a b c : Tally) : (a.join b).join c = a.join (b.join c) := by
  simp only [Tally.join, Sp.combine_assoc, BitVec.add_assoc, Nat.add_assoc]

theorem Tally.join_right_comm (a b c : Tally) : (a.join b).join c = (a.join c).join b := by
  rw [Tally.join_assoc, Tally.join_assoc]
  simp only [Tally.join, Sp.combine_comm b.st, BitVec.add_comm b.t, Nat.add_comm b.cnt]

/-- A product joins to its tally the term it makes alone on an empty tally of the same anchor. -/
theorem Tally.product_eq_join (y : Tally) (fa ca sa fb cb sb : Nat) :
    y.product fa ca sa fb cb sb = y.join ((Tally.empty y.g).product fa ca sa fb cb sb) := by
  simp only [Tally.product_eq, Tally.join, Tally.empty, BitVec.ofNat_eq_ofNat, BitVec.zero_add, Sp.finite_combine, Nat.zero_add]

/-- Two products may be added in either order. -/
theorem Tally.product_right_comm (y : Tally) (fa fb ca sa cb sb ca' sa' cb' sb' : Nat) :
    (y.product fa ca sa fb cb sb).product fa ca' sa' fb cb' sb' = (y.product fa ca' sa' fb cb' sb').product fa ca sa fb cb sb := by
  rw [Tally.product_eq_join (y.product _ _ _ _ _ _), Tally.product_eq_join y, Tally.join_g, Tally.join_right_comm,
    Tally.product_eq_join (y.product _ _ _ _ _ _), Tally.product_eq_join y, Tally.join_g]

/-! ### Sums of products -/

/-- The tally y after the products of a list, each given as (code of A, scale of A, code of B, scale of B). -/
def Tally.products (fa fb : Nat) (y : Tally) (l : List (Nat × Nat × Nat × Nat)) : Tally :=
  l.foldl (fun y e => y.product fa e.1 e.2.1 fb e.2.2.1 e.2.2.2) y

@[simp] theorem Tally.products_cons (fa fb : Nat) (y : Tally) (e : Nat × Nat × Nat × Nat) (l : List (Nat × Nat × Nat × Nat)) :
    y.products fa fb (e :: l) = (y.product fa e.1 e.2.1 fb e.2.2.1 e.2.2.2).products fa fb l := rfl

theorem Tally.products_append (fa fb : Nat) (y : Tally) (l m : List (Nat × Nat × Nat × Nat)) :
    y.products fa fb (l ++ m) = (y.products fa fb l).products fa fb m :=
  List.foldl_append

@[simp] theorem Tally.products_g (fa fb : Nat) (y : Tally) (l : List (Nat × Nat × Nat × Nat)) : (y.products fa fb l).g = y.g := by
  induction l generalizing y with
  | nil => rfl
  | cons e l ih => rw [Tally.products_cons, ih, Tally.product_g]

@[simp] theorem Tally.products_cnt (fa fb : Nat) (y : Tally) (l : List (Nat × Nat × Nat × Nat)) :
    (y.products fa fb l).cnt = y.cnt + l.length := by
  induction l generalizing y with
  | nil => rfl
  | cons e l ih => rw [Tally.products_cons, ih, Tally.product_cnt, List.length_cons, Nat.add_assoc, Nat.add_comm 1]

theorem Tally.products_perm (fa fb : Nat) (y : Tally) {l m : List (Nat × Nat × Nat × Nat)} (h : l.Perm m) :
    y.products fa fb l = y.products fa fb m :=
  h.foldl_eq' (fun d _ e _ z => Tally.product_right_comm z fa fb d.1 d.2.1 d.2.2.1 d.2.2.2 e.1 e.2.1 e.2.2.1 e.2.2.2) y

/-- Adding products to the second of two partials of one anchor adds them to their join. -/
theorem Tally.join_products (fa fb : Nat) {y z : Tally} (hg : y.g = z.g) (l : List (Nat × Nat × Nat × Nat)) :
    (y.join z).products fa fb l = y.join (z.products fa fb l) := by
  induction l generalizing z with
  | nil => rfl
  | cons e l ih =>
    have hstep : (y.join z).product fa e.1 e.2.1 fb e.2.2.1 e.2.2.2 = y.join (z.product fa e.1 e.2.1 fb e.2.2.1 e.2.2.2) := by
      rw [Tally.product_eq_join, Tally.product_eq_join z, Tally.join_g, hg, Tally.join_assoc]
    rw [Tally.products_cons, Tally.products_cons, hstep, ih (hg.trans (Tally.product_g z _ _ _ _ _ _).symm)]

/-- Any split of K: the merge of the partials of the two parts is the tally of the whole. -/
theorem Tally.merge_products (fa fb : Nat) (g : Int) (l m : List (Nat × Nat × Nat × Nat)) (hcnt : l.length + m.length ≤ 2 ^ 40 - 1) :
    ((Tally.empty g).products fa fb l).merge ((Tally.empty g).products fa fb m) = some ((Tally.empty g).products fa fb (l ++ m)) := by
  have hlen : ((Tally.empty g).products fa fb l).cnt + ((Tally.empty g).products fa fb m).cnt ≤ 2 ^ 40 - 1 := by
    rw [Tally.products_cnt, Tally.products_cnt]
    simpa only [Tally.empty, Nat.zero_add] using hcnt
  have hg : ((Tally.empty g).products fa fb l).g = (Tally.empty g).g := Tally.products_g ..
  rw [Tally.merge_eq_some_join (hg.trans (Tally.products_g ..).symm) hlen, ← Tally.join_products fa fb hg, Tally.join_empty, Tally.products_append]

end Sys2Proof.Machine

open Sys2Proof Sys2Proof.Machine

/-- Settles O55: by the table's laws, the one equation of a product, and the right-commutative, associative join its sums are made of. -/
theorem tallyIndependentOfOrder : Obligations.TallyIndependentOfOrder := by
  unfold Obligations.TallyIndependentOfOrder
  refine ⟨⟨rfl, rfl, rfl, rfl, rfl, fun a => ⟨Sp.finite_combine a, Sp.combine_finite a, Sp.nan_combine a, Sp.combine_nan a⟩⟩,
    fun a b c => ⟨Sp.combine_comm a b, Sp.combine_assoc a b c⟩, fun g => ⟨rfl, rfl, rfl, rfl⟩, ?_, ?_⟩
  · intro fa fb y ca sa cb sb
    refine ⟨?_, ?_, ?_, ?_⟩ <;> rw [Tally.product_eq] <;> rfl
  · exact fun fa fb g l m => ⟨Tally.products_perm fa fb _, Tally.merge_products fa fb g l m⟩

end

section
/-! MXINT8 outputs (R40): the rounded integer of a finite tally, its clamp, and the scale clamp of its block. -/

namespace Sys2Proof.Machine

/-! ### Rounding to nearest, ties to even -/

/-- The integer r is nearest to i / d; where two are equally near, r is the even one. -/
def NearestEven (i d r : Int) : Prop :=
  2 * (i - r * d) ≤ d ∧ -d ≤ 2 * (i - r * d) ∧ (2 * (i - r * d) = d ∨ 2 * (i - r * d) = -d → r % 2 = 0)

theorem NearestEven.neg {i d r : Int} (h : NearestEven i d r) : NearestEven (-i) d (-r) := by
  obtain ⟨hle, hge, htie⟩ := h
  have hrest : 2 * (-i - -r * d) = -(2 * (i - r * d)) := by
    rw [Int.neg_mul]
    omega
  unfold NearestEven
  rw [hrest]
  omega

theorem nearestEven_rneShift (m k : Nat) : NearestEven m (2 ^ k) (rneShift m k) := by
  have hd : 0 < 2 ^ k := Nat.two_pow_pos k
  have hdiv : 2 ^ k * (m / 2 ^ k) + m % 2 ^ k = m := Nat.div_add_mod m (2 ^ k)
  have hlt : m % 2 ^ k < 2 ^ k := Nat.mod_lt m hd
  have hround : rneShift m k = if k = 0 then m
      else if 2 ^ k < 2 * (m % 2 ^ k) ∨ (2 * (m % 2 ^ k) = 2 ^ k ∧ m / 2 ^ k % 2 = 1) then m / 2 ^ k + 1 else m / 2 ^ k := by
    rw [← Nat.shiftRight_eq_div_pow]
    rfl
  rw [hround]
  unfold NearestEven
  split
  · subst k
    rw [Int.pow_zero]
    omega
  · generalize m / 2 ^ k = q at *
    generalize m % 2 ^ k = r at *
    have hm : (m : Int) = q * 2 ^ k + r := by
      rw [← hdiv, Int.natCast_add, Int.natCast_mul, Int.natCast_pow, Int.mul_comm]
      rfl
    have hdown : (m : Int) - q * 2 ^ k = r := by omega
    have hup : (m : Int) - (q + 1 : Nat) * 2 ^ k = r - 2 ^ k := by
      rw [Int.natCast_add, Int.add_mul]
      omega
    have hcast : ((2 ^ k : Nat) : Int) = 2 ^ k := Int.natCast_pow 2 k
    split
    · rw [hup]; omega
    · rw [hdown]; omega

/-! ### The element of a finite tally -/

/-- The magnitude of R40's rounded integer. -/
def Tally.int8Mag (y : Tally) (x : Int) : Nat :=
  let e := y.g - 151 + 6 - x
  if 0 ≤ e then y.t.toInt.natAbs <<< e.toNat else rneShift y.t.toInt.natAbs (-e).toNat

/-- R40's rounded integer before the clamp: value × 2^(6 − X), to nearest even. -/
def Tally.int8Round (y : Tally) (x : Int) : Int := if y.t.toInt < 0 then -(y.int8Mag x : Int) else y.int8Mag x

theorem Tally.int8Round_of_nonneg (y : Tally) {x : Int} (he : 0 ≤ y.g - 151 + 6 - x) :
    y.int8Round x = y.t.toInt * 2 ^ (y.g - 151 + 6 - x).toNat := by
  have hmag : (y.int8Mag x : Int) = y.t.toInt.natAbs * 2 ^ (y.g - 151 + 6 - x).toNat := by
    rw [Tally.int8Mag, if_pos he, Nat.shiftLeft_eq, Int.natCast_mul, Int.natCast_pow]
    rfl
  rw [Tally.int8Round, hmag]
  split
  · rw [Int.ofNat_natAbs_of_nonpos (by omega), Int.neg_mul, Int.neg_neg]
  · rw [Int.natAbs_of_nonneg (by omega)]

theorem Tally.nearestEven_int8Round (y : Tally) {x : Int} (he : y.g - 151 + 6 - x < 0) :
    NearestEven y.t.toInt (2 ^ (-(y.g - 151 + 6 - x)).toNat) (y.int8Round x) := by
  have hmag : NearestEven y.t.toInt.natAbs (2 ^ (-(y.g - 151 + 6 - x)).toNat) (y.int8Mag x) := by
    rw [Tally.int8Mag, if_neg (Int.not_le.mpr he)]
    exact nearestEven_rneShift _ _
  unfold Tally.int8Round
  split
  · have hneg := hmag.neg
    rwa [Int.ofNat_natAbs_of_nonpos (by omega), Int.neg_neg] at hneg
  · rwa [Int.natAbs_of_nonneg (by omega)] at hmag

/-- The MXINT8 element of a finite tally: the rounded integer clamped to ±127, in two's complement, counted when the clamp changed it. -/
theorem Tally.toMxElem_int8 {y : Tally} (x : Int) (hst : y.st = .finite) :
    y.toMxElem 5 x = ((max (-127) (min 127 (y.int8Round x)) % 256).toNat, if 127 < y.int8Round x ∨ y.int8Round x < -127 then 1 else 0, 0) := by
  have hmodel : y.toMxElem 5 x = if 127 < y.int8Mag x then (if decide (y.t.toInt < 0) = true then 0x81 else 0x7F, 1, 0)
      else (if decide (y.t.toInt < 0) = true then (256 - y.int8Mag x) % 256 else y.int8Mag x, 0, 0) := by
    rw [Tally.toMxElem, hst]
    rfl
  rw [hmodel]
  unfold Tally.int8Round
  generalize y.int8Mag x = r
  by_cases hclamp : 127 < r
  · rw [if_pos hclamp]
    by_cases hneg : y.t.toInt < 0
    · have hlow : max (-127) (min 127 (-(r : Int))) = -127 := by omega
      rw [if_pos (decide_eq_true hneg), if_pos hneg, hlow, if_pos (by omega)]
      rfl
    · have hhigh : max (-127) (min 127 (r : Int)) = 127 := by omega
      rw [if_neg (mt of_decide_eq_true hneg), if_neg hneg, hhigh, if_pos (by omega)]
      rfl
  · rw [if_neg hclamp]
    by_cases hneg : y.t.toInt < 0
    · have hcode : (256 - r) % 256 = (max (-127) (min 127 (-(r : Int))) % 256).toNat := by omega
      rw [if_pos (decide_eq_true hneg), if_pos hneg, hcode, if_neg (by omega)]
    · have hcode : r = (max (-127) (min 127 (r : Int)) % 256).toNat := by omega
      rw [if_neg (mt of_decide_eq_true hneg), if_neg hneg, ← hcode, if_neg (by omega)]

theorem Tally.toMxElem_int8_ne_0x80 (y : Tally) (x : Int) : (y.toMxElem 5 x).1 ≠ 0x80 := by
  cases hst : y.st with
  | finite =>
    rw [Tally.toMxElem_int8 x hst]
    show (max (-127) (min 127 (y.int8Round x)) % 256).toNat ≠ 0x80
    omega
  | pinf => simp only [Tally.toMxElem, hst]; decide
  | ninf => simp only [Tally.toMxElem, hst]; decide
  | nan => simp only [Tally.toMxElem, hst]; decide

/-! ### The scale clamp of a block -/

/-- The running maximum of R39 step 1: the greater of the exponent so far and the tally's own; a tally with no exponent leaves it. -/
def maxFloorLog2 (acc : Option Int) (y : Tally) : Option Int := y.floorLog2.elim acc (maxOpt acc)

theorem lt_maxOpt (acc : Option Int) (e c : Int) : (∃ m, maxOpt acc e = some m ∧ c < m) ↔ (∃ m, acc = some m ∧ c < m) ∨ c < e := by
  cases acc with
  | none => simp only [maxOpt, Option.some.injEq, exists_eq_left', reduceCtorEq, false_and, exists_const, false_or]
  | some a =>
    simp only [maxOpt, Option.some.injEq, exists_eq_left']
    omega

/-- The maximum exponent of a block exceeds a bound when some tally's does. -/
theorem lt_foldl_maxFloorLog2 (ys : List Tally) (acc : Option Int) (c : Int) :
    (∃ m, ys.foldl maxFloorLog2 acc = some m ∧ c < m) ↔ (∃ m, acc = some m ∧ c < m) ∨ ∃ y ∈ ys, ∃ k, y.floorLog2 = some k ∧ c < k := by
  induction ys generalizing acc with
  | nil => simp only [List.foldl_nil, List.not_mem_nil, false_and, exists_false, or_false]
  | cons y ys ih =>
    rw [List.foldl_cons, ih]
    cases hy : y.floorLog2 with
    | none =>
      simp only [maxFloorLog2, hy, Option.elim_none, List.mem_cons, exists_eq_or_imp, reduceCtorEq, false_and, exists_const, false_or]
    | some e =>
      simp only [maxFloorLog2, hy, Option.elim_some, lt_maxOpt, or_assoc, List.mem_cons, exists_eq_or_imp, Option.some.injEq, exists_eq_left']

theorem mxScale_eq (f : Nat) (ys : List Tally) :
    mxScale f ys = (ys.foldl maxFloorLog2 none).map (fun m => (max (-127) (min 127 (m - fmtEmax f)), decide (127 < m - fmtEmax f))) := by
  have hfold : ∀ step : Option Int → Tally → Option Int, (∀ acc y, step acc y = maxFloorLog2 acc y) →
      ys.foldl step none = ys.foldl maxFloorLog2 none :=
    fun step h => by rw [show step = maxFloorLog2 from funext fun acc => funext (h acc)]
  unfold mxScale
  rw [hfold]
  · cases ys.foldl maxFloorLog2 none <;> rfl
  · intro acc y
    unfold maxFloorLog2
    cases y.floorLog2 <;> rfl

/-- The exponent X by which the elements of a block are divided: that of R39 step 2, and 0 for a block with no finite non-zero output. -/
def mxBlockExp (f : Nat) (ys : List Tally) : Int := ((mxScale f ys).map Prod.fst).getD 0

theorem mxBlockExp_ge (f : Nat) (ys : List Tally) : -127 ≤ mxBlockExp f ys := by
  rw [mxBlockExp, mxScale_eq]
  cases ys.foldl maxFloorLog2 none with
  | none =>
    show (-127 : Int) ≤ 0
    decide
  | some m =>
    show -127 ≤ max (-127) (min 127 (m - fmtEmax f))
    omega

/-- The scale byte of a block gives back the exponent of its elements. -/
theorem mxBlock_scale_sub (f : Nat) (ys : List Tally) : ((mxBlock f ys).1 : Int) - 127 = mxBlockExp f ys := by
  have hbyte : (mxBlock f ys).1 = (mxBlockExp f ys + 127).toNat := by
    unfold mxBlock mxBlockExp
    cases mxScale f ys <;> rfl
  have hge := mxBlockExp_ge f ys
  omega

/-- The clamp count of a block: 1 for its scale when that was clamped at 127, and its elements' counts. -/
theorem mxBlock_satClamp (f : Nat) (ys : List Tally) :
    (mxBlock f ys).2.2.1
      = (if (mxScale f ys).any Prod.snd = true then 1 else 0) + (ys.map (fun y => (y.toMxElem f (mxBlockExp f ys)).2.1)).sum := by
  unfold mxBlock mxBlockExp
  simp only [List.map_map, Function.comp_def]
  match mxScale f ys with
  | none => rfl
  | some (x, true) => rfl
  | some (x, false) => rfl

/-- The scale of an MXINT8 block is clamped at 127 when some output's exponent is above it: emax is 0. -/
theorem mxScale_int8_clamped_iff (ys : List Tally) :
    (mxScale 5 ys).any Prod.snd = true ↔ ∃ y ∈ ys, ∃ k, y.floorLog2 = some k ∧ 127 < k := by
  have hlt := lt_foldl_maxFloorLog2 ys none 127
  simpa only [mxScale_eq, fmtEmax, Int.sub_zero, Option.any_map, Option.any_eq_true, decide_eq_true_eq, reduceCtorEq, false_and,
    exists_const, false_or] using hlt

end Sys2Proof.Machine

open Sys2Proof Sys2Proof.Machine

/-- Settles O56: the element of a finite tally is the clamp of its rounded integer, and a block's exponent exceeds 127 when some tally's does. -/
theorem int8OutputRoundsAndClamps : Obligations.Int8OutputRoundsAndClamps := by
  unfold Obligations.Int8OutputRoundsAndClamps
  refine ⟨fun y x hst => ⟨y.int8Round x, y.int8Round_of_nonneg, y.nearestEven_int8Round, ?_⟩, Tally.toMxElem_int8_ne_0x80, by decide, fun ys => ?_⟩
  · rw [Tally.toMxElem_int8 x hst]
    exact ⟨Int.toNat_of_nonneg (Int.emod_nonneg _ (by decide)), rfl, rfl⟩
  · simp only [mxBlock_scale_sub, mxBlock_satClamp, mxScale_int8_clamped_iff]

end

section
/-! The counters of the block (R137): what the lanes of a cycle add, and that no other operation of the block touches them but its reset (R134). -/

namespace Sys2Proof.Machine

/-! ### The lanes of one cycle -/

/-- The lanes of one cycle, as (counter, value). -/
def Pl.addLanes (p : Pl) (lanes : List (Nat × Nat)) : Pl := forEach lanes (fun e p => p.addLane e.1 e.2) p

/-- What the lanes of one cycle add to counter k, each taken as 8 bits. -/
def laneSum (lanes : List (Nat × Nat)) (k : Nat) : Nat := ((lanes.filter (fun e => e.1 == k)).map (fun e => e.2 % 256)).sum

theorem laneSum_cons (e : Nat × Nat) (lanes : List (Nat × Nat)) (k : Nat) :
    laneSum (e :: lanes) k = (if e.1 = k then e.2 % 256 else 0) + laneSum lanes k := by
  unfold laneSum
  simp only [List.filter_cons, beq_iff_eq]
  split
  · rw [List.map_cons, List.sum_cons]
  · rw [Nat.zero_add]

@[simp] theorem Pl.addLane_par (p : Pl) (i v : Nat) : (p.addLane i v).par = p.par := by
  rw [Pl.addLane_cnt]

/-- Lanes change the counters only. -/
theorem Pl.addLanes_cnt (p : Pl) (lanes : List (Nat × Nat)) : p.addLanes lanes = { p with cnt := (p.addLanes lanes).cnt } := by
  refine forEach_keeps (fun q : Pl => q = { p with cnt := q.cnt }) lanes _ (fun e q hq => ?_) p rfl
  rw [hq, Pl.addLane_cnt]

theorem Pl.addLanes_ctr_of_lt (lanes : List (Nat × Nat)) {k : Nat} {p : Pl} (hk : k < p.nctr) :
    (p.addLanes lanes).ctr k = p.ctr k + BitVec.ofNat 64 (laneSum lanes k) := by
  induction lanes generalizing p with
  | nil => exact (BitVec.add_zero _).symm
  | cons e lanes ih =>
    have hnctr : (p.addLane e.1 e.2).nctr = p.nctr := by rw [Pl.nctr, Pl.addLane_par, Pl.nctr]
    have htail : (p.addLanes (e :: lanes)).ctr k = (p.addLane e.1 e.2).ctr k + BitVec.ofNat 64 (laneSum lanes k) := ih (hnctr ▸ hk)
    rw [htail, Pl.addLane_ctr, laneSum_cons, BitVec.ofNat_add]
    by_cases he : e.1 = k
    · rw [if_pos ⟨he ▸ hk, he.symm⟩, if_pos he, he, BitVec.add_assoc]
    · rw [if_neg (fun h => he h.2.symm), if_neg he, BitVec.zero_add]

theorem Pl.addLanes_ctr_of_le (lanes : List (Nat × Nat)) {k : Nat} {p : Pl} (hk : p.nctr ≤ k) : (p.addLanes lanes).ctr k = p.ctr k := by
  refine (forEach_keeps (fun q : Pl => q.par = p.par ∧ q.ctr k = p.ctr k) lanes _ (fun e q hq => ?_) p ⟨rfl, rfl⟩).2
  obtain ⟨hpar, hctr⟩ := hq
  have hout : q.nctr ≤ k := by rwa [Pl.nctr, hpar]
  exact ⟨(q.addLane_par _ _).trans hpar, by rw [Pl.addLane_ctr, if_neg (by omega), hctr]⟩

/-- No pin follows the counters. -/
theorem Pl.showPins_addLanes (p : Pl) (lanes : List (Nat × Nat)) : p.showPins (p.addLanes lanes) = p.addLanes lanes := by
  rw [Pl.addLanes_cnt]
  exact Pl.showPins_eq _ _ rfl rfl rfl rfl

theorem exec_counterIncrement (s : State) (lanes : List (Nat × Nat)) :
    exec (.counterIncrement lanes) s = .next { s with pl := s.pl.addLanes lanes } := by
  rw [← Pl.showPins_addLanes]
  rfl

/-! ### Loops, records and the message port -/

theorem forEach_cnt {ι : Type} (l : List ι) {f : ι → Pl → Pl} (hf : ∀ i p, (f i p).cnt = p.cnt) (p : Pl) : (forEach l f p).cnt = p.cnt :=
  forEach_keeps (fun q => q.cnt = p.cnt) l f (fun i q hq => (hf i q).trans hq) p rfl

@[simp] theorem Pl.itemSent_cnt (p : Pl) (it : PlItem) : (p.itemSent it).cnt = p.cnt := by
  simp only [Pl.itemSent, apply_ite Pl.cnt, ite_self]

@[simp] theorem Pl.sendFrame_cnt (p : Pl) (it : PlItem) : (p.sendFrame it).cnt = p.cnt := by
  simp only [Pl.sendFrame, apply_ite Pl.cnt, ite_self, Pl.itemSent_cnt]

@[simp] theorem Pl.grant_cnt (p : Pl) : p.grant.cnt = p.cnt := by
  fun_cases Pl.grant p
  · rfl
  · rfl
  · rfl
  · exact Pl.sendFrame_cnt ..

@[simp] theorem Pl.keepaliveTimer_cnt (p : Pl) : p.keepaliveTimer.cnt = p.cnt := by
  simp only [Pl.keepaliveTimer, apply_ite Pl.cnt, ite_self, Pl.queue_cnt]

@[simp] theorem Pl.storeRec_cnt (p : Pl) (r : RecIn) : (p.storeRec r).cnt = p.cnt := by
  rcases Pl.storeRec_cases p r with ⟨-, h⟩ | h | ⟨old, q, -, h⟩ <;> rw [h] <;> rfl

@[simp] theorem Pl.record_cnt (p : Pl) (code sev source p0 p1 p2 p3 : Nat) : (p.record code sev source p0 p1 p2 p3).cnt = p.cnt :=
  Pl.storeRec_cnt ..

@[simp] theorem Pl.flushRec_cnt (p : Pl) (e : RecIn) : (p.flushRec e).cnt = p.cnt := Pl.storeRec_cnt ..

@[simp] theorem Pl.coalesce_cnt (p : Pl) (r : RecIn) : (p.coalesce r).cnt = p.cnt := by
  unfold Pl.coalesce
  split
  · simp only [apply_ite Pl.cnt, ite_self, Pl.flushRec_cnt]
  · split
    · rfl
    · split
      · rfl
      · exact Pl.flushRec_cnt ..

@[simp] theorem Pl.hostRecord_cnt (p : Pl) (r : RecIn) : (p.hostRecord r).cnt = p.cnt := by
  simp only [Pl.hostRecord, apply_ite Pl.cnt, ite_self, Pl.coalesce_cnt, Pl.storeRec_cnt]

@[simp] theorem Pl.coalesceDue_cnt (p : Pl) : p.coalesceDue.cnt = p.cnt := forEach_cnt _ (fun e p => Pl.flushRec_cnt p e) p

@[simp] theorem Pl.reset_cnt (p : Pl) : p.reset.cnt = [] := (rfl)

@[simp] theorem Pl.badFrame_cnt (p : Pl) : p.badFrame.cnt = p.cnt := (rfl)

@[simp] theorem Pl.unknownVerdict_cnt (p : Pl) : p.unknownVerdict.cnt = p.cnt := (rfl)

@[simp] theorem Pl.frameReceive_cnt (p : Pl) (tags : List Word) (raw : List Byte) : (p.frameReceive tags raw).cnt = p.cnt := by
  simp only [Pl.frameReceive, apply_ite Pl.cnt, ite_self, Pl.unknownVerdict_cnt, Pl.badFrame_cnt, Pl.emitOut_cnt]

/-! ### Hall time -/

@[simp] theorem Pl.refuse_cnt (p : Pl) (ident reason : Nat) : (p.refuse ident reason).cnt = p.cnt := (rfl)

@[simp] theorem Pl.timeAsk_cnt (p : Pl) : p.timeAsk.cnt = p.cnt := (rfl)

@[simp] theorem Pl.timeLost_cnt (p : Pl) : p.timeLost.cnt = p.cnt := by
  simp only [Pl.timeLost, Pl.timeAsk_cnt, Pl.record_cnt, Pl.raise_cnt]
  exact forEach_cnt _ (fun _ p => p.refuse_cnt _ 3) p

@[simp] theorem Pl.linkUp_cnt (p : Pl) : p.linkUp.cnt = p.cnt := by
  simp only [Pl.linkUp, apply_ite Pl.cnt, ite_self]

@[simp] theorem Pl.timeFound_cnt (p : Pl) (th2 mean d2 : Int) : (p.timeFound th2 mean d2).cnt = p.cnt := by
  simp only [Pl.timeFound, Pl.linkUp_cnt, apply_ite Pl.cnt, ite_self]

@[simp] theorem Pl.timeReply_cnt (p : Pl) (a : Int) (xid : Nat) (x : Xchg) : (p.timeReply a xid x).cnt = p.cnt := by
  fun_cases Pl.timeReply p a xid x
  · rfl
  · exact Pl.timeAsk_cnt _
  · rfl
  · exact Pl.timeAsk_cnt _
  · exact Pl.timeFound_cnt ..

@[simp] theorem Pl.nextRound_cnt (p : Pl) : p.nextRound.cnt = p.cnt := by
  simp only [Pl.nextRound, apply_ite Pl.cnt, ite_self, Pl.timeAsk_cnt]

@[simp] theorem Pl.applyRound_cnt (p : Pl) (th2 : Int) (qual : Bool) : (p.applyRound th2 qual).cnt = p.cnt := by
  simp only [Pl.applyRound, apply_ite Pl.cnt, ite_self, Pl.timeLost_cnt, Pl.nextRound_cnt]

@[simp] theorem Pl.timeRefresh_cnt (p : Pl) : p.timeRefresh.cnt = p.cnt := by
  fun_cases Pl.timeRefresh p
  · rfl
  · rfl
  · exact Pl.timeAsk_cnt _
  · exact Pl.applyRound_cnt ..
  · exact Pl.nextRound_cnt _
  · exact Pl.applyRound_cnt ..

@[simp] theorem Pl.linkLoss_cnt (p : Pl) : p.linkLoss.cnt = p.cnt := by
  simp only [Pl.linkLoss, apply_ite Pl.cnt, ite_self]

@[simp] theorem Pl.linkBegin_cnt (p : Pl) : p.linkBegin.cnt = p.cnt := by
  simp only [Pl.linkBegin, apply_ite Pl.cnt, ite_self, Pl.timeAsk_cnt, Pl.raise_cnt]

@[simp] theorem Pl.tick_cnt (p : Pl) : p.tick.cnt = p.cnt := by
  simp only [Pl.tick, apply_ite Pl.cnt, ite_self, Pl.raise_cnt, Pl.coalesceDue_cnt, Pl.linkBegin_cnt]

/-! ### Trace -/

@[simp] theorem Pl.setCore_cnt (p : Pl) (c : Nat) (x : TrCore) : (p.setCore c x).cnt = p.cnt := (rfl)

@[simp] theorem Pl.restall_cnt (p : Pl) (c : Nat) : (p.restall c).cnt = p.cnt := by
  simp only [Pl.restall, apply_ite Pl.cnt, ite_self, Pl.emitOut_cnt, Pl.setCore_cnt]

@[simp] theorem Pl.pushItem_cnt (p : Pl) (c : Nat) (i : TrItem) : (p.pushItem c i).cnt = p.cnt := (rfl)

@[simp] theorem Pl.dropWord_cnt (p : Pl) (c : Nat) : (p.dropWord c).cnt = p.cnt := (rfl)

@[simp] theorem Pl.lossMarker_cnt (p : Pl) (c n : Nat) : (p.lossMarker c n).cnt = p.cnt := (rfl)

@[simp] theorem Pl.storeWord_cnt (p : Pl) (c kind : Nat) (data : BitVec 48) : (p.storeWord c kind data).cnt = p.cnt := by
  unfold Pl.storeWord
  split <;> rfl

@[simp] theorem Pl.traceWord_cnt (p : Pl) (c kind : Nat) (data : BitVec 48) : (p.traceWord c kind data).cnt = p.cnt := by
  simp only [Pl.traceWord, apply_ite Pl.cnt, ite_self, Pl.dropWord_cnt, Pl.restall_cnt, Pl.storeWord_cnt, Pl.lossMarker_cnt]

theorem Pl.putChunk_cnt {p x : Pl} {ws : List Word} (h : p.putChunk ws = some x) : x.cnt = p.cnt := by
  rw [Pl.putChunk_some h]

theorem Pl.putStamp_cnt {p x : Pl} {ht : Nat} (h : p.putStamp ht = some x) : x.cnt = p.cnt := by
  unfold Pl.putStamp at h
  split at h
  · rename_i y hy
    cases h
    exact (Pl.putChunk_cnt hy :)
  · cases h

@[simp] theorem Pl.stamp_cnt (p : Pl) : p.stamp.cnt = p.cnt := by
  unfold Pl.stamp
  split
  · rfl
  · cases h : p.putStamp p.now with
    | none => rfl
    | some x => exact Pl.putStamp_cnt h

@[simp] theorem Pl.stampsDue_cnt (p : Pl) (ts : List Nat) : (p.stampsDue ts).cnt = p.cnt := by
  induction ts generalizing p with
  | nil => rfl
  | cons t ts ih =>
    unfold Pl.stampsDue
    split
    · rfl
    · rename_i x hx
      exact (ih x).trans (Pl.putStamp_cnt hx)

@[simp] theorem Pl.sitStamp_cnt (p : Pl) : p.sitStamp.cnt = p.cnt := Pl.stampsDue_cnt ..

theorem Pl.circPut_cnt {p x : Pl} {c : Nat} {i : TrItem} (h : p.circPut c i = some x) : x.cnt = p.cnt := by
  unfold Pl.circPut at h
  dsimp only at h
  split at h
  · cases h
  · simpa only [apply_ite Pl.cnt, Pl.stamp_cnt, Pl.stampsDue_cnt, ite_self] using Pl.putChunk_cnt h

@[simp] theorem Pl.popItem_cnt (p : Pl) (c : Nat) : (p.popItem c).cnt = p.cnt := Pl.restall_cnt ..

@[simp] theorem Pl.drainCore_cnt (p : Pl) (c : Nat) (is : List TrItem) : (p.drainCore c is).cnt = p.cnt := by
  induction is generalizing p with
  | nil => rfl
  | cons i is ih =>
    unfold Pl.drainCore
    split
    · rfl
    · rename_i x hx
      rw [ih, Pl.popItem_cnt, Pl.circPut_cnt hx]

@[simp] theorem Pl.lpSettle_cnt (p : Pl) (c : Nat) : (p.lpSettle c).cnt = p.cnt := by
  unfold Pl.lpSettle
  dsimp only
  split
  · simp only [apply_ite Pl.cnt, ite_self, Pl.emitOut_cnt, Pl.setCore_cnt]
  · rfl

@[simp] theorem Pl.dma_cnt (p : Pl) : p.dma.cnt = p.cnt := by
  fun_cases Pl.dma p
  · exact Pl.stampsDue_cnt ..
  · rfl
  · rfl
  · rename_i x hx
    rw [Pl.lpSettle_cnt, Pl.popItem_cnt]
    exact (Pl.circPut_cnt hx :)

@[simp] theorem Pl.timerStamp_cnt (p : Pl) : p.timerStamp.cnt = p.cnt := by
  simp only [Pl.timerStamp, apply_ite Pl.cnt, ite_self, Pl.sitStamp_cnt]

@[simp] theorem Pl.shipTrace_cnt (p : Pl) : p.shipTrace.cnt = p.cnt := by
  simp only [Pl.shipTrace, apply_ite Pl.cnt, ite_self, Pl.stampsDue_cnt, Pl.send_cnt]

@[simp] theorem Pl.extract_cnt (p : Pl) (n : Nat) : (p.extract n).cnt = p.cnt := by
  simp only [Pl.extract, apply_ite Pl.cnt, ite_self, Pl.badFrame_cnt, Pl.queue_cnt]

@[simp] theorem Pl.lpMarker_cnt (p : Pl) (c val : Nat) : (p.lpMarker c val).cnt = p.cnt := by
  simp only [Pl.lpMarker, apply_ite Pl.cnt, ite_self, Pl.pushItem_cnt]

@[simp] theorem Pl.lpEntry_cnt (p : Pl) (c : Nat) : (p.lpEntry c).cnt = p.cnt := by
  simp only [Pl.lpEntry, apply_ite Pl.cnt, ite_self, Pl.lpSettle_cnt, Pl.setCore_cnt, Pl.drainCore_cnt, Pl.lpMarker_cnt]

@[simp] theorem Pl.lpTimeout_cnt (p : Pl) (c : Nat) : (p.lpTimeout c).cnt = p.cnt := by
  unfold Pl.lpTimeout
  dsimp only
  split
  · simp only [Pl.emitOut_cnt, Pl.restall_cnt, Pl.setCore_cnt, forEach_cnt _ (fun i p => Pl.pushItem_cnt p c i), Pl.raise_cnt, Pl.lossMarker_cnt]
  · rfl

@[simp] theorem Pl.lpExit_cnt (p : Pl) (c : Nat) : (p.lpExit c).cnt = p.cnt := by
  simp only [Pl.lpExit, apply_ite Pl.cnt, ite_self, Pl.emitOut_cnt, Pl.setCore_cnt, Pl.lpMarker_cnt]

/-! ### Registers: reads, and the writes that carry no reset -/

@[simp] theorem Pl.clearRc_cnt (p : Pl) (off : Nat) : (p.clearRc off).cnt = p.cnt := by
  simp only [Pl.clearRc, apply_ite Pl.cnt, ite_self]

@[simp] theorem Pl.readWord_cnt (p : Pl) (off : Nat) (link : Bool) : (p.readWord off link).1.cnt = p.cnt := by
  fun_cases Pl.readWord p off link
  · rfl
  · rfl
  · rfl
  · exact Pl.clearRc_cnt ..

@[simp] theorem Pl.deny_cnt (p : Pl) : p.deny.cnt = p.cnt := (rfl)

@[simp] theorem Pl.mpRead_cnt (p : Pl) (addr : Nat) (priv : Bool) : (p.mpRead addr priv).cnt = p.cnt := by
  simp only [Pl.mpRead, apply_ite Pl.cnt, ite_self, Pl.emitOut_cnt, Pl.deny_cnt, Pl.readWord_cnt]

@[simp] theorem Pl.linkReads_cnt (p : Pl) (off n : Nat) : (p.linkReads off n).1.cnt = p.cnt := by
  induction n generalizing p off with
  | zero => rfl
  | succ n ih => exact (ih _ _).trans (Pl.readWord_cnt ..)

@[simp] theorem Pl.regRead_cnt (p : Pl) (off n tag : Nat) : (p.regRead off n tag).cnt = p.cnt := by
  simp only [Pl.regRead, apply_ite Pl.cnt, ite_self, Pl.send_cnt, Pl.linkReads_cnt, Pl.badFrame_cnt]

@[simp] theorem Pl.palCommit_cnt (p : Pl) : p.palCommit.cnt = p.cnt := (rfl)

@[simp] theorem Pl.palWrite_cnt (p : Pl) (off v : Nat) : (p.palWrite off v).cnt = p.cnt := by
  unfold Pl.palWrite
  split <;> rfl

@[simp] theorem Pl.setMon_cnt (p : Pl) (n : Nat) (m : PlMon) : (p.setMon n m).cnt = p.cnt := (rfl)

@[simp] theorem Pl.pgWrite_cnt (p : Pl) (n v : Nat) : (p.pgWrite n v).cnt = p.cnt := (rfl)

@[simp] theorem Pl.linkReg_cnt (p : Pl) (off v : Nat) : (p.linkReg off v).cnt = p.cnt := by
  unfold Pl.linkReg
  cases p.pgCfg off <;>
    simp only [apply_ite Pl.cnt, ite_self, forEach_cnt _ (fun c p => Pl.restall_cnt p c), Pl.palCommit_cnt, Pl.palWrite_cnt, Pl.pgWrite_cnt]

@[simp] theorem Pl.noteWrite_cnt (p : Pl) (off : Nat) (link : Bool) : (p.noteWrite off link).cnt = p.cnt := by
  simp only [Pl.noteWrite, apply_ite Pl.cnt, ite_self]

/-! ### The writes that may reset the block -/

/-- The counters are as they were, or those of a reset block. -/
def Pl.KeepsOrClears (p q : Pl) : Prop := q.cnt = p.cnt ∨ q.cnt = []

theorem Pl.KeepsOrClears.trans {p q r : Pl} (hpq : p.KeepsOrClears q) (hqr : q.KeepsOrClears r) : p.KeepsOrClears r :=
  hqr.elim (fun h => hpq.imp h.trans h.trans) .inr

theorem Pl.keepsOrClears_openReg (p : Pl) (off v : Nat) (soft : Bool) : p.KeepsOrClears (p.openReg off v soft) := by
  unfold Pl.openReg
  split
  · split
    · exact .inr rfl
    · exact .inl rfl
  · simp only [Pl.KeepsOrClears, apply_ite Pl.cnt, ite_self, true_or]

theorem Pl.keepsOrClears_mpWrite (p : Pl) (addr v : Nat) (priv : Bool) : p.KeepsOrClears (p.mpWrite addr v priv) := by
  unfold Pl.mpWrite
  dsimp only
  split
  · exact .inl (Pl.deny_cnt p)
  · exact .trans (.inl (Pl.noteWrite_cnt ..)) (Pl.keepsOrClears_openReg ..)

theorem Pl.keepsOrClears_linkWrite (p : Pl) (off v : Nat) : p.KeepsOrClears (p.linkWrite off v) := by
  unfold Pl.linkWrite
  split
  · exact .inl (Pl.linkReg_cnt ..)
  · refine .trans (.inl ?_) (Pl.keepsOrClears_openReg ..)
    simp only [Pl.noteWrite_cnt, apply_ite Pl.cnt, Pl.deny_cnt, ite_self]

theorem Pl.keepsOrClears_linkWrites (p : Pl) (off : Nat) (vs : List Word32) : p.KeepsOrClears (p.linkWrites off vs) := by
  induction vs generalizing p off with
  | nil => exact .inl rfl
  | cons v vs ih => exact (Pl.keepsOrClears_linkWrite ..).trans (ih ..)

/-! ### Sampling and sittings -/

@[simp] theorem Pl.takePalette_cnt (p : Pl) : p.takePalette.cnt = p.cnt := by
  simp only [Pl.takePalette, apply_ite Pl.cnt, ite_self]

@[simp] theorem Pl.buildSample_cnt (p : Pl) (t : Nat) (priv : Bool) : (p.buildSample t priv).cnt = p.cnt := by
  simp only [Pl.buildSample, apply_ite Pl.cnt, ite_self]

@[simp] theorem Pl.samplingInstant_cnt (p : Pl) : p.samplingInstant.cnt = p.cnt := by
  simp only [Pl.samplingInstant, apply_ite Pl.cnt, ite_self, Pl.buildSample_cnt, Pl.takePalette_cnt]

@[simp] theorem Pl.sitRequest_cnt (p : Pl) (ident t : Nat) : (p.sitRequest ident t).cnt = p.cnt := by
  simp only [Pl.sitRequest, apply_ite Pl.cnt, ite_self, Pl.refuse_cnt]

@[simp] theorem Pl.assertFreeze_cnt (p : Pl) (ident : Nat) : (p.assertFreeze ident).cnt = p.cnt := by
  simp only [Pl.assertFreeze, apply_ite Pl.cnt, ite_self, Pl.raise_cnt]

@[simp] theorem Pl.captureOne_cnt (p : Pl) (t ident : Nat) : (p.captureOne t ident).cnt = p.cnt := by
  simp only [Pl.captureOne, apply_ite Pl.cnt, ite_self, Pl.queue_cnt, Pl.sitStamp_cnt, Pl.record_cnt, Pl.assertFreeze_cnt]

@[simp] theorem Pl.overrunOne_cnt (p : Pl) (t ident : Nat) : (p.overrunOne t ident).cnt = p.cnt := (rfl)

@[simp] theorem Pl.sitCapture_cnt (p : Pl) (t : Nat) : (p.sitCapture t).cnt = p.cnt := by
  fun_cases Pl.sitCapture p t
  · rfl
  · exact forEach_cnt _ (fun i p => p.overrunOne_cnt t i) _
  · exact forEach_cnt _ (fun i p => p.captureOne_cnt t i) _

@[simp] theorem Pl.sitRelease_cnt (p : Pl) (ident : Nat) (retire : Bool) : (p.sitRelease ident retire).cnt = p.cnt := by
  unfold Pl.sitRelease
  split <;> rfl

@[simp] theorem Pl.freezeExpiry_cnt (p : Pl) : p.freezeExpiry.cnt = p.cnt := by
  simp only [Pl.freezeExpiry, apply_ite Pl.cnt, ite_self, Pl.record_cnt]

/-! ### Progress monitors and proofs sent out -/

@[simp] theorem Pl.progress_cnt (p : Pl) (n ht flags : Nat) : (p.progress n ht flags).cnt = p.cnt := (rfl)

@[simp] theorem Pl.report_cnt (p : Pl) (n : Nat) : (p.report n).cnt = p.cnt := by
  simp only [Pl.report, apply_ite Pl.cnt, ite_self, Pl.progress_cnt]

@[simp] theorem Pl.pulse_cnt (p : Pl) (n : Nat) : (p.pulse n).cnt = p.cnt := by
  simp only [Pl.pulse, apply_ite Pl.cnt, ite_self, Pl.report_cnt, Pl.setMon_cnt]

@[simp] theorem Pl.stallMon_cnt (p : Pl) (n : Nat) : (p.stallMon n).cnt = p.cnt := by
  simp only [Pl.stallMon, apply_ite Pl.cnt, ite_self, Pl.raise_cnt, Pl.record_cnt, Pl.progress_cnt, Pl.setMon_cnt]

@[simp] theorem Pl.seedFrame_cnt (p : Pl) (e : PlSeed) : (p.seedFrame e).cnt = p.cnt := by
  unfold Pl.seedFrame
  split <;> rfl

@[simp] theorem Pl.takeExport_cnt (p : Pl) (i : PxId) (e : PlSeed) : (p.takeExport i e).cnt = p.cnt := by
  unfold Pl.takeExport
  split <;> rfl

@[simp] theorem Pl.identity_cnt (p : Pl) (i : PxId) : (p.identity i).cnt = p.cnt := by
  fun_cases Pl.identity p i
  · rfl
  · rfl
  · rfl
  · rfl
  · exact Pl.takeExport_cnt ..
  · rfl

@[simp] theorem Pl.reidentity_cnt (p : Pl) (i : PxId) : (p.reidentity i).cnt = p.cnt := by
  unfold Pl.reidentity
  split <;> rfl

@[simp] theorem Pl.onExp_cnt (p : Pl) (seq : Nat) (f : PlExp → PlExp) : (p.onExp seq f).cnt = p.cnt := (rfl)

@[simp] theorem Pl.shipParts_cnt (p : Pl) (x : PlExp) (data : List Byte) (n k : Nat) : (p.shipParts x data n k).cnt = p.cnt := by
  induction k generalizing p with
  | zero => rfl
  | succ k ih => exact ih _

@[simp] theorem Pl.streamEnd_cnt (p : Pl) (fmt kred nout : Nat) (a e : List Byte) : (p.streamEnd fmt kred nout a e).cnt = p.cnt := by
  fun_cases Pl.streamEnd p fmt kred nout a e
  · rfl
  · rfl
  · rw [Pl.shipParts_cnt, Pl.onExp_cnt]

@[simp] theorem Pl.release_cnt (p : Pl) (seq : Nat) : (p.release seq).cnt = p.cnt := (rfl)

@[simp] theorem Pl.replay_cnt (p : Pl) (x : PlExp) (code : Nat) : (p.replay x code).cnt = p.cnt := by
  simp only [Pl.replay, apply_ite Pl.cnt, ite_self, Pl.raise_cnt]

@[simp] theorem Pl.judge_cnt (p : Pl) (x : PlExp) (code : Nat) : (p.judge x code).cnt = p.cnt := by
  simp only [Pl.judge, apply_ite Pl.cnt, ite_self, Pl.emitOut_cnt, Pl.onExp_cnt, Pl.release_cnt, Pl.replay_cnt]

@[simp] theorem Pl.verdict_cnt (p : Pl) (b : List Byte) : (p.verdict b).cnt = p.cnt := by
  fun_cases Pl.verdict p b
  · rfl
  · rfl
  · exact Pl.judge_cnt ..

@[simp] theorem Pl.rexGone_cnt (p : Pl) : p.rexGone.cnt = p.cnt := by
  unfold Pl.rexGone
  split <;> rfl

@[simp] theorem Pl.slotTimeout_cnt (p : Pl) (seq : Nat) : (p.slotTimeout seq).cnt = p.cnt := by
  fun_cases Pl.slotTimeout p seq <;> rfl

/-! ### Commands -/

/-- A command of the module leaves the block alone. -/
theorem gnStep_cnt {s t : State} {f : Gn → Gn} (h : gnStep s f = .next t) : t.pl.cnt = s.pl.cnt := by
  cases h
  rfl

theorem plDo_cnt {s t : State} {f : Pl → Pl} (h : plDo s f = .next t) : t.pl.cnt = (f s.pl).cnt := by
  cases h
  rfl

/-- A command of the block whose operation leaves the counters alone does. -/
theorem plDo_keeps_cnt {s t : State} {f : Pl → Pl} (h : plDo s f = .next t) (hf : ∀ p, (f p).cnt = p.cnt) : t.pl.cnt = s.pl.cnt :=
  (plDo_cnt h).trans (hf s.pl)

/-- The commands that reset the block, or whose registers include its soft reset (R134). -/
def MayResetBlock (c : Instr) : Prop :=
  c = .blockReset ∨ (∃ a b, c = .softReset a b) ∨ (∃ a v p, c = .mpRegisterWrite a v p) ∨ ∃ o d, c = .regWriteFrame o d

theorem exec_keeps_or_clears {s t : State} {c : Instr} (hc : MayResetBlock c) (h : exec c s = .next t) : s.pl.KeepsOrClears t.pl := by
  have hpl : ∀ {f : Pl → Pl}, plDo s f = .next t → s.pl.KeepsOrClears (f s.pl) → s.pl.KeepsOrClears t.pl :=
    fun hf hk => hk.imp (plDo_cnt hf).trans (plDo_cnt hf).trans
  obtain rfl | ⟨priv, link, rfl⟩ | ⟨addr, v, priv, rfl⟩ | ⟨off, data, rfl⟩ := hc
  · exact hpl h (.inr (Pl.reset_cnt _))
  · refine hpl h ?_
    split
    · exact .inr (Pl.reset_cnt _)
    · exact .inl rfl
  · exact hpl h (Pl.keepsOrClears_mpWrite ..)
  · refine hpl h ?_
    split
    · exact Pl.keepsOrClears_linkWrites ..
    · exact .inl (Pl.badFrame_cnt _)

/-- Every other command leaves the counters alone: the block's by the lemmas of their operations, all others because they are the module's. -/
theorem exec_keeps_cnt {s t : State} {c : Instr} (hinc : ∀ lanes, c ≠ .counterIncrement lanes) (hreset : ¬ MayResetBlock c)
    (h : exec c s = .next t) : t.pl.cnt = s.pl.cnt := by
  cases c
  case counterIncrement lanes => exact absurd rfl (hinc lanes)
  case blockReset => exact absurd (.inl rfl) hreset
  case softReset a b => exact absurd (.inr (.inl ⟨a, b, rfl⟩)) hreset
  case mpRegisterWrite a v p => exact absurd (.inr (.inr (.inl ⟨a, v, p, rfl⟩))) hreset
  case regWriteFrame o d => exact absurd (.inr (.inr (.inr ⟨o, d, rfl⟩))) hreset
  case timeUnitIncrement u =>
    cases u with
    | ginath => exact gnStep_cnt h
    | block => exact plDo_keeps_cnt h Pl.tick_cnt
  case timeRefresh u =>
    cases u with
    | ginath => exact gnStep_cnt h
    | block => exact plDo_keeps_cnt h Pl.timeRefresh_cnt
  case timeReplyFrame u l r =>
    cases u with
    | ginath => exact gnStep_cnt h
    | block => exact plDo_keeps_cnt h fun p => p.timeReply_cnt ..
  case frameSend o =>
    cases o with
    | port p => exact gnStep_cnt h
    | block => exact plDo_keeps_cnt h Pl.grant_cnt
  case frameReceive i raw =>
    cases i with
    | port p => exact gnStep_cnt h
    | block tags => exact plDo_keeps_cnt h fun p => p.frameReceive_cnt tags raw
  case keepaliveTimer o =>
    cases o with
    | port p => exact gnStep_cnt h
    | block => exact plDo_keeps_cnt h Pl.keepaliveTimer_cnt
  case linkLoss o lane =>
    cases o with
    | port p => exact gnStep_cnt h
    | block => exact plDo_keeps_cnt h Pl.linkLoss_cnt
  case recordSubmit r =>
    cases r with
    | producer prod => exact gnStep_cnt h
    | hostDie r => exact plDo_keeps_cnt h fun p => p.hostRecord_cnt r
  case traceWord c kind data => exact plDo_keeps_cnt h fun p => p.traceWord_cnt c kind data
  case traceBurstDma => exact plDo_keeps_cnt h Pl.dma_cnt
  case stampMarkerTimer => exact plDo_keeps_cnt h Pl.timerStamp_cnt
  case traceFrameShip => exact plDo_keeps_cnt h Pl.shipTrace_cnt
  case traceExtract n => exact plDo_keeps_cnt h fun p => p.extract_cnt n
  case lpEntry c => exact plDo_keeps_cnt h fun p => p.lpEntry_cnt c
  case lpEntryTimeout c => exact plDo_keeps_cnt h fun p => p.lpTimeout_cnt c
  case lpExit c => exact plDo_keeps_cnt h fun p => p.lpExit_cnt c
  case mpRegisterRead addr priv => exact plDo_keeps_cnt h fun p => p.mpRead_cnt addr priv
  case plCntLowRead addr priv => exact plDo_keeps_cnt h fun p => p.mpRead_cnt addr priv
  case regReadFrame off n tag => exact plDo_keeps_cnt h fun p => p.regRead_cnt off n tag
  case palCommit => exact plDo_keeps_cnt h Pl.palCommit_cnt
  case palWrite off data => exact plDo_keeps_cnt h fun p => p.palWrite_cnt off data.toNat
  case samplingInstant => exact plDo_keeps_cnt h Pl.samplingInstant_cnt
  case blockSittingRequest ident ht => exact plDo_keeps_cnt h fun p => p.sitRequest_cnt ident ht
  case sittingCapture ht => exact plDo_keeps_cnt h fun p => p.sitCapture_cnt ht
  case sittingRelease ident retire => exact plDo_keeps_cnt h fun p => p.sitRelease_cnt ident retire
  case freezeExpiry => exact plDo_keeps_cnt h Pl.freezeExpiry_cnt
  case progressPulse n => exact plDo_keeps_cnt h fun p => p.pulse_cnt n
  case progressRecordSend n =>
    refine plDo_keeps_cnt h fun p => ?_
    rw [apply_ite Pl.cnt, Pl.report_cnt, ite_self]
  case progressStall n => exact plDo_keeps_cnt h fun p => p.stallMon_cnt n
  case seedFrame => exact plDo_keeps_cnt h fun p => p.seedFrame_cnt _
  case pxIdentity i => exact plDo_keeps_cnt h fun p => p.identity_cnt i
  case pxReexportIdentity i => exact plDo_keeps_cnt h fun p => p.reidentity_cnt i
  case pxStreamEnd fmt kred nout a e => exact plDo_keeps_cnt h fun p => p.streamEnd_cnt fmt kred nout a e
  case verdictFrame b => exact plDo_keeps_cnt h fun p => p.verdict_cnt b
  case pxRexGone => exact plDo_keeps_cnt h Pl.rexGone_cnt
  case exportSlotTimeout seq => exact plDo_keeps_cnt h fun p => p.slotTimeout_cnt seq.toNat
  case rpAck =>
    refine plDo_keeps_cnt h fun p => ?_
    rw [apply_ite Pl.cnt, ite_self]
  case watermarkKeepalive =>
    refine plDo_keeps_cnt h fun p => ?_
    rw [apply_ite Pl.cnt, Pl.queue_cnt, ite_self]
  all_goals exact gnStep_cnt h

end Sys2Proof.Machine

open Sys2Proof Sys2Proof.Machine

/-- Settles O51: the sum of the lanes by induction on them, and for every other command the case split of the dispatch. -/
theorem countersAddLanesAndNeverClear : Obligations.CountersAddLanesAndNeverClear := by
  unfold Obligations.CountersAddLanesAndNeverClear
  refine ⟨fun s lanes => ⟨_, exec_counterIncrement s lanes, rfl, rfl, fun b j hb hj => ?_, fun i hi => Pl.addLanes_ctr_of_le lanes hi, ?_⟩,
    fun s t c rest hq hstep hinc => ?_⟩
  · have hexists : b * 64 + j < s.pl.nctr := by
      unfold Pl.nctr
      omega
    exact Pl.addLanes_ctr_of_lt lanes hexists
  · show { s.pl.addLanes lanes with cnt := s.pl.cnt } = s.pl
    rw [Pl.addLanes_cnt]
  · have hexec : exec c { s with pending := rest } = .next t := by
      rwa [step, hq] at hstep
    by_cases hreset : MayResetBlock c
    · exact (exec_keeps_or_clears hreset hexec).imp id fun hclear => ⟨hclear, hreset⟩
    · exact .inl (exec_keeps_cnt hinc hreset hexec :)

end

section
/-! The bounds of the block's stores (R110, R141, R142, R151, R153, R154) and its count of hall time (R158): what each operation of the block does to
both. Most operations touch neither; a reset (R134) empties the stores, and is the only one that takes the count back. -/

namespace Sys2Proof.Machine

/-! ### The fields that the bounds and the count are about -/

/-- The count of hall time, and the stores that `Pl.bounded` bounds. -/
def Pl.held (p : Pl) : Nat × List (Nat × Nat) × List Nat × List PlSeed × List PlExp × List Replay × List RecIn :=
  (p.tm.fix, p.sitReqs, p.images, p.seeds, p.exps, p.rpQ, p.evs)

/-- From p the block has come to q: its stores keep their bounds and its count of hall time has not gone back. -/
def Pl.Advances (p q : Pl) : Prop := (p.bounded → q.bounded) ∧ p.tm.fix ≤ q.tm.fix

theorem Pl.Advances.refl (p : Pl) : p.Advances p := ⟨id, Nat.le_refl _⟩

theorem Pl.Advances.trans {p q r : Pl} (hpq : p.Advances q) (hqr : q.Advances r) : p.Advances r :=
  ⟨hqr.1 ∘ hpq.1, Nat.le_trans hpq.2 hqr.2⟩

theorem Pl.Advances.of_held {p q : Pl} (h : q.held = p.held) : p.Advances q := by
  simp only [Pl.held, Prod.mk.injEq] at h
  obtain ⟨hfix, hreqs, himages, hseeds, hexps, hrpQ, hevs⟩ := h
  refine ⟨fun hb => ?_, Nat.le_of_eq hfix.symm⟩
  unfold Pl.bounded at hb ⊢
  rwa [hreqs, himages, hseeds, hexps, hrpQ, hevs]

/-- An operation that advances from a state with the same count and stores. -/
theorem Pl.Advances.after {p q r : Pl} (hqr : q.Advances r) (h : q.held = p.held) : p.Advances r := (Pl.Advances.of_held h).trans hqr

/-- An operation that keeps the count and never lengthens a store. -/
theorem Pl.Advances.of_shorter {p q : Pl} (hfix : q.tm.fix = p.tm.fix) (hreqs : q.sitReqs.length ≤ p.sitReqs.length)
    (himages : q.images.length ≤ p.images.length) (hseeds : q.seeds.length ≤ p.seeds.length) (hexps : q.exps.length ≤ p.exps.length)
    (hrpQ : q.rpQ.length ≤ p.rpQ.length) (hevs : q.evs.length ≤ p.evs.length) : p.Advances q := by
  refine ⟨fun hb => ?_, Nat.le_of_eq hfix.symm⟩
  unfold Pl.bounded at hb ⊢
  omega

theorem Pl.Advances.ite {p q r : Pl} {c : Prop} [Decidable c] (hq : c → p.Advances q) (hr : ¬ c → p.Advances r) : p.Advances (if c then q else r) := by
  split
  · exact hq ‹_›
  · exact hr ‹_›

theorem Pl.Advances.forEach {ι : Type} (l : List ι) {f : ι → Pl → Pl} (hf : ∀ i (p : Pl), p.Advances (f i p)) (p : Pl) :
    p.Advances (Machine.forEach l f p) :=
  forEach_keeps (fun q => p.Advances q) l f (fun i q hq => hq.trans (hf i q)) p (.refl p)

theorem forEach_held {ι : Type} (l : List ι) {f : ι → Pl → Pl} (hf : ∀ i p, (f i p).held = p.held) (p : Pl) : (forEach l f p).held = p.held :=
  forEach_keeps (fun q => q.held = p.held) l f (fun i q hq => (hf i q).trans hq) p rfl

/-! ### Pins and the message port -/

@[simp] theorem Pl.showPins_held (p q : Pl) : (p.showPins q).held = q.held := (rfl)
@[simp] theorem Pl.emitOut_held (p : Pl) (x : Out) : (p.emitOut x).held = p.held := (rfl)
@[simp] theorem Pl.raise_held (p : Pl) (b : Nat) : (p.raise b).held = p.held := (rfl)
@[simp] theorem Pl.queue_held (p : Pl) (it : PlItem) : (p.queue it).held = p.held := (rfl)
@[simp] theorem Pl.send_held (p : Pl) (typ cls : Nat) (body : List Byte) : (p.send typ cls body).held = p.held := (rfl)
@[simp] theorem Pl.badFrame_held (p : Pl) : p.badFrame.held = p.held := (rfl)
@[simp] theorem Pl.unknownVerdict_held (p : Pl) : p.unknownVerdict.held = p.held := (rfl)

@[simp] theorem Pl.keepaliveTimer_held (p : Pl) : p.keepaliveTimer.held = p.held := by
  simp only [Pl.keepaliveTimer, apply_ite Pl.held, ite_self, Pl.queue_held]

@[simp] theorem Pl.frameReceive_held (p : Pl) (tags : List Word) (raw : List Byte) : (p.frameReceive tags raw).held = p.held := by
  simp only [Pl.frameReceive, apply_ite Pl.held, ite_self, Pl.unknownVerdict_held, Pl.badFrame_held, Pl.emitOut_held]

/-- An item that has left frees the slot of its record or its image. -/
theorem Pl.advances_itemSent (p : Pl) (it : PlItem) : p.Advances (p.itemSent it) := by
  unfold Pl.itemSent
  refine .ite (fun _ => ?_) fun _ => .ite (fun _ => .ite (fun _ => .refl p) fun _ => ?_) fun _ => .ite (fun _ => ?_) fun _ => .ite (fun _ => ?_) fun _ => .refl p
  · exact .of_shorter rfl Nat.le.refl Nat.le.refl Nat.le.refl Nat.le.refl Nat.le.refl (removeFirst_length_le _ _)
  · exact .of_shorter rfl Nat.le.refl (List.length_filter_le _ _) Nat.le.refl Nat.le.refl Nat.le.refl Nat.le.refl
  · exact .of_held rfl
  · exact .of_held rfl

theorem Pl.advances_sendFrame (p : Pl) (it : PlItem) : p.Advances (p.sendFrame it) := by
  have hsent : ∀ q : Pl, q.held = p.held → p.Advances (q.itemSent it) := fun q hq => (Pl.Advances.of_held hq).trans (q.advances_itemSent it)
  unfold Pl.sendFrame
  by_cases htyp : it.typ = 0x02
  · simp only [htyp, ↓reduceIte]
    exact .ite (fun _ => hsent _ rfl) fun _ => .of_held rfl
  · simp only [htyp, ↓reduceIte]
    exact .ite (fun _ => hsent _ rfl) fun _ => .of_held rfl

theorem Pl.advances_grant (p : Pl) : p.Advances p.grant := by
  fun_cases Pl.grant p
  · exact .refl p
  · exact .of_held rfl
  · exact .refl p
  · exact (Pl.advances_sendFrame ..).after rfl

/-! ### Records: the event buffer never holds more than its 2,048 slots -/

theorem Pl.advances_storeRec (p : Pl) (r : RecIn) : p.Advances (p.storeRec r) := by
  rcases p.storeRec_cases r with ⟨hroom, h⟩ | h | ⟨old, q, hold, h⟩ <;> rw [h]
  · refine ⟨fun ⟨hreqs, himages, hseeds, hexps, hrpQ, _⟩ => ⟨hreqs, himages, hseeds, hexps, hrpQ, ?_⟩, Nat.le_refl _⟩
    exact Nat.le_trans (Nat.le_of_eq (List.length_append (as := p.evs) (bs := [r]))) hroom
  · exact .of_held rfl
  · refine .of_shorter rfl Nat.le.refl Nat.le.refl Nat.le.refl Nat.le.refl Nat.le.refl ?_
    have hlt := removeFirst_length_lt (fun x => x == old) p.evs ⟨old, hold, beq_self_eq_true old⟩
    exact Nat.le_trans (Nat.le_of_eq (List.length_append (as := removeFirst (fun x => x == old) p.evs) (bs := [r]))) hlt

theorem Pl.advances_record (p : Pl) (code sev source p0 p1 p2 p3 : Nat) : p.Advances (p.record code sev source p0 p1 p2 p3) := p.advances_storeRec _

theorem Pl.advances_flushRec (p : Pl) (e : RecIn) : p.Advances (p.flushRec e) :=
  (Pl.advances_storeRec ..).after rfl

theorem Pl.advances_coalesce (p : Pl) (r : RecIn) : p.Advances (p.coalesce r) := by
  unfold Pl.coalesce
  split
  · exact .ite (fun _ => (Pl.advances_flushRec ..).after rfl) fun _ => .of_held rfl
  · split
    · exact .of_held rfl
    · split
      · exact .of_held rfl
      · exact (p.advances_flushRec _).trans (.of_held rfl)

theorem Pl.advances_hostRecord (p : Pl) (r : RecIn) : p.Advances (p.hostRecord r) :=
  .ite (fun _ => .of_held rfl) fun _ => .ite (fun _ => p.advances_coalesce _) fun _ => p.advances_storeRec _

theorem Pl.advances_coalesceDue (p : Pl) : p.Advances p.coalesceDue := .forEach _ (fun e p => p.advances_flushRec e) p

/-! ### Hall time -/

theorem TimeSt.fix_le_tick (t : TimeSt) : t.fix ≤ t.tick.fix := by
  unfold TimeSt.tick
  split
  · split
    · exact Nat.le_of_lt ‹_›
    · exact Nat.le_refl _
  · exact Nat.le_add_right _ _

@[simp] theorem TimeSt.addExch_fix (t : TimeSt) (e : Exch) : (t.addExch e).fix = t.fix := by
  simp only [TimeSt.addExch, apply_ite TimeSt.fix, ite_self]

@[simp] theorem TimeSt.applyRefresh_fix (t : TimeSt) (th2 : Int) (qual : Bool) : (t.applyRefresh th2 qual).1.fix = t.fix := by
  unfold TimeSt.applyRefresh
  split
  · split <;> rfl
  · rfl

@[simp] theorem Pl.refuse_held (p : Pl) (ident reason : Nat) : (p.refuse ident reason).held = p.held := (rfl)
@[simp] theorem Pl.timeAsk_held (p : Pl) : p.timeAsk.held = p.held := (rfl)

theorem Pl.advances_timeLost (p : Pl) : p.Advances p.timeLost := by
  have hrefused : (forEach p.sitReqs (fun e p => p.refuse e.1 3) p).held = p.held := forEach_held _ (fun _ p => p.refuse_held _ 3) p
  refine (Pl.Advances.of_held hrefused).trans (.trans (.trans ?_ (Pl.advances_record ..)) (.of_held (Pl.timeAsk_held _)))
  exact .of_shorter rfl (Nat.zero_le _) Nat.le.refl Nat.le.refl Nat.le.refl Nat.le.refl Nat.le.refl

@[simp] theorem Pl.linkUp_held (p : Pl) : p.linkUp.held = p.held := by
  unfold Pl.linkUp
  split <;> rfl

theorem Pl.advances_timeFound (p : Pl) (th2 mean d2 : Int) : p.Advances (p.timeFound th2 mean d2) := by
  refine .trans ?_ (.of_held (Pl.linkUp_held _))
  exact .ite (fun _ => .of_held rfl) fun _ => ⟨id, TimeSt.stepBy_fix_le ((p.tm.drop 0).keepDelay 0 mean d2) (thFix th2)⟩

theorem Pl.advances_timeReply (p : Pl) (a : Int) (xid : Nat) (x : Xchg) : p.Advances (p.timeReply a xid x) := by
  have hkeep : ∀ e : Exch, p.Advances { p with tm := ({ p.tm with reqs := [] } : TimeSt).addExch e } :=
    fun e => ⟨id, Nat.le_of_eq (TimeSt.addExch_fix { p.tm with reqs := [] } e).symm⟩
  fun_cases Pl.timeReply p a xid x
  · exact .refl p
  · exact (hkeep _).trans (.of_held (Pl.timeAsk_held _))
  · exact hkeep _
  · exact (hkeep _).trans (.of_held (Pl.timeAsk_held _))
  · exact (hkeep _).trans (Pl.advances_timeFound ..)

@[simp] theorem Pl.nextRound_held (p : Pl) : p.nextRound.held = p.held := by
  simp only [Pl.nextRound, apply_ite Pl.held, ite_self, Pl.timeAsk_held]

theorem Pl.advances_applyRound (p : Pl) (th2 : Int) (qual : Bool) : p.Advances (p.applyRound th2 qual) := by
  have hkeep : p.Advances { p with tm := ((p.tm.drop 0).applyRefresh th2 qual).1 } := ⟨id, Nat.le_of_eq (TimeSt.applyRefresh_fix (p.tm.drop 0) th2 qual).symm⟩
  exact .ite (fun _ => hkeep.trans (Pl.advances_timeLost _)) fun _ => hkeep.trans (.of_held (Pl.nextRound_held _))

theorem Pl.advances_timeRefresh (p : Pl) : p.Advances p.timeRefresh := by
  fun_cases Pl.timeRefresh p
  · exact .refl p
  · exact .of_held rfl
  · exact .of_held rfl
  · exact p.advances_applyRound ..
  · exact .of_held p.nextRound_held
  · exact p.advances_applyRound ..

@[simp] theorem Pl.linkLoss_held (p : Pl) : p.linkLoss.held = p.held := by
  unfold Pl.linkLoss
  split <;> rfl

@[simp] theorem Pl.linkBegin_held (p : Pl) : p.linkBegin.held = p.held := by
  unfold Pl.linkBegin
  split
  · dsimp only
    split <;> rfl
  · rfl

theorem Pl.advances_tick (p : Pl) : p.Advances p.tick := by
  have htick : p.Advances { p with tm := p.tm.tick, wrote := [] } := ⟨id, p.tm.fix_le_tick⟩
  refine .trans (htick.trans (.trans (.of_held (Pl.linkBegin_held _)) (Pl.advances_coalesceDue _))) ?_
  exact .ite (fun _ => .of_held rfl) fun _ => .ite (fun _ => .of_held rfl) fun _ => .refl _

/-! ### Trace -/

@[simp] theorem Pl.setCore_held (p : Pl) (c : Nat) (x : TrCore) : (p.setCore c x).held = p.held := (rfl)
@[simp] theorem Pl.pushItem_held (p : Pl) (c : Nat) (i : TrItem) : (p.pushItem c i).held = p.held := (rfl)
@[simp] theorem Pl.dropWord_held (p : Pl) (c : Nat) : (p.dropWord c).held = p.held := (rfl)
@[simp] theorem Pl.lossMarker_held (p : Pl) (c n : Nat) : (p.lossMarker c n).held = p.held := (rfl)

@[simp] theorem Pl.restall_held (p : Pl) (c : Nat) : (p.restall c).held = p.held := by
  simp only [Pl.restall, apply_ite Pl.held, ite_self, Pl.emitOut_held, Pl.setCore_held]

@[simp] theorem Pl.storeWord_held (p : Pl) (c kind : Nat) (data : BitVec 48) : (p.storeWord c kind data).held = p.held := by
  unfold Pl.storeWord
  split <;> rfl

@[simp] theorem Pl.traceWord_held (p : Pl) (c kind : Nat) (data : BitVec 48) : (p.traceWord c kind data).held = p.held := by
  simp only [Pl.traceWord, apply_ite Pl.held, ite_self, Pl.dropWord_held, Pl.restall_held, Pl.storeWord_held, Pl.lossMarker_held]

theorem Pl.putChunk_held {p x : Pl} {ws : List Word} (h : p.putChunk ws = some x) : x.held = p.held := by
  rw [Pl.putChunk_some h]
  rfl

theorem Pl.putStamp_held {p x : Pl} {ht : Nat} (h : p.putStamp ht = some x) : x.held = p.held := by
  unfold Pl.putStamp at h
  split at h
  · rename_i y hy
    cases h
    exact (Pl.putChunk_held hy :)
  · cases h

@[simp] theorem Pl.stamp_held (p : Pl) : p.stamp.held = p.held := by
  unfold Pl.stamp
  split
  · rfl
  · cases h : p.putStamp p.now with
    | none => rfl
    | some x => exact Pl.putStamp_held h

@[simp] theorem Pl.stampsDue_held (p : Pl) (ts : List Nat) : (p.stampsDue ts).held = p.held := by
  induction ts generalizing p with
  | nil => rfl
  | cons t ts ih =>
    unfold Pl.stampsDue
    split
    · rfl
    · rename_i x hx
      exact (ih x).trans (Pl.putStamp_held hx)

@[simp] theorem Pl.sitStamp_held (p : Pl) : p.sitStamp.held = p.held := Pl.stampsDue_held ..

theorem Pl.circPut_held {p x : Pl} {c : Nat} {i : TrItem} (h : p.circPut c i = some x) : x.held = p.held := by
  unfold Pl.circPut at h
  dsimp only at h
  split at h
  · cases h
  · simpa only [apply_ite Pl.held, Pl.stamp_held, Pl.stampsDue_held, ite_self] using Pl.putChunk_held h

@[simp] theorem Pl.popItem_held (p : Pl) (c : Nat) : (p.popItem c).held = p.held := Pl.restall_held ..

@[simp] theorem Pl.drainCore_held (p : Pl) (c : Nat) (is : List TrItem) : (p.drainCore c is).held = p.held := by
  induction is generalizing p with
  | nil => rfl
  | cons i is ih =>
    unfold Pl.drainCore
    split
    · rfl
    · rename_i x hx
      rw [ih, Pl.popItem_held, Pl.circPut_held hx]

@[simp] theorem Pl.lpSettle_held (p : Pl) (c : Nat) : (p.lpSettle c).held = p.held := by
  unfold Pl.lpSettle
  dsimp only
  split
  · simp only [apply_ite Pl.held, ite_self, Pl.emitOut_held, Pl.setCore_held]
  · rfl

@[simp] theorem Pl.dma_held (p : Pl) : p.dma.held = p.held := by
  fun_cases Pl.dma p
  · exact Pl.stampsDue_held ..
  · rfl
  · rfl
  · rename_i x hx
    rw [Pl.lpSettle_held, Pl.popItem_held]
    exact (Pl.circPut_held hx :)

@[simp] theorem Pl.timerStamp_held (p : Pl) : p.timerStamp.held = p.held := by
  simp only [Pl.timerStamp, apply_ite Pl.held, ite_self, Pl.sitStamp_held]

@[simp] theorem Pl.shipTrace_held (p : Pl) : p.shipTrace.held = p.held := by
  unfold Pl.shipTrace
  split
  · rfl
  · exact Pl.stampsDue_held ..

@[simp] theorem Pl.extract_held (p : Pl) (n : Nat) : (p.extract n).held = p.held := by
  simp only [Pl.extract, apply_ite Pl.held, ite_self, Pl.badFrame_held, Pl.queue_held]

@[simp] theorem Pl.lpMarker_held (p : Pl) (c val : Nat) : (p.lpMarker c val).held = p.held := by
  simp only [Pl.lpMarker, apply_ite Pl.held, ite_self, Pl.pushItem_held]

@[simp] theorem Pl.lpEntry_held (p : Pl) (c : Nat) : (p.lpEntry c).held = p.held := by
  simp only [Pl.lpEntry, apply_ite Pl.held, ite_self, Pl.lpSettle_held, Pl.setCore_held, Pl.drainCore_held, Pl.lpMarker_held]

@[simp] theorem Pl.lpTimeout_held (p : Pl) (c : Nat) : (p.lpTimeout c).held = p.held := by
  unfold Pl.lpTimeout
  dsimp only
  split
  · simp only [Pl.emitOut_held, Pl.restall_held, Pl.setCore_held, forEach_held _ (fun i p => Pl.pushItem_held p c i), Pl.raise_held, Pl.lossMarker_held]
  · rfl

@[simp] theorem Pl.lpExit_held (p : Pl) (c : Nat) : (p.lpExit c).held = p.held := by
  simp only [Pl.lpExit, apply_ite Pl.held, ite_self, Pl.emitOut_held, Pl.setCore_held, Pl.lpMarker_held]

/-! ### Registers -/

@[simp] theorem Pl.clearRc_held (p : Pl) (off : Nat) : (p.clearRc off).held = p.held := by
  fun_cases Pl.clearRc p off <;> rfl

@[simp] theorem Pl.readWord_held (p : Pl) (off : Nat) (link : Bool) : (p.readWord off link).1.held = p.held := by
  fun_cases Pl.readWord p off link
  · rfl
  · rfl
  · rfl
  · exact Pl.clearRc_held ..

@[simp] theorem Pl.deny_held (p : Pl) : p.deny.held = p.held := (rfl)

@[simp] theorem Pl.mpRead_held (p : Pl) (addr : Nat) (priv : Bool) : (p.mpRead addr priv).held = p.held := by
  simp only [Pl.mpRead, apply_ite Pl.held, ite_self, Pl.emitOut_held, Pl.deny_held, Pl.readWord_held]

@[simp] theorem Pl.linkReads_held (p : Pl) (off n : Nat) : (p.linkReads off n).1.held = p.held := by
  induction n generalizing p off with
  | zero => rfl
  | succ n ih => exact (ih _ _).trans (Pl.readWord_held ..)

@[simp] theorem Pl.regRead_held (p : Pl) (off n tag : Nat) : (p.regRead off n tag).held = p.held := by
  simp only [Pl.regRead, apply_ite Pl.held, ite_self, Pl.send_held, Pl.linkReads_held, Pl.badFrame_held]

@[simp] theorem Pl.palCommit_held (p : Pl) : p.palCommit.held = p.held := (rfl)

@[simp] theorem Pl.palWrite_held (p : Pl) (off v : Nat) : (p.palWrite off v).held = p.held := by
  unfold Pl.palWrite
  split <;> rfl

@[simp] theorem Pl.setMon_held (p : Pl) (n : Nat) (m : PlMon) : (p.setMon n m).held = p.held := (rfl)
@[simp] theorem Pl.pgWrite_held (p : Pl) (n v : Nat) : (p.pgWrite n v).held = p.held := (rfl)

@[simp] theorem Pl.linkReg_held (p : Pl) (off v : Nat) : (p.linkReg off v).held = p.held := by
  fun_cases Pl.linkReg p off v
  case case5 => exact forEach_held _ (fun c p => p.restall_held c) _
  case case8 => exact Pl.palWrite_held ..
  all_goals rfl

@[simp] theorem Pl.noteWrite_held (p : Pl) (off : Nat) (link : Bool) : (p.noteWrite off link).held = p.held := by
  unfold Pl.noteWrite
  split <;> rfl

@[simp] theorem Pl.addLanes_held (p : Pl) (lanes : List (Nat × Nat)) : (p.addLanes lanes).held = p.held := by
  rw [Pl.addLanes_cnt]
  rfl

/-! ### Writes that may reset the block, whose stores a reset empties -/

theorem Pl.reset_bounded (p : Pl) : p.reset.bounded := by
  refine ⟨?_, ?_, ?_, ?_, ?_, ?_⟩ <;> exact Nat.zero_le _

theorem Pl.bounded_of_held {p q : Pl} (h : q.held = p.held) (hb : p.bounded) : q.bounded := (Pl.Advances.of_held h).1 hb

theorem Pl.openReg_bounded {p : Pl} (off v : Nat) (soft : Bool) (hb : p.bounded) : (p.openReg off v soft).bounded := by
  fun_cases Pl.openReg p off v soft
  case case1 => exact p.reset_bounded
  all_goals exact Pl.bounded_of_held (by simp only [Pl.held]) hb

theorem Pl.mpWrite_bounded {p : Pl} (addr v : Nat) (priv : Bool) (hb : p.bounded) : (p.mpWrite addr v priv).bounded := by
  unfold Pl.mpWrite
  dsimp only
  split
  · exact hb
  · exact Pl.openReg_bounded _ _ _ (Pl.bounded_of_held (Pl.noteWrite_held ..) hb)

theorem Pl.linkWrite_bounded {p : Pl} (off v : Nat) (hb : p.bounded) : (p.linkWrite off v).bounded := by
  unfold Pl.linkWrite
  split
  · exact Pl.bounded_of_held (Pl.linkReg_held ..) hb
  · refine Pl.openReg_bounded _ _ _ (Pl.bounded_of_held ?_ hb)
    simp only [Pl.noteWrite_held, apply_ite Pl.held, Pl.deny_held, ite_self]

theorem Pl.linkWrites_bounded {p : Pl} (off : Nat) (vs : List Word32) (hb : p.bounded) : (p.linkWrites off vs).bounded := by
  induction vs generalizing p off with
  | nil => exact hb
  | cons v vs ih => exact ih _ (Pl.linkWrite_bounded _ _ hb)

/-! ### Sampling and sittings -/

@[simp] theorem Pl.takePalette_held (p : Pl) : p.takePalette.held = p.held := by
  unfold Pl.takePalette
  split <;> rfl

@[simp] theorem Pl.buildSample_held (p : Pl) (t : Nat) (priv : Bool) : (p.buildSample t priv).held = p.held := by
  unfold Pl.buildSample
  dsimp only
  split <;> rfl

@[simp] theorem Pl.samplingInstant_held (p : Pl) : p.samplingInstant.held = p.held := by
  unfold Pl.samplingInstant
  dsimp only
  split
  · rfl
  · split
    · exact p.takePalette_held
    · simp only [Pl.buildSample_held]
      exact p.takePalette_held

theorem Pl.advances_sitRequest (p : Pl) (ident t : Nat) : p.Advances (p.sitRequest ident t) := by
  unfold Pl.sitRequest
  refine .ite (fun _ => .of_held rfl) fun _ => .ite (fun _ => .of_held rfl) fun _ => .ite (fun _ => .of_held rfl) fun _ =>
    .ite (fun _ => .of_held rfl) fun hroom => ⟨fun ⟨_, hrest⟩ => ⟨?_, hrest⟩, Nat.le_refl _⟩
  exact Nat.le_trans (Nat.le_of_eq (List.length_append (as := p.sitReqs) (bs := [(ident, t)]))) (Nat.lt_of_not_le hroom)

@[simp] theorem Pl.assertFreeze_held (p : Pl) (ident : Nat) : (p.assertFreeze ident).held = p.held := by
  unfold Pl.assertFreeze
  dsimp only
  split <;> rfl

theorem Pl.advances_captureOne (p : Pl) (t ident : Nat) : p.Advances (p.captureOne t ident) := by
  refine .trans ?_ (.of_held (Pl.queue_held ..))
  refine .trans (.trans ?_ (Pl.advances_record _ 0x0701 1 ident _ _ _ 0)) (.ite (fun _ => .of_held (Pl.sitStamp_held _)) fun _ => .refl _)
  exact .ite (fun _ => .of_held (p.assertFreeze_held ident)) fun _ => .refl p

@[simp] theorem Pl.overrunOne_held (p : Pl) (t ident : Nat) : (p.overrunOne t ident).held = p.held := (rfl)

theorem Pl.advances_sitCapture (p : Pl) (t : Nat) : p.Advances (p.sitCapture t) := by
  refine .ite (fun _ => .refl p) fun _ => .ite (fun _ => ?_) fun hfull => ?_
  · refine .trans ?_ (.of_held (forEach_held _ (fun i p => p.overrunOne_held t i) _))
    exact .of_shorter rfl (List.length_filter_le _ _) Nat.le.refl Nat.le.refl Nat.le.refl Nat.le.refl Nat.le.refl
  · refine .trans ?_ (.forEach _ (fun i p => p.advances_captureOne t i) _)
    refine ⟨fun ⟨hreqs, _, hrest⟩ => ⟨Nat.le_trans (List.length_filter_le _ _) hreqs, ?_, hrest⟩, Nat.le_refl _⟩
    exact Nat.le_trans (Nat.le_of_eq (List.length_append (as := p.images) (bs := [t]))) (Nat.lt_of_not_le hfull)

theorem Pl.advances_sitRelease (p : Pl) (ident : Nat) (retire : Bool) : p.Advances (p.sitRelease ident retire) := by
  refine .ite (fun _ => ?_) fun _ => .of_held rfl
  exact .of_shorter rfl (List.length_filter_le _ _) (List.length_filter_le _ _) Nat.le.refl Nat.le.refl Nat.le.refl Nat.le.refl

theorem Pl.advances_freezeExpiry (p : Pl) : p.Advances p.freezeExpiry :=
  .ite (fun _ => (Pl.advances_record ..).after rfl) fun _ => .refl p

/-! ### Progress monitors -/

@[simp] theorem Pl.progress_held (p : Pl) (n ht flags : Nat) : (p.progress n ht flags).held = p.held := (rfl)

@[simp] theorem Pl.report_held (p : Pl) (n : Nat) : (p.report n).held = p.held := by
  simp only [Pl.report, apply_ite Pl.held, ite_self, Pl.progress_held]

@[simp] theorem Pl.pulse_held (p : Pl) (n : Nat) : (p.pulse n).held = p.held := by
  simp only [Pl.pulse, apply_ite Pl.held, ite_self, Pl.report_held, Pl.setMon_held]

theorem Pl.advances_stallMon (p : Pl) (n : Nat) : p.Advances (p.stallMon n) := by
  refine .ite (fun _ => .refl p) fun _ => .trans (.of_held ?_) (.trans (Pl.advances_record _ 0x0703 4 n _ _ _ _) (.of_held rfl))
  rw [Pl.progress_held, Pl.setMon_held]

/-! ### Exports: seeds, exports and replay requests -/

/-- Three seeds leave at most two when the lowest epoch's goes. -/
theorem seeds_without_lowest {l : List PlSeed} (hlen : l.length ≤ 3) (hfull : ¬ l.length < 3) :
    (l.filter (fun x => x.epoch != l.foldl (fun m x => min m x.epoch) ((l.map (·.epoch)).headD 0))).length < 3 := by
  have hmin : ∀ (l : List PlSeed) (m : Nat), (∃ x ∈ l, x.epoch = l.foldl (fun m x => min m x.epoch) m) ∨ l.foldl (fun m x => min m x.epoch) m = m := by
    intro l
    induction l with
    | nil => exact fun m => .inr rfl
    | cons y l ih =>
      intro m
      rcases ih (min m y.epoch) with ⟨x, hx, he⟩ | he
      · exact .inl ⟨x, List.mem_cons_of_mem y hx, he⟩
      · rcases Nat.le_total m y.epoch with hle | hle
        · exact .inr (he.trans (Nat.min_eq_left hle))
        · exact .inl ⟨y, List.mem_cons_self, (he.trans (Nat.min_eq_right hle)).symm⟩
  obtain ⟨x, hx, he⟩ : ∃ x ∈ l, x.epoch = l.foldl (fun m x => min m x.epoch) ((l.map (·.epoch)).headD 0) := by
    rcases hmin l ((l.map (·.epoch)).headD 0) with h | h
    · exact h
    · cases l with
      | nil => exact absurd (Nat.zero_lt_succ 2) hfull
      | cons y l => exact ⟨y, List.mem_cons_self, h.symm⟩
  refine Nat.lt_of_lt_of_le (List.length_filter_lt_length_iff_exists.mpr ⟨x, hx, ?_⟩) hlen
  simp only [he, bne_self_eq_false, Bool.false_eq_true, not_false_eq_true]

theorem Pl.advances_storeSeed (p : Pl) (e : PlSeed) : p.Advances (p.storeSeed e) := by
  refine ⟨fun ⟨hreqs, himages, hseeds, hrest⟩ => ⟨hreqs, himages, ?_, hrest⟩, Nat.le_refl _⟩
  have hothers : (p.seeds.filter (fun x => x.epoch != e.epoch)).length ≤ 3 := Nat.le_trans (List.length_filter_le _ _) hseeds
  unfold Pl.storeSeed
  rw [List.length_append]
  split
  · exact ‹_›
  · exact seeds_without_lowest hothers ‹_›

theorem Pl.advances_seedFrame (p : Pl) (e : PlSeed) : p.Advances (p.seedFrame e) :=
  .ite (fun _ => p.advances_storeSeed e) fun _ => .of_held rfl

theorem Pl.advances_takeExport (p : Pl) (i : PxId) (e : PlSeed) : p.Advances (p.takeExport i e) := by
  refine .ite (fun _ => .of_held rfl) fun hroom => ⟨fun ⟨hreqs, himages, hseeds, _, _, hevs⟩ => ?_, Nat.le_refl _⟩
  have hlen := List.length_append (as := p.exps) (bs := [(⟨i, p.nextSeq, 0, none, e.deadlineUs, .none⟩ : PlExp)])
  rw [List.length_singleton] at hlen
  exact ⟨hreqs, himages, hseeds, Nat.le_trans (Nat.le_of_eq hlen) (by omega), Nat.le_trans (Nat.le_of_eq (congrArg (· + p.rpQ.length) hlen)) (by omega), hevs⟩

theorem Pl.advances_identity (p : Pl) (i : PxId) : p.Advances (p.identity i) := by
  fun_cases Pl.identity p i
  case case5 => exact p.advances_takeExport ..
  all_goals exact .of_held rfl

/-- A change of one of the exports leaves the number of exports as it is. -/
theorem Pl.advances_onExp (p : Pl) (seq : Nat) (f : PlExp → PlExp) : p.Advances (p.onExp seq f) :=
  .of_shorter rfl Nat.le.refl Nat.le.refl Nat.le.refl (Nat.le_of_eq (List.length_map ..)) Nat.le.refl Nat.le.refl

theorem Pl.advances_reidentity (p : Pl) (i : PxId) : p.Advances (p.reidentity i) := by
  unfold Pl.reidentity
  split
  · exact (p.advances_onExp ..).trans (.of_held rfl)
  · exact .of_held rfl

@[simp] theorem Pl.shipParts_held (p : Pl) (x : PlExp) (data : List Byte) (n k : Nat) : (p.shipParts x data n k).held = p.held := by
  induction k generalizing p with
  | zero => rfl
  | succ k ih => exact ih _

theorem Pl.advances_streamEnd (p : Pl) (fmt kred nout : Nat) (a e : List Byte) : p.Advances (p.streamEnd fmt kred nout a e) := by
  fun_cases Pl.streamEnd p fmt kred nout a e
  · exact .refl p
  · exact .of_held rfl
  · exact ((Pl.advances_onExp ..).trans (.of_held (Pl.shipParts_held ..))).after rfl

theorem Pl.advances_release (p : Pl) (seq : Nat) : p.Advances (p.release seq) :=
  .of_shorter rfl Nat.le.refl Nat.le.refl Nat.le.refl (List.length_filter_le _ _) Nat.le.refl Nat.le.refl

/-- A replay request takes the place one of the exports has left, so both together stay within 15. -/
theorem Pl.advances_release_replay {p : Pl} {x : PlExp} (hx : x ∈ p.exps) (code : Nat) : p.Advances ((p.release x.seq).replay x code) := by
  have hless : (p.release x.seq).exps.length < p.exps.length :=
    List.length_filter_lt_length_iff_exists.mpr ⟨x, hx, by simp only [bne_self_eq_false, Bool.false_eq_true, not_false_eq_true]⟩
  unfold Pl.replay
  refine .ite (fun _ => .trans (p.advances_release x.seq) (.of_held rfl)) fun _ => .trans (q := { p.release x.seq with rpQ := (p.release x.seq).rpQ ++ [⟨x.id, x.seq, code⟩] })
    ⟨fun ⟨hreqs, himages, hseeds, hexps, hrpQ, hevs⟩ => ⟨hreqs, himages, hseeds, Nat.le_trans (Nat.le_of_lt hless) hexps, ?_, hevs⟩, Nat.le_refl _⟩ ?_
  · have hsum : (p.release x.seq).exps.length + (p.rpQ.length + 1) ≤ 15 := by omega
    exact Nat.le_trans (Nat.le_of_eq (congrArg ((p.release x.seq).exps.length + ·) (List.length_append ..))) hsum
  · exact .ite (fun _ => .of_held rfl) fun _ => .refl _

theorem Pl.advances_judge {p : Pl} {x : PlExp} (hx : x ∈ p.exps) (code : Nat) : p.Advances (p.judge x code) := by
  refine .ite (fun _ => ?_) fun _ => .ite (fun _ => ?_) fun _ => ?_
  · exact (Pl.advances_onExp ..).trans (.of_held rfl)
  · exact (Pl.advances_release_replay (p := p.emitOut _) hx code).after rfl
  · exact Pl.advances_release ..

theorem Pl.advances_verdict (p : Pl) (b : List Byte) : p.Advances (p.verdict b) := by
  fun_cases Pl.verdict p b
  · exact .of_held rfl
  · exact .of_held rfl
  · exact Pl.advances_judge (List.mem_of_find?_eq_some ‹_›) _

theorem Pl.advances_rexGone (p : Pl) : p.Advances p.rexGone := by
  unfold Pl.rexGone
  split
  · exact .refl p
  · exact (Pl.advances_release ..).after rfl

theorem Pl.advances_slotTimeout (p : Pl) (seq : Nat) : p.Advances (p.slotTimeout seq) := by
  fun_cases Pl.slotTimeout p seq
  case case4 => exact p.advances_release seq
  all_goals exact .refl p

/-! ### Commands -/

theorem gnStep_advances {s t : State} {f : Gn → Gn} (h : gnStep s f = .next t) : s.pl.Advances t.pl := by
  cases h
  exact .refl _

theorem plDo_advances {s t : State} {f : Pl → Pl} (h : plDo s f = .next t) (hf : ∀ p : Pl, p.Advances (f p)) : s.pl.Advances t.pl := by
  cases h
  exact (hf s.pl).trans (.of_held (Pl.showPins_held _ _))

theorem plDo_held {s t : State} {f : Pl → Pl} (h : plDo s f = .next t) (hf : ∀ p : Pl, (f p).held = p.held) : s.pl.Advances t.pl :=
  plDo_advances h fun p => .of_held (hf p)

/-- A command that may reset the block keeps the bounds: a reset empties the stores. -/
theorem exec_bounded_of_mayResetBlock {s t : State} {c : Instr} (hc : MayResetBlock c) (h : exec c s = .next t) (hb : s.pl.bounded) : t.pl.bounded := by
  have hpl : ∀ {f : Pl → Pl}, plDo s f = .next t → (f s.pl).bounded → t.pl.bounded := by
    intro f hf hk
    cases hf
    exact Pl.bounded_of_held (Pl.showPins_held _ _) hk
  obtain rfl | ⟨priv, link, rfl⟩ | ⟨addr, v, priv, rfl⟩ | ⟨off, data, rfl⟩ := hc
  · exact hpl h (Pl.reset_bounded _)
  · refine hpl h ?_
    split
    · exact Pl.reset_bounded _
    · exact hb
  · exact hpl h (Pl.mpWrite_bounded _ _ _ hb)
  · refine hpl h ?_
    split
    · exact Pl.linkWrites_bounded _ _ hb
    · exact hb

/-- Every other command takes the block on: one of the block by the lemma of its operation, all others because they are the module's. -/
theorem exec_advances {s t : State} {c : Instr} (hreset : ¬ MayResetBlock c) (h : exec c s = .next t) : s.pl.Advances t.pl := by
  cases c
  case blockReset => exact absurd (.inl rfl) hreset
  case softReset a b => exact absurd (.inr (.inl ⟨a, b, rfl⟩)) hreset
  case mpRegisterWrite a v p => exact absurd (.inr (.inr (.inl ⟨a, v, p, rfl⟩))) hreset
  case regWriteFrame o d => exact absurd (.inr (.inr (.inr ⟨o, d, rfl⟩))) hreset
  case timeUnitIncrement u =>
    cases u with
    | ginath => exact gnStep_advances h
    | block => exact plDo_advances h Pl.advances_tick
  case timeRefresh u =>
    cases u with
    | ginath => exact gnStep_advances h
    | block => exact plDo_advances h Pl.advances_timeRefresh
  case timeReplyFrame u l r =>
    cases u with
    | ginath => exact gnStep_advances h
    | block => exact plDo_advances h fun p => p.advances_timeReply ..
  case frameSend o =>
    cases o with
    | port p => exact gnStep_advances h
    | block => exact plDo_advances h Pl.advances_grant
  case frameReceive i raw =>
    cases i with
    | port p => exact gnStep_advances h
    | block tags => exact plDo_held h fun p => p.frameReceive_held tags raw
  case keepaliveTimer o =>
    cases o with
    | port p => exact gnStep_advances h
    | block => exact plDo_held h Pl.keepaliveTimer_held
  case linkLoss o lane =>
    cases o with
    | port p => exact gnStep_advances h
    | block => exact plDo_held h Pl.linkLoss_held
  case recordSubmit r =>
    cases r with
    | producer prod => exact gnStep_advances h
    | hostDie r => exact plDo_advances h fun p => p.advances_hostRecord r
  case counterIncrement lanes => exact plDo_held h fun p => p.addLanes_held lanes
  case traceWord c kind data => exact plDo_held h fun p => p.traceWord_held c kind data
  case traceBurstDma => exact plDo_held h Pl.dma_held
  case stampMarkerTimer => exact plDo_held h Pl.timerStamp_held
  case traceFrameShip => exact plDo_held h Pl.shipTrace_held
  case traceExtract n => exact plDo_held h fun p => p.extract_held n
  case lpEntry c => exact plDo_held h fun p => p.lpEntry_held c
  case lpEntryTimeout c => exact plDo_held h fun p => p.lpTimeout_held c
  case lpExit c => exact plDo_held h fun p => p.lpExit_held c
  case mpRegisterRead addr priv => exact plDo_held h fun p => p.mpRead_held addr priv
  case plCntLowRead addr priv => exact plDo_held h fun p => p.mpRead_held addr priv
  case regReadFrame off n tag => exact plDo_held h fun p => p.regRead_held off n tag
  case palCommit => exact plDo_held h Pl.palCommit_held
  case palWrite off data => exact plDo_held h fun p => p.palWrite_held off data.toNat
  case samplingInstant => exact plDo_held h Pl.samplingInstant_held
  case blockSittingRequest ident ht => exact plDo_advances h fun p => p.advances_sitRequest ident ht
  case sittingCapture ht => exact plDo_advances h fun p => p.advances_sitCapture ht
  case sittingRelease ident retire => exact plDo_advances h fun p => p.advances_sitRelease ident retire
  case freezeExpiry => exact plDo_advances h Pl.advances_freezeExpiry
  case progressPulse n => exact plDo_held h fun p => p.pulse_held n
  case progressRecordSend n => exact plDo_advances h fun p => .ite (fun _ => .of_held (p.report_held n)) fun _ => .refl p
  case progressStall n => exact plDo_advances h fun p => p.advances_stallMon n
  case seedFrame => exact plDo_advances h fun p => p.advances_seedFrame _
  case pxIdentity i => exact plDo_advances h fun p => p.advances_identity i
  case pxReexportIdentity i => exact plDo_advances h fun p => p.advances_reidentity i
  case pxStreamEnd fmt kred nout a e => exact plDo_advances h fun p => p.advances_streamEnd fmt kred nout a e
  case verdictFrame b => exact plDo_advances h fun p => p.advances_verdict b
  case pxRexGone => exact plDo_advances h Pl.advances_rexGone
  case exportSlotTimeout seq => exact plDo_advances h fun p => p.advances_slotTimeout seq.toNat
  case rpAck =>
    refine plDo_advances h fun p => .ite (fun _ => ?_) fun _ => .refl p
    exact .of_shorter rfl Nat.le.refl Nat.le.refl Nat.le.refl Nat.le.refl (List.drop_sublist ..).length_le Nat.le.refl
  case watermarkKeepalive => exact plDo_advances h fun p => .ite (fun _ => .of_held (p.queue_held _)) fun _ => .refl p
  all_goals exact gnStep_advances h

end Sys2Proof.Machine

open Sys2Proof Sys2Proof.Machine

/-- Settles O59: a command that resets the block empties its stores, and every other one keeps their bounds. -/
theorem stepKeepsBlockBounds : Obligations.StepKeepsBlockBounds := by
  unfold Obligations.StepKeepsBlockBounds
  intro s t hb hstep
  cases hq : s.pending with
  | nil =>
    rw [step, hq] at hstep
    cases hstep
    exact hb
  | cons c rest =>
    have hexec : exec c { s with pending := rest } = .next t := by
      rwa [step, hq] at hstep
    by_cases hreset : MayResetBlock c
    · exact exec_bounded_of_mayResetBlock hreset hexec hb
    · exact (exec_advances hreset hexec).1 hb

/-- Settles O60: of the operations that are no reset only a cycle and a step of time change the count, and neither takes it back. -/
theorem blockTimeNeverDecreases : Obligations.BlockTimeNeverDecreases := by
  unfold Obligations.BlockTimeNeverDecreases
  intro s t hstep hno
  cases hq : s.pending with
  | nil =>
    rw [step, hq] at hstep
    cases hstep
    exact Nat.le_refl _
  | cons c rest =>
    have hexec : exec c { s with pending := rest } = .next t := by
      rwa [step, hq] at hstep
    obtain ⟨hblock, hsoft, hmp, hframe⟩ := hno c rest hq
    have hreset : ¬ MayResetBlock c := by
      rintro (rfl | ⟨a, b, rfl⟩ | ⟨a, v, p, rfl⟩ | ⟨o, d, rfl⟩)
      · exact hblock rfl
      · exact hsoft a b rfl
      · exact hmp a v p rfl
      · exact hframe o d rfl
    exact (exec_advances hreset hexec).2

end

section
/-! SUPPORT. The outcome of a command, once what its operation does to its side of the machine is known. -/

namespace Sys2Proof.Machine

/-- A command of the module answers what its operation makes of the module. -/
theorem gnStep_eq {s : State} {f : Gn → Gn} {g : Gn} (h : f s.gn = g) : gnStep s f = .next { s with gn := g } := by
  rw [← h]
  rfl

/-- Its operation changes nothing. -/
theorem gnStep_self {s : State} {f : Gn → Gn} (h : f s.gn = s.gn) : gnStep s f = .next s := gnStep_eq h

/-- Its operation is done under a condition that holds. -/
theorem gnStep_if {s : State} {c : Gn → Bool} {f : Gn → Gn} {g : Gn} (hc : c s.gn = true) (h : f s.gn = g) :
    gnStep s (fun g => if c g then f g else g) = .next { s with gn := g } := gnStep_eq ((if_pos hc).trans h)

/-- Its operation is done under a condition that does not hold. -/
theorem gnStep_if_not {s : State} {c : Gn → Bool} {f : Gn → Gn} (hc : c s.gn = false) :
    gnStep s (fun g => if c g then f g else g) = .next s := gnStep_self (if_neg (by simp [hc]))

/-- An admitted descriptor's operation runs on the module in which the descriptor has begun. -/
theorem gnStep_desc {s : State} {op : Nat} {r : OpRule} {h : DescHdr} {body : Gn → Gn} {g : Gn} (a : s.gn.admits op r h = true)
    (hb : body (s.gn.begun op h) = g) : gnStep s (fun g => g.desc op r h body) = .next { s with gn := g } :=
  gnStep_eq ((Gn.desc_admitted body a).trans hb)

/-- A command of the block answers what its operation makes of the block, with the pins shown. -/
theorem plDo_eq {s : State} {f : Pl → Pl} {p : Pl} (h : f s.pl = p) : plDo s f = .next { s with pl := s.pl.showPins p } := by
  rw [← h]
  rfl

/-- An operation that changes nothing in the block shows no new pin. -/
theorem plDo_self {s : State} {f : Pl → Pl} (h : f s.pl = s.pl) : plDo s f = .next s := by
  rw [plDo_eq h, Pl.showPins_eq s.pl s.pl rfl rfl rfl rfl]

end Sys2Proof.Machine

open Sys2Proof Sys2Proof.Machine

/-- Settles O57: both cases are the two equations of `step`. -/
theorem stepRunsFront : Obligations.StepRunsFront := by
  unfold Obligations.StepRunsFront
  refine ⟨fun s c rest => rfl, fun s hs => ?_⟩
  rw [step, hs]

end

section
/-! Hall time (R158 to R163): one cycle of a time unit, a step of the module's time forward, the frames of an exchange. -/

namespace Sys2Proof.Machine

/-- A value clamped to a range about 0 lies in it. -/
theorem clampI_le {m : Int} (hm : 0 ≤ m) (x : Int) : -m ≤ clampI m x ∧ clampI m x ≤ m := by
  unfold clampI
  omega

/-- A cycle with no backward step held (R158, R161). -/
theorem TimeSt.tick_of_run {t : TimeSt} (h : t.hold = none) : t.tick
    = { t with fix := t.fix + ((t.inc : Int) + clampI t.ppm100 t.slew).toNat, slew := t.slew - clampI t.ppm100 t.slew } := by
  rw [TimeSt.tick, h]

/-- A cycle in which the source's time has not passed the count yet (R161). -/
theorem TimeSt.tick_of_held {t : TimeSt} {x : Nat} (h : t.hold = some x) (hx : x + t.inc ≤ t.fix) : t.tick = { t with hold := some (x + t.inc) } := by
  rw [TimeSt.tick, h]
  exact if_neg (Nat.not_lt.2 hx)

/-- A cycle in which the source's time passes the count (R161). -/
theorem TimeSt.tick_of_passed {t : TimeSt} {x : Nat} (h : t.hold = some x) (hx : t.fix < x + t.inc) :
    t.tick = { t with fix := x + t.inc, hold := none } := by
  rw [TimeSt.tick, h]
  exact if_pos hx

/-- Time quality is shown in registers only. -/
@[simp] theorem Gn.setTq_tm (g : Gn) : g.setTq.tm = g.tm := rfl
@[simp] theorem Gn.setTq_mem (g : Gn) : g.setTq.mem = g.mem := rfl

/-- Setting the time steps the count. -/
theorem Gn.setTime_tm (g : Gn) (d : Int) : (g.setTime d).tm = { g.tm.stepBy d with offLim := 0, unq := 0, holdSince := none } := rfl
@[simp] theorem Gn.setTime_mem (g : Gn) (d : Int) : (g.setTime d).mem = g.mem := rfl

/-- A step forward to a count takes exactly that count, with nothing held (R161). -/
theorem TimeSt.stepBy_forward (t : TimeSt) {n : Nat} (h : t.fix ≤ n) : t.stepBy ((n : Int) - t.fix) = { t with fix := n, slew := 0, hold := none } := by
  have hnat : ((n : Int) - t.fix).toNat = n - t.fix := by omega
  rw [TimeSt.stepBy, if_pos (by omega), hnat, Nat.add_sub_cancel' h]

/-- TIME_SET at a hall root without valid time sets the count (R160). -/
theorem Gn.timeSet_root {g : Gn} {t : Topology} (h : DescHdr) (ht : Nat) (ho : g.rd.topo = some t) (hr : t.top = true) (hv : g.timeValid = false) :
    g.timeSet h ht = (((g.setTime ((ht * nsFix : Nat) - g.tm.fix : Int)).wr F.tmStat_src 0).setTq).complete 0x02 h stOk [] := by
  rw [Gn.timeSet, ho]
  exact if_neg (by simp [hr, hv])

/-- A module that runs has power. -/
theorem Gn.powered_of_alive {g : Gn} (h : g.alive = true) : g.powered = true := by
  simp only [Gn.alive, Bool.and_eq_true] at h
  exact h.1

/-- Without a maintenance stop an increment of the time unit has no step of one to make. -/
theorem Gn.maintGo_none {g : Gn} (h : g.sc.maint = none) : g.maintGo = g := by rw [Gn.maintGo, h]

/-- A cycle of the module's time unit outside a maintenance stop. -/
theorem Gn.tick_maintGo {g : Gn} (ha : g.alive = true) (hm : g.sc.maint = none) : g.tick.maintGo = Gn.setTq { g with tm := g.tm.tick } := by
  rw [Gn.tick, if_pos (Gn.powered_of_alive ha)]
  exact Gn.maintGo_none hm

/-- A reply on a port where the module is the child settles the request that waits for it. -/
theorem Gn.timeReply_taken {g : Gn} {p xid : Nat} {r : Nat × Nat × Nat} (x : Xchg) (hp : 32 ≤ p ∨ g.childPort p = true)
    (hr : g.tm.reqs.find? (fun e => e.1 == p && e.2.1 == xid) = some r) :
    let t := { g.tm with reqs := g.tm.reqs.filter (fun e => e.1 != p) }
    let t1 := t.addExch (mkExch p (g.asymOf (.port p)) { x with t1 := r.2.2, t4 := g.tm.frac })
    let need := if g.rg (F.tmPort_state p) = 2 then 8 else 32
    let g1 : Gn := { g with tm := t1 }
    g.timeReply (.port p) xid x = if (t1.xs.filter (fun e => e.link == p)).length < need then g1.timeAsk p else g1 := by
  have hchild : ¬ (decide (p < 32) && !g.childPort p) = true := by
    rcases hp with h | h
    · simp [Nat.not_lt.2 h]
    · simp [h]
  dsimp only [Gn.timeReply]
  rw [if_neg hchild, hr]

/-- A reply that no request waits for is dropped. -/
theorem Gn.timeReply_stray {g : Gn} {p xid : Nat} (x : Xchg) (hp : 32 ≤ p ∨ g.childPort p = true)
    (hr : g.tm.reqs.find? (fun e => e.1 == p && e.2.1 == xid) = none) : g.timeReply (.port p) xid x = g := by
  have hchild : ¬ (decide (p < 32) && !g.childPort p) = true := by
    rcases hp with h | h
    · simp [Nat.not_lt.2 h]
    · simp [h]
  dsimp only [Gn.timeReply]
  rw [if_neg hchild, hr]

/-- A reply on a port to a child module is that child's exchange. -/
theorem Gn.timeReply_child {g : Gn} {p : Nat} (xid : Nat) (x : Xchg) (hp : p < 32) (hc : g.childPort p = false) :
    g.timeReply (.port p) xid x = { g with tm := g.tm.addExch (mkExch p (g.asymOf (.port p)) x) } := by
  dsimp only [Gn.timeReply]
  exact if_pos (by simp [hp, hc])

/-- A request on a port is answered once time is valid. -/
theorem Gn.timeRequest_port {g : Gn} {p : Nat} (xid : Nat) (ha : g.alive = true) (hv : g.timeValid = true) (hp : g.portRx p = true) :
    g.timeRequest (.port p) xid = g.setPort p { g.port p with sendQ := (g.port p).sendQ
      ++ [g.newFrame (.port p) 0x03 (leBytes 8 (g.tm.fix / nsFix) ++ leBytes 2 (g.tm.fix % nsFix / 2 ^ 16) ++ leBytes 2 xid ++ leBytes 10 0)] } := by
  dsimp only [Gn.timeRequest]
  rw [if_neg (by simp [ha, hv]), if_pos (by simp [hp])]

/-- A request of a mapped die site is answered on its port. -/
theorem Gn.timeRequest_site {g : Gn} {x : Nat} (xid : Nat) (ha : g.alive = true) (hv : g.timeValid = true) (hm : g.siteMapped x = true)
    (hp : g.portRx (g.sitePort x) = true) :
    g.timeRequest (.site x) xid = g.setPort (g.sitePort x) { g.port (g.sitePort x) with sendQ := (g.port (g.sitePort x)).sendQ
      ++ [g.newFrame (.site x) 0x03 (leBytes 8 (g.tm.fix / nsFix) ++ leBytes 2 (g.tm.fix % nsFix / 2 ^ 16) ++ leBytes 2 xid ++ leBytes 10 0)] } := by
  dsimp only [Gn.timeRequest]
  rw [if_neg (by simp [ha, hv]), if_pos (by simp [hp, hm])]

/-- No request is answered before time is valid. -/
theorem Gn.timeRequest_invalid {g : Gn} (l : LinkRef) (xid : Nat) (hv : g.timeValid = false) : g.timeRequest l xid = g :=
  if_pos (by simp [hv])

end Sys2Proof.Machine

open Sys2Proof Sys2Proof.Machine

/-- Settles O29: the three branches of a cycle, the slew clamped to one part in 10,000 of the increment. -/
theorem cycleRisesWithinSlewLimit : Obligations.CycleRisesWithinSlewLimit := by
  unfold Obligations.CycleRisesWithinSlewLimit
  intro t
  refine ⟨t.fix_le_tick, fun hrun => ?_, fun x hx hle => ?_, fun x hx hlt => ?_⟩
  · have hadj := clampI_le (m := t.ppm100) (by unfold TimeSt.ppm100; omega) t.slew
    rw [TimeSt.tick_of_run hrun]
    generalize clampI t.ppm100 t.slew = adj at hadj
    unfold TimeSt.ppm100 at hadj
    dsimp only
    omega
  · rw [TimeSt.tick_of_held hx hle]
    exact ⟨rfl, rfl⟩
  · rw [TimeSt.tick_of_passed hx hlt]
    exact ⟨rfl, rfl⟩

/-- Settles O28: the step that TIME_SET makes is one forward, to the descriptor's value, and the completion leaves time alone. -/
theorem timeSetSetsHallTime : Obligations.TimeSetSetsHallTime := by
  unfold Obligations.TimeSetSetsHallTime
  intro s h ht t hadm htopo htop hval hsmall hle
  have htm : ((s.gn.begun 0x02 h).timeSet h ht).tm
      = { (s.gn.begun 0x02 h).tm with fix := ht * nsFix, slew := 0, hold := none, offLim := 0, unq := 0, holdSince := none } := by
    rw [Gn.timeSet_root h ht htopo htop hval]
    simp only [Gn.complete_tm, Gn.setTq_tm, Gn.wr_tm, Gn.setTime_tm, TimeSt.stepBy_forward _ hle]
  refine ⟨_, gnStep_desc hadm rfl, ?_, ?_, ?_, rfl, rfl⟩
  · show ((s.gn.begun 0x02 h).timeSet h ht).tm.ht = ht
    have hpos : 0 < nsFix := by decide
    rw [htm, TimeSt.ht, Nat.mul_div_cancel _ hpos, Nat.mod_eq_of_lt hsmall]
  · show ((s.gn.begun 0x02 h).timeSet h ht).tm.hold = none
    rw [htm]
  · show ((s.gn.begun 0x02 h).timeSet h ht).mem = s.gn.mem
    rw [Gn.timeSet_root h ht htopo htop hval]
    simp

/-- Settles O27: each command is one branch of its operation. -/
theorem timeCommandsComplete : Obligations.TimeCommandsComplete := by
  unfold Obligations.TimeCommandsComplete
  refine ⟨fun s h ht t hadm ho hr hv => gnStep_desc hadm (Gn.timeSet_root h ht ho hr hv),
    fun s ha => ⟨fun hm => gnStep_eq (Gn.tick_maintGo ha hm), rfl⟩, fun s => ⟨rfl, rfl⟩,
    fun s p xid x r ha hp hr => gnStep_if ha (Gn.timeReply_taken x hp hr),
    fun s p xid x ha hp hr => gnStep_if ha (Gn.timeReply_stray x hp hr),
    fun s p xid x ha hp hc => gnStep_if ha (Gn.timeReply_child xid x hp hc), fun s l xid x => rfl,
    fun s p xid t1 frac ha hv hp => gnStep_eq (Gn.timeRequest_port xid ha hv hp),
    fun s x xid t1 frac ha hv hm hp => gnStep_eq (Gn.timeRequest_site xid ha hv hm hp),
    fun s l xid t1 frac hv => gnStep_self (Gn.timeRequest_invalid l xid hv)⟩

end

section
/-! The clock islands (R59, R168): a stretched cycle, a stop that marks what the crossings hold, a resume. -/

namespace Sys2Proof.Machine

/-- A counter that saturates changes no other field. -/
theorem Gn.rg_addSat_ne (g : Gn) {f e : FRef} (n : Nat) (h : e.key ≠ f.key) : (g.addSat f n).rg e = g.rg e := Gn.rg_wr_ne _ _ h
theorem Gn.rg_inc_ne (g : Gn) {f e : FRef} (h : e.key ≠ f.key) : (g.inc f).rg e = g.rg e := Gn.rg_addSat_ne _ _ h

@[simp] theorem Gn.isl_setIsl (g : Gn) (i j : Nat) (x : IslSt) : (g.setIsl i x).isl j = if j = i then x else g.isl j := by
  simp [Gn.isl, Gn.setIsl, SMap.get_set]

/-- A counter leaves the watch over the islands alone. -/
@[simp] theorem Gn.isl_inc (g : Gn) (f : FRef) (i : Nat) : (g.inc f).isl i = g.isl i := rfl

/-- The first cycle that is too long begins a stretch. -/
theorem Gn.islandStretch_begins {g : Gn} {i c : Nat} (hc : 5000000 < c * g.islMhz i * 4) (hs : (g.isl i).stretched = false) :
    g.islandStretch i c = (g.inc (F.isl_stretch i)).setIsl i { g.isl i with stretched := true, good := 0, longest := max (g.isl i).longest c } := by
  dsimp only [Gn.islandStretch]
  rw [if_pos hc, if_neg (by simp [hs])]

/-- A good cycle of a stretched island counts, and the 64th ends the stretch. -/
theorem Gn.islandStretch_good {g : Gn} {i c : Nat} (hc : c * g.islMhz i * 4 ≤ 5000000) (hs : (g.isl i).stretched = true) :
    g.islandStretch i c = if 64 ≤ (g.isl i).good + 1 then g.setIsl i { g.isl i with stretched := false, good := 64, longest := 0 }
      else g.setIsl i { g.isl i with good := (g.isl i).good + 1 } := by
  dsimp only [Gn.islandStretch]
  rw [if_neg (Nat.not_lt.2 hc), if_pos hs]

/-- What a stop does to an entry of a crossing: one not held since before is held since the last edge. -/
def XEnt.mark (last : Nat) (e : XEnt) : XEnt :=
  match e with
  | .data b s d none => .data b s d (some last)
  | .event r none => .event r (some last)
  | e => e

/-- What a stop does to a crossing. -/
def markCrossing (i last : Nat) (e : Nat × List XEnt) : Nat × List XEnt := if e.1 / 2 = i then (e.1, e.2.map (XEnt.mark last)) else e

/-- The stop of a running island is counted and dated, and marks what its crossings hold. -/
theorem Gn.stopIsland_running {g : Gn} {i : Nat} (last : Nat) (h : (g.isl i).stoppedAt = none) :
    g.stopIsland i last = { (g.inc (F.isl_stops i)).setIsl i { g.isl i with stoppedAt := some last } with
      ar := { g.ar with cross := g.ar.cross.map (markCrossing i last) } } := by
  dsimp only [Gn.stopIsland]
  rw [h]
  rfl

/-- An island that stands already does not stop again. -/
theorem Gn.stopIsland_stopped {g : Gn} {i t : Nat} (last : Nat) (h : (g.isl i).stoppedAt = some t) : g.stopIsland i last = g := by
  dsimp only [Gn.stopIsland]
  rw [h]

theorem markCrossing_key (i last : Nat) (e : Nat × List XEnt) : (markCrossing i last e).1 = e.1 := by
  unfold markCrossing
  split <;> rfl

/-- The crossings of other islands are left alone. -/
theorem find?_markCrossing {i k : Nat} (last : Nat) (cs : List (Nat × List XEnt)) (hk : k / 2 ≠ i) :
    (cs.map (markCrossing i last)).find? (fun e => e.1 == k) = cs.find? (fun e => e.1 == k) := by
  have hkeys : (fun e : Nat × List XEnt => e.1 == k) ∘ markCrossing i last = fun e => e.1 == k := by
    funext e
    simp [markCrossing_key]
  rw [List.find?_map, hkeys]
  cases hfound : cs.find? (fun e => e.1 == k) with
  | none => rfl
  | some e =>
    have hek : e.1 = k := by simpa using List.find?_some hfound
    exact congrArg some (if_neg (by rwa [hek]))

/-- An entry that a stop has marked is held. -/
theorem XEnt.mark_held (last : Nat) (e : XEnt) : match e.mark last with
    | .data _ _ _ l => l ≠ none
    | .event _ l => l ≠ none := by
  cases e with
  | data b s d held => cases held <;> simp [XEnt.mark]
  | event r held => cases held <;> simp [XEnt.mark]

/-- A running island that is no longer stopped resumes: the gap goes into its register, the record to the recorder. -/
theorem Gn.islandResume_running {g : Gn} {i last : Nat} (h : (g.isl i).stoppedAt = some last) (hg : g.flag (F.pwIsl_gated i) = false) :
    g.islandResume i = ((g.setIsl i { g.isl i with stoppedAt := none }).wr (F.isl_lastGapNs i) (min (2 ^ 32 - 1) (g.now - last))).record prodTime
      (Config.recCode 1).toNat 2 i (lo32 last) (hi32 last) (lo32 g.now) (hi32 g.now) := by
  dsimp only [Gn.islandResume]
  rw [h]
  exact if_neg (by simp [hg])

/-- A record that finds room in the outbox is the one change but the arbiters' requests. -/
theorem Gn.record_room (g : Gn) (prod code sev source p0 p1 p2 p3 : Nat) (h : g.ev.outbox.length < 14) :
    ∃ it arbs, g.record prod code sev source p0 p1 p2 p3
      = { g with ev := { g.ev with outbox := g.ev.outbox ++ [(prod, it)] }, lk := { g.lk with arbs := arbs } } :=
  ⟨_, g.submit_room prod _ h⟩

end Sys2Proof.Machine

open Sys2Proof Sys2Proof.Machine

/-- Settles O30: each command is one branch of its operation; the marks of a stop go crossing by crossing. -/
theorem islandCommandsComplete : Obligations.IslandCommandsComplete := by
  unfold Obligations.IslandCommandsComplete
  refine ⟨fun s i c hc hs => ?_, fun s i c hc hs hg => gnStep_eq ?_, fun s i c hc hs hg => gnStep_eq ?_, fun s i hstop => ?_,
    fun s i last hstop hgate hroom => ?_⟩
  · refine ⟨_, gnStep_eq (Gn.islandStretch_begins hc hs), rfl, ?_, fun j hj => ?_, fun f hf => Gn.rg_inc_ne _ hf, rfl⟩
    · simp
    · simp [hj]
  · rw [Gn.islandStretch_good hc hs, if_neg (by omega)]
  · rw [Gn.islandStretch_good hc hs, if_pos (by omega)]
  · refine ⟨_, gnStep_eq (Gn.stopIsland_running _ hstop), rfl, ?_, rfl, rfl, fun k hk => find?_markCrossing _ _ hk, fun e he hei x hx => ?_⟩
    · exact (Gn.isl_setIsl _ _ _ _).trans (if_pos rfl)
    · obtain ⟨e0, -, rfl⟩ := List.mem_map.1 he
      have hi : e0.1 / 2 = i := by rwa [markCrossing_key] at hei
      rw [markCrossing, if_pos hi] at hx
      obtain ⟨y, -, rfl⟩ := List.mem_map.1 hx
      exact y.mark_held _
  · obtain ⟨it, arbs, hrec⟩ := Gn.record_room
      ((s.gn.setIsl i { s.gn.isl i with stoppedAt := none }).wr (F.isl_lastGapNs i) (min (2 ^ 32 - 1) (s.gn.now - last))) prodTime
      (Config.recCode 1).toNat 2 i (lo32 last) (hi32 last) (lo32 s.gn.now) (hi32 s.gn.now) hroom
    refine ⟨_, gnStep_eq ((Gn.islandResume_running hstop hgate).trans hrec), rfl, ?_, ?_, ?_, rfl⟩
    · exact congrArg IslSt.stoppedAt ((Gn.isl_setIsl s.gn i i _).trans (if_pos rfl))
    · refine (Gn.rg_wr_self _ _ _).trans (Nat.mod_eq_of_lt ?_)
      show min (2 ^ 32 - 1) (s.gn.now - last) < 2 ^ 32
      omega
    · simp

end

section
/-! Power states (R309): the loops over the 16 islands at the entry into Idle and at its end. -/

namespace Sys2Proof.Machine

/-- What one round of a loop establishes for its own index, and every round keeps for every index, holds after the loop for all of them. -/
theorem forEach_each {α ι : Type} {Q : ι → α → Prop} (l : List ι) {f : ι → α → α} (hest : ∀ i y, Q i (f i y)) (hkeep : ∀ i j y, Q j y → Q j (f i y)) :
    ∀ x, ∀ i ∈ l, Q i (forEach l f x) := by
  induction l with
  | nil =>
    intro x i hi
    cases hi
  | cons k l ih =>
    intro x i hi
    rcases List.mem_cons.1 hi with rfl | hi
    · exact forEach_keeps (Q i) l f (fun j y => hkeep j i y) _ (hest i x)
    · exact ih (f k x) i hi

/-- A one-bit field that is 1 stays so when a one-bit field is set. -/
theorem Gn.flag_put_true {g : Gn} {e f : FRef} (hf : f.len = 1) (h : g.flag e = true) : (g.put f true).flag e = true := by
  by_cases hk : e.key = f.key
  · simp [Gn.flag, Gn.put, Gn.rg_wr, hk, hf, b2n]
  · rw [Gn.flag_put_ne g true hk, h]

/-- A one-bit field that is 0 stays so when a field is cleared. -/
theorem Gn.flag_put_false {g : Gn} {e : FRef} (f : FRef) (h : g.flag e = false) : (g.put f false).flag e = false := by
  by_cases hk : e.key = f.key
  · simp [Gn.flag, Gn.put, Gn.rg_wr, hk, b2n]
  · rw [Gn.flag_put_ne g false hk, h]

/-- Flags are read through the registers only. -/
theorem Gn.flag_congr {g k : Gn} {f : FRef} (h : g.rg f = k.rg f) : g.flag f = k.flag f := by rw [Gn.flag, Gn.flag, h]

/-- A record below severity 6 writes at most the count of records dropped of its severity. -/
theorem Gn.rg_submit_mild (g : Gn) (prod : Nat) {it : RecItem} {f : FRef} (hs : it.r.sev < 6) (hf : f.key ≠ (F.evCnt_drop it.r.sev).key) :
    (g.submit prod it).rg f = g.rg f := by
  rcases g.submit_cases prod it with ⟨arbs, h⟩ | h | ⟨hsev, -⟩
  · rw [h]
    rfl
  · rw [h, Gn.rg_inc_ne _ hf]
  · exact absurd hs (Nat.not_lt.2 hsev)

theorem Gn.rg_record_mild (g : Gn) (prod code : Nat) {sev : Nat} (source p0 p1 p2 p3 : Nat) {f : FRef} (hs : sev < 6)
    (hf : f.key ≠ (F.evCnt_drop sev).key) : (g.record prod code sev source p0 p1 p2 p3).rg f = g.rg f := Gn.rg_submit_mild g prod hs hf

/-- The stop of an island writes its count of stops only. -/
theorem Gn.rg_stopIsland_ne (g : Gn) (i last : Nat) {f : FRef} (hf : f.key ≠ (F.isl_stops i).key) : (g.stopIsland i last).rg f = g.rg f := by
  cases h : (g.isl i).stoppedAt with
  | none => rw [Gn.stopIsland_running last h]; exact Gn.rg_inc_ne _ hf
  | some t => rw [Gn.stopIsland_stopped last h]

@[simp] theorem Gn.stopIsland_mem (g : Gn) (i last : Nat) : (g.stopIsland i last).mem = g.mem := by
  cases h : (g.isl i).stoppedAt with
  | none => rw [Gn.stopIsland_running last h]; rfl
  | some t => rw [Gn.stopIsland_stopped last h]

/-- An island that is stopped stands; the others stand as they stood. -/
theorem Gn.isl_stopIsland (g : Gn) (i j last : Nat) (h : j = i ∨ (g.isl j).stoppedAt.isSome = true) : ((g.stopIsland i last).isl j).stoppedAt.isSome = true := by
  cases hi : (g.isl i).stoppedAt with
  | some t =>
    rw [Gn.stopIsland_stopped last hi]
    rcases h with rfl | h
    · rw [hi]; rfl
    · exact h
  | none =>
    rw [Gn.stopIsland_running last hi]
    show (((g.inc (F.isl_stops i)).setIsl i { g.isl i with stoppedAt := some last }).isl j).stoppedAt.isSome = true
    rw [Gn.isl_setIsl]
    split
    · rfl
    · exact h.resolve_left ‹_›

/-- Gating leaves every island gated and stopped (R309). -/
theorem Gn.gateIslands_all (g : Gn) : ∀ i ∈ List.range 16, g.gateIslands.flag (F.pwIsl_gated i) = true ∧ (g.gateIslands.isl i).stoppedAt.isSome = true := by
  have hne : ∀ i j, (F.pwIsl_gated j).key ≠ (F.isl_stops i).key := by
    intro i j
    simp only [FRef.key, F.pwIsl_gated, F.isl_stops]
    omega
  refine forEach_each (Q := fun i (k : Gn) => k.flag (F.pwIsl_gated i) = true ∧ (k.isl i).stoppedAt.isSome = true) _ (fun i k => ?_) (fun i j k hk => ?_) g
  · refine ⟨?_, Gn.isl_stopIsland _ i i _ (.inl rfl)⟩
    rw [Gn.flag_congr (Gn.rg_stopIsland_ne _ i _ (hne i i))]
    exact Gn.flag_put_self _ _ _ rfl
  · refine ⟨?_, Gn.isl_stopIsland _ i j _ (.inr hk.2)⟩
    rw [Gn.flag_congr (Gn.rg_stopIsland_ne _ i _ (hne i j))]
    exact Gn.flag_put_true rfl hk.1

@[simp] theorem Gn.gateIslands_mem (g : Gn) : g.gateIslands.mem = g.mem :=
  forEach_keeps (fun k : Gn => k.mem = g.mem) _ _ (fun i k hk => by rw [Gn.stopIsland_mem]; exact hk) g rfl

/-- Idle is shown, and the gates and the watch over the islands are those of the gating. -/
theorem Gn.enterIdle_pstate (g : Gn) : g.enterIdle.rg F.pwState_pstate = 1 := Gn.rg_wr_self _ _ 1

theorem Gn.enterIdle_gated (g : Gn) (i : Nat) : g.enterIdle.flag (F.pwIsl_gated i) = g.gateIslands.flag (F.pwIsl_gated i) := by
  refine Gn.flag_wr_ne _ _ ?_
  simp only [FRef.key, F.pwIsl_gated, F.pwState_pstate]
  omega

theorem Gn.enterIdle_isl (g : Gn) (i : Nat) : g.enterIdle.isl i = g.gateIslands.isl i := by rw [Gn.isl, Gn.enterIdle, Gn.wr_isls, Gn.isl]

theorem Gn.enterIdle_mem (g : Gn) : g.enterIdle.mem = g.mem := by rw [Gn.enterIdle, Gn.wr_mem, Gn.gateIslands_mem]

/-- One island's exit from a power state. -/
def Gn.ungateIsland (i : Nat) (g : Gn) : Gn :=
  if g.flag (F.pwIsl_gated i) then
    let isl := SMap.get (fun _ => (⟨64, false, 0, none⟩ : IslSt)) g.isls i
    let last := isl.stoppedAt.getD g.now
    let g := (g.put (F.pwIsl_gated i) false).wr (F.isl_lastGapNs i) (min (2 ^ 32 - 1) (g.now - last))
    let g := { g with isls := SMap.set (fun _ => (⟨64, false, 0, none⟩ : IslSt)) g.isls i { isl with stoppedAt := none } }
    g.record prodTime (Config.recCode 1).toNat 1 i (lo32 last) (hi32 last) (lo32 g.now) (hi32 g.now)
  else g

/-- The end of Idle takes the islands one by one. -/
theorem Gn.wake_idle {g : Gn} (h : g.rg F.pwState_pstate = 1) : g.wake = forEach (List.range 16) Gn.ungateIsland (g.wr F.pwState_pstate 0) :=
  if_pos (.inl h)

/-- Of the registers an island's exit writes its gate, its gap, and the count of dropped records of its severity. -/
theorem Gn.rg_ungateIsland {g : Gn} {i : Nat} {f : FRef} (hg : g.flag (F.pwIsl_gated i) = true) (h2 : f.key ≠ (F.isl_lastGapNs i).key)
    (h3 : f.key ≠ (F.evCnt_drop 1).key) : (g.ungateIsland i).rg f = (g.put (F.pwIsl_gated i) false).rg f := by
  unfold Gn.ungateIsland
  rw [if_pos hg]
  simp only [Gn.rg_record_mild _ _ _ _ _ _ _ _ (show 1 < 6 by decide) h3, Gn.rg_set_isls, Gn.rg_wr_ne _ _ h2]

/-- An island that is not gated has nothing to end. -/
theorem Gn.ungateIsland_running {g : Gn} {i : Nat} (hg : g.flag (F.pwIsl_gated i) = false) : g.ungateIsland i = g := if_neg (by simp [hg])

theorem Gn.rg_ungateIsland_ne (g : Gn) (i : Nat) {f : FRef} (h1 : f.key ≠ (F.pwIsl_gated i).key) (h2 : f.key ≠ (F.isl_lastGapNs i).key)
    (h3 : f.key ≠ (F.evCnt_drop 1).key) : (g.ungateIsland i).rg f = g.rg f := by
  cases hg : g.flag (F.pwIsl_gated i) with
  | true => rw [Gn.rg_ungateIsland hg h2 h3, Gn.rg_put_ne _ _ h1]
  | false => rw [Gn.ungateIsland_running hg]

/-- Its gate is open after it, and those open before stay open. -/
theorem Gn.ungateIsland_open (g : Gn) (i j : Nat) (h : j = i ∨ g.flag (F.pwIsl_gated j) = false) : (g.ungateIsland i).flag (F.pwIsl_gated j) = false := by
  have h2 : (F.pwIsl_gated j).key ≠ (F.isl_lastGapNs i).key := by
    simp only [FRef.key, F.pwIsl_gated, F.isl_lastGapNs]
    omega
  have h3 : (F.pwIsl_gated j).key ≠ (F.evCnt_drop 1).key := by
    simp only [FRef.key, F.pwIsl_gated, F.evCnt_drop]
    omega
  cases hg : g.flag (F.pwIsl_gated i) with
  | true =>
    rw [Gn.flag_congr (Gn.rg_ungateIsland hg h2 h3)]
    rcases h with rfl | h
    · exact Gn.flag_put_self _ _ _ rfl
    · exact Gn.flag_put_false _ h
  | false =>
    rw [Gn.ungateIsland_running hg]
    rcases h with rfl | h
    · exact hg
    · exact h

/-- A module that is quiet and allowed to enters Idle by itself. -/
theorem exec_autoIdle {s : State} (ha : s.gn.alive = true) (hr : s.gn.ready = true) (hi : s.gn.flag F.pwState_autoIdle = true)
    (hp : s.gn.rg F.pwState_pstate = 0) (hq : s.gn.quiet = true) (hd : s.gn.rg F.scStat_dbg ≠ 2) :
    exec .autoIdle s = .next { s with gn := s.gn.enterIdle } := gnStep_if (by simp [ha, hr, hi, hp, hq, hd]) rfl

/-- A wake ends Idle. -/
theorem exec_idleWake {s : State} (ha : s.gn.alive = true) (hp : s.gn.rg F.pwState_pstate = 1) :
    exec .idleWake s = .next { s with gn := s.gn.wake } := gnStep_if (by simp [ha, hp]) rfl

end Sys2Proof.Machine

open Sys2Proof Sys2Proof.Machine

/-- Settles O6: gating and ungating go over the 16 islands, and no round undoes another's. -/
theorem idleGatesEveryIsland : Obligations.IdleGatesEveryIsland := by
  unfold Obligations.IdleGatesEveryIsland
  refine ⟨fun s ha hr hi hp hq hd => ?_, fun s ha hp => ?_⟩
  · have hall := s.gn.gateIslands_all
    exact ⟨_, exec_autoIdle ha hr hi hp hq hd, s.gn.enterIdle_pstate, fun i hi => (s.gn.enterIdle_gated i).trans (hall i (List.mem_range.2 hi)).1,
      fun i hi => by rw [Gn.enterIdle_isl]; exact (hall i (List.mem_range.2 hi)).2, s.gn.enterIdle_mem, rfl⟩
  · refine ⟨_, exec_idleWake ha hp, ?_, fun i hi => ?_, s.gn.wake_mem, rfl⟩
    · show s.gn.wake.rg F.pwState_pstate = 0
      rw [Gn.wake_idle hp]
      refine forEach_keeps (fun k : Gn => k.rg F.pwState_pstate = 0) _ _ (fun i k hk => ?_) _ (Gn.rg_wr_self _ _ 0)
      refine (Gn.rg_ungateIsland_ne k i ?_ ?_ (by decide)).trans hk
      · simp only [FRef.key, F.pwIsl_gated, F.pwState_pstate]
        omega
      · simp only [FRef.key, F.isl_lastGapNs, F.pwState_pstate]
        omega
    · show s.gn.wake.flag (F.pwIsl_gated i) = false
      rw [Gn.wake_idle hp]
      exact forEach_each (Q := fun i (k : Gn) => k.flag (F.pwIsl_gated i) = false) _ (fun i k => k.ungateIsland_open i i (.inl rfl))
        (fun i j k hk => k.ungateIsland_open i j (.inr hk)) _ i (List.mem_range.2 hi)

/-- Settles O5: the descriptors are admitted, and the conditions of the two commands hold. -/
theorem powerStateCommandsComplete : Obligations.PowerStateCommandsComplete := by
  unfold Obligations.PowerStateCommandsComplete
  exact ⟨fun s h hadm => ⟨gnStep_desc hadm rfl, gnStep_desc hadm rfl, fun hb => gnStep_desc hadm (if_neg (by simp [hb]))⟩,
    fun s ha hr hi hp hq hd => exec_autoIdle ha hr hi hp hq hd, fun s ha hp => exec_idleWake ha hp⟩

end

section
/-! Module resets (R285 to R288) and the life of a dump (R291, R292). -/

namespace Sys2Proof.Machine

/-- What a reset shows of the phase reached goes out on the UART (R369). -/
theorem Gn.phaseShown_out (g0 g : Gn) : ∃ o, g0.phaseShown g = { g with out := o } := by
  unfold Gn.phaseShown
  split
  · exact ⟨g.out, rfl⟩
  · exact ⟨_, rfl⟩

/-- A reset goes at once while no dump is in progress (R287). -/
theorem Gn.resetAfterDump_free {g : Gn} (cause : Nat) (h1 : g.rg F.hgDump_state ≠ 1) (h2 : g.rg F.hgDump_state ≠ 2) : g.resetAfterDump cause = g.resetGo cause :=
  if_neg (by simp [h1, h2])

/-- The steps of a warm reset, and of a cold one (R285). -/
theorem Gn.resetGo_warm (g : Gn) {cause : Nat} (h : cause ≠ 6) : g.resetGo cause = g.phaseShown ((g.preReset 1).warmNow cause) := by
  rw [Gn.resetGo, if_neg h]

theorem Gn.resetGo_cold (g : Gn) : g.resetGo 6 = g.phaseShown ((g.preReset 2).coldNow 6) := by rw [Gn.resetGo, if_pos rfl]

/-- In READY, with no reset waiting for a dump, a warm reset is ordered (R285). -/
theorem Gn.warmRequest_ready {g : Gn} (cause : Nat) (hr : g.resettable = true) (hp : g.rg F.buStat_phase = 7) (hw : g.hg.warmAfter = none) :
    g.warmRequest cause = g.resetAfterDump cause := if_pos (by simp [hr, Gn.ready, hp, hw])

/-- Before READY it is absorbed (R349). -/
theorem Gn.warmRequest_early {g : Gn} (cause : Nat) (hp : g.rg F.buStat_phase < 7) : g.warmRequest cause = g :=
  if_neg (by simp [Gn.ready, Nat.ne_of_lt hp])

/-- In READY a cold reset is ordered (R285). -/
theorem Gn.coldRequest_ready {g : Gn} (hr : g.resettable = true) (hp : g.rg F.buStat_phase = 7) (hw : g.hg.warmAfter = none) :
    g.coldRequest = g.resetAfterDump 6 := by
  rw [Gn.coldRequest, if_neg (by simp [hr]), if_pos (.inl hp), hw]

theorem Gn.hgRst_pf (g : Gn) (f : Gn → Gn) : g.hgRst 0 f = f g := rfl

theorem Gn.hgRst_vf (g : Gn) {fn : Nat} (f : Gn → Gn) (h : fn ≠ 0) : g.hgRst fn f = g.deny fn 0x1108 := if_neg h

/-- The write of GN_HG_RST that the physical function makes runs its operation (R286). -/
theorem gnStep_hgRst_pf {s : State} {f : Gn → Gn} {g : Gn} (ha : s.gn.alive = true) (h : f s.gn = g) :
    gnStep s (fun g => if g.alive then g.hgRst 0 f else g) = .next { s with gn := g } := gnStep_if ha h

/-- That of a virtual function is denied (R317). -/
theorem gnStep_hgRst_vf {s : State} {fn : Nat} {f : Gn → Gn} (ha : s.gn.alive = true) (h : fn ≠ 0) :
    gnStep s (fun g => if g.alive then g.hgRst fn f else g) = .next { s with gn := s.gn.deny fn 0x1108 } := gnStep_if ha (Gn.hgRst_vf _ _ h)

/-- A write without the key is recorded (R286). -/
theorem Gn.keyed_bad (g : Gn) {key : Nat} (f : Gn → Gn) (h : key ≠ 0x5A5A) : g.keyed key f = g.record prodCore 0x0D06 3 0 0 0 0 0 := if_neg h

/-- The keyed cold reset of a module in READY with no dump in progress (R285, R287). -/
theorem exec_coldReset {s : State} (hr : s.gn.resettable = true) (hp : s.gn.rg F.buStat_phase = 7) (hw : s.gn.hg.warmAfter = none)
    (h1 : s.gn.rg F.hgDump_state ≠ 1) (h2 : s.gn.rg F.hgDump_state ≠ 2) :
    exec (.coldReset 0 0x5A5A) s = .next { s with gn := s.gn.phaseShown ((s.gn.preReset 2).coldNow 6) } :=
  gnStep_hgRst_pf hr (by rw [Gn.keyed, if_pos rfl, Gn.coldRequest_ready hr hp hw, Gn.resetAfterDump_free 6 h1 h2, Gn.resetGo_cold])

/-- What a module cold reset leaves: the init values, but for the cause, the flash and its latches, and what the boot header writes (R285, R328). -/
theorem Gn.coldNow_eq (g : Gn) (cause : Nat) : ∃ rs, g.coldNow cause = { Gn.init with
    regs := rs, lastRst := cause, free := g.free, out := g.out,
    ev := { EvSt.init with flash := g.ev.flash, flashN := g.ev.flashN, turn := g.ev.turn.map (fun t => { t with base := t.base + g.now }) },
    sc := { ScSt.init with fwSlots := g.sc.fwSlots, cfgSlots := g.sc.cfgSlots, owner := g.sc.owner },
    hg := { HgSt.init with slots := g.cutDump.hg.slots, dseq := g.hg.dseq },
    pw := { PwSt.init with trip := g.pw.trip } } := by
  unfold Gn.coldNow
  rcases Gn.bootHeader_cases _ with ⟨-, h⟩ | ⟨v, h⟩ <;> rw [h]
  · exact ⟨Gn.init.regs, rfl⟩
  · exact ⟨_, rfl⟩

/-- The boot header of the best valid configuration slot gives the half-start delay (R328). -/
theorem Gn.bootHeader_hsDelay (g : Gn) (hregs : g.regs = []) : g.bootHeader.rg F.ckCfg_hsDelayMs = match bestSlot g.sc.cfgSlots 0 with
    | some e => e.2.cfg.hsDelayMs % 2 ^ 10
    | none => 1000 := by
  unfold Gn.bootHeader
  cases bestSlot g.sc.cfgSlots 0 with
  | none => exact Gn.rg_default g hregs _
  | some e => exact Gn.rg_wr_self _ _ _

/-- With no dump in progress a trigger starts one (R291). -/
theorem Gn.dumpStart_free {g : Gn} (cause : Nat) (h1 : g.rg F.hgDump_state ≠ 1) (h2 : g.rg F.hgDump_state ≠ 2) :
    ∃ d, g.dumpStart cause = (g.onHg (fun h => { h with cur := some d, dseq := h.dseq + 1 })).wr F.hgDump_state 1
      ∧ d.cause = cause ∧ d.complete = false ∧ d.dseq = g.hg.dseq + 1 ∧ d.ht = g.now :=
  ⟨_, if_neg (by simp [h1, h2]), rfl, rfl, rfl, rfl⟩

/-- While one is in progress a trigger is counted (R291). -/
theorem Gn.dumpStart_busy {g : Gn} (cause : Nat) (h : g.rg F.hgDump_state = 1 ∨ g.rg F.hgDump_state = 2) : g.dumpStart cause = g.inc F.hgDump_dumpLost :=
  if_pos h

/-- The end of a snapshot puts the dump into a slot that holds no unread one (R291). -/
theorem Gn.snapshotDone_slot {g : Gn} {d : DumpHdr} (hd : g.hg.cur = some d) (hs : g.rg F.hgDump_state = 1)
    (hu : ((g.hg.slots.getD g.dumpSlot none).isSome && (g.rg F.hgDump_unread).testBit g.dumpSlot) = false) : ∃ rs,
    g.snapshotDone = Gn.wr { g with hg := { g.hg with slots := g.hg.slots.set g.dumpSlot (some { d with since := g.now }), cur := some { d with since := g.now } },
                                    regs := rs } F.hgDump_state 2 := by
  rw [Gn.snapshotDone, hd]
  dsimp only
  rw [if_neg (by simp [hs]), hu]
  exact ⟨_, rfl⟩

/-- The end of a dump's write completes it, and lets a reset that waits for it go (R292). -/
theorem Gn.writeDone_written {g : Gn} {d : DumpHdr} (hd : g.hg.cur = some d) (hs : g.rg F.hgDump_state = 2) :
    g.writeDone = ((g.onHg (fun h => { h with slots := h.slots.set (g.rg F.hgDump_newest) (some { d with complete := true }), cur := none })).wr
      F.hgDump_state 3).afterDump := by
  rw [Gn.writeDone, hd]
  exact if_neg (by simp [hs])

/-- No reset waits. -/
theorem Gn.afterDump_none {g : Gn} (h : g.hg.warmAfter = none) : g.afterDump = g := by rw [Gn.afterDump, h]

end Sys2Proof.Machine

open Sys2Proof Sys2Proof.Machine

/-- Settles O11: the reset keeps the init values of all parts named, and the boot header writes one register field. -/
theorem coldResetClears : Obligations.ColdResetClears := by
  unfold Obligations.ColdResetClears
  intro s hr hp hw h1 h2
  obtain ⟨o, hout⟩ := s.gn.phaseShown_out ((s.gn.preReset 2).coldNow 6)
  have hrg : ∀ f, (s.gn.phaseShown ((s.gn.preReset 2).coldNow 6)).rg f = ((s.gn.preReset 2).coldNow 6).rg f := by
    intro f
    rw [hout, Gn.rg_set_out]
  refine ⟨_, exec_coldReset hr hp hw h1 h2, rfl, rfl, ?_⟩
  dsimp only
  refine ⟨?_, fun f hf => (hrg f).trans (Gn.coldNow_rg _ _ f hf), (hrg _).trans (Gn.bootHeader_hsDelay _ rfl), ?_⟩
  all_goals
    obtain ⟨rs, hcold⟩ := (s.gn.preReset 2).coldNow_eq 6
    rw [hout, hcold]
  exact ⟨rfl, rfl, rfl, rfl, rfl, rfl, rfl, rfl, rfl⟩

/-- Settles O10: in READY each reset is ordered and goes at once; before READY the fundamental reset is absorbed. -/
theorem moduleResetsComplete : Obligations.ModuleResetsComplete := by
  unfold Obligations.ModuleResetsComplete
  refine ⟨fun s hr hp hw h1 h2 => ⟨?_, ?_, exec_coldReset hr hp hw h1 h2⟩, fun s hp => gnStep_self (Gn.warmRequest_early 2 hp)⟩
  · refine gnStep_hgRst_pf hr ?_
    rw [Gn.keyed, if_pos rfl, Gn.warmRequest_ready 1 hr hp hw, Gn.resetAfterDump_free 1 h1 h2, Gn.resetGo_warm _ (by decide)]
  · refine gnStep_eq ?_
    rw [Gn.warmRequest_ready 2 hr hp hw, Gn.resetAfterDump_free 2 h1 h2, Gn.resetGo_warm _ (by decide)]

/-- Settles O12: the key and the function are looked at before anything acts. -/
theorem resetWritesRefused : Obligations.ResetWritesRefused := by
  unfold Obligations.ResetWritesRefused
  exact ⟨fun s key ha hk => ⟨gnStep_hgRst_pf ha (Gn.keyed_bad _ _ hk), gnStep_hgRst_pf ha (Gn.keyed_bad _ _ hk)⟩,
    fun s fn key c p ha hf => ⟨gnStep_hgRst_vf ha hf, gnStep_hgRst_vf ha hf, gnStep_hgRst_vf ha hf, gnStep_hgRst_vf ha hf, gnStep_hgRst_vf ha hf⟩⟩

/-- Settles O13: the index is in range and no die warm reset is under way. -/
theorem partialResetsComplete : Obligations.PartialResetsComplete := by
  unfold Obligations.PartialResetsComplete
  intro s ha
  exact ⟨fun hn c hc => gnStep_hgRst_pf ha (if_pos (by simp [hc, hn])), fun hn p hp => gnStep_hgRst_pf ha (if_pos (by simp [hp, hn])),
    gnStep_hgRst_pf ha rfl⟩

/-- Settles O15: a trigger, its loss, the end of the snapshot and the end of the write are one branch each of the dump sequencer. -/
theorem dumpRunsToItsEnd : Obligations.DumpRunsToItsEnd := by
  unfold Obligations.DumpRunsToItsEnd
  refine ⟨fun s ha h1 h2 => ?_, fun s ha hb => gnStep_if ha (Gn.dumpStart_busy 1 hb), fun s d ha hd hs hu => ?_, fun s d ha hd hs hw => ?_⟩
  · obtain ⟨d, hstart, hcause, hopen, hseq, hht⟩ := Gn.dumpStart_free 1 h1 h2
    exact ⟨_, gnStep_if ha hstart, rfl, Gn.rg_wr_self _ _ 1, rfl, ⟨d, rfl, hcause, hopen, hseq, hht⟩, rfl, fun f hf => Gn.rg_wr_ne _ _ hf, rfl⟩
  · obtain ⟨rs, hdone⟩ := Gn.snapshotDone_slot hd hs hu
    exact ⟨_, gnStep_if ha hdone, rfl, rfl, rfl, Gn.rg_wr_self _ _ 2, rfl, rfl⟩
  · exact ⟨_, gnStep_if ha ((Gn.writeDone_written hd hs).trans (Gn.afterDump_none hw)), rfl, rfl, rfl, Gn.rg_wr_self _ _ 3,
      fun f hf => Gn.rg_wr_ne _ _ hf, rfl⟩

end

section
/-! Arbitration (R201): the first requester in cyclic order from the pointer. -/

namespace Sys2Proof.Machine

/-- A search for a value in a list that holds it finds it. -/
theorem filter_of_true {α : Type} (l : List α) : l.filter (fun _ => true) = l := List.filter_eq_self.2 fun _ _ => rfl

theorem filter_of_false {α : Type} (l : List α) : l.filter (fun _ => false) = [] := List.filter_eq_nil_iff.2 fun _ _ => Bool.false_ne_true

theorem find?_beq_of_mem {i : Nat} {l : List Nat} (h : i ∈ l) : l.find? (fun j => j == i) = some i := by
  cases hf : l.find? (fun j => j == i) with
  | none => exact absurd (List.find?_eq_none.1 hf i h) (by simp)
  | some j => rw [show j = i by simpa using List.find?_some hf]

/-- Going on from the pointer by a requester's distance arrives at the requester. -/
theorem cyclic_arrives {n ptr i : Nat} (hi : i < n) : (ptr + (i + n - ptr % n) % n) % n = i := by
  have hp : ptr % n < n := Nat.mod_lt _ (by omega)
  have hsum : ptr % n + (i + n - ptr % n) = i + n := by omega
  calc (ptr + (i + n - ptr % n) % n) % n = (ptr % n + (i + n - ptr % n)) % n := by simp only [Nat.add_mod, Nat.mod_mod]
    _ = i := by rw [hsum, Nat.add_mod_right, Nat.mod_eq_of_lt hi]

/-- The distance of what is reached from the pointer by less than a round is how far one has gone. -/
theorem cyclic_distance {n ptr k : Nat} (hk : k < n) : ((ptr + k) % n + n - ptr % n) % n = k := by
  have hp : ptr % n < n := Nat.mod_lt _ (by omega)
  have hmod : (ptr + k) % n = (ptr % n + k) % n := by rw [Nat.add_mod, Nat.mod_eq_of_lt hk]
  rw [hmod]
  by_cases hwrap : ptr % n + k < n
  · rw [Nat.mod_eq_of_lt hwrap, show ptr % n + k + n - ptr % n = k + n by omega, Nat.add_mod_right, Nat.mod_eq_of_lt hk]
  · have hlow : (ptr % n + k - n) % n = ptr % n + k - n := Nat.mod_eq_of_lt (by omega)
    rw [Nat.mod_eq_sub_mod (Nat.not_lt.1 hwrap), hlow, show ptr % n + k - n + n - ptr % n = k by omega, Nat.mod_eq_of_lt hk]

/-- The search from the pointer on finds the requester of least distance. -/
theorem firstFrom_least {n ptr i t : Nat} {rs : List (Nat × Nat)} (hi : i < n) (hfound : rs.find? (fun r => r.1 == i) = some (i, t))
    (hleast : ∀ r ∈ rs, (i + n - ptr % n) % n ≤ (r.1 + n - ptr % n) % n) : firstFrom n ptr rs = some (i, t) := by
  have hd : (i + n - ptr % n) % n < n := Nat.mod_lt _ (by omega)
  have harr := cyclic_arrives (ptr := ptr) hi
  generalize (i + n - ptr % n) % n = d at hd harr hleast
  have hsplit : List.range n = List.range d ++ d :: (List.range (n - d - 1)).map (fun k => d + 1 + k) := by
    have hn : n = d + 1 + (n - d - 1) := by omega
    conv => lhs; rw [hn, List.range_add, List.range_succ]
    simp only [List.append_assoc, List.singleton_append]
  unfold firstFrom
  rw [hsplit, List.map_append, List.map_cons, harr]
  refine List.findSome?_eq_some_iff.2 ⟨_, i, _, rfl, hfound, fun j hj => ?_⟩
  obtain ⟨k, hk, rfl⟩ := List.mem_map.1 hj
  have hkd : k < d := List.mem_range.1 hk
  refine List.find?_eq_none.2 fun r hr hrj => ?_
  have hrd := hleast r hr
  rw [show r.1 = (ptr + k) % n by simpa using hrj, cyclic_distance (Nat.lt_trans hkd hd)] at hrd
  exact Nat.not_lt.2 hrd hkd

/-- An arbiter with no request waiting, neither frozen nor kept by a dump nor owing a starvation grant, grants the first requester in cyclic order. -/
theorem Gn.arbitrate_cyclic {g : Gn} {a i : Nat} {reqs : List Nat} (hfrz : g.flag (F.arb_frz a) = false) (hdump : g.rg F.hgDump_state ≠ 1)
    (hnone : (SMap.get arbDefault g.lk.arbs a).reqs = []) (hstarv : (SMap.get arbDefault g.lk.arbs a).since + 1 < g.rg (F.arb_n a)) (hi : i < arbCount a)
    (hir : i ∈ reqs) (hleast : ∀ j ∈ reqs, j < arbCount a → (i + arbCount a - g.rg (F.arb_ptr a) % arbCount a) % arbCount a
      ≤ (j + arbCount a - g.rg (F.arb_ptr a) % arbCount a) % arbCount a) :
    ∃ x v, g.arbitrate a reqs = ((Gn.wr { g with lk := { g.lk with arbs := SMap.set arbDefault g.lk.arbs a x } } (F.arb_maxWait a) v).wr (F.arb_ptr a)
        ((i + 1) % arbCount a), some i)
      ∧ x.since = (SMap.get arbDefault g.lk.arbs a).since + 1 ∧ ∀ r ∈ x.reqs, r.1 ≠ i := by
  have hmay : (g.rg F.hgDump_state != 1) = true := by simpa using hdump
  have hlong : ¬ g.rg (F.arb_n a) ≤ (SMap.get arbDefault g.lk.arbs a).since + 1 := Nat.not_le.2 hstarv
  unfold Gn.arbitrate
  simp only [hfrz, hmay, hnone, hlong, Bool.true_or, List.filter_nil, List.nil_append, List.any_nil, Bool.not_false, Bool.and_true, decide_false,
    Bool.false_eq_true, if_false, filter_of_true]
  have hmem : i ∈ reqs.eraseDups.filter (fun j => decide (j < arbCount a)) := by simp [hi, hir]
  have hfound : ((reqs.eraseDups.filter (fun j => decide (j < arbCount a))).map (fun j => (j, g.now))).find? (fun r => r.1 == i) = some (i, g.now) := by
    rw [List.find?_map]
    exact congrArg (Option.map _) (find?_beq_of_mem hmem)
  have hfirst := firstFrom_least (ptr := g.rg (F.arb_ptr a)) hi hfound fun r hr => by
    obtain ⟨j, hj, rfl⟩ := List.mem_map.1 hr
    simp only [List.mem_filter, List.mem_eraseDups, decide_eq_true_eq] at hj
    exact hleast j hj.1 hj.2
  rw [hfirst]
  exact ⟨_, _, rfl, rfl, fun r hr => by simpa using (List.mem_filter.1 hr).2⟩

end Sys2Proof.Machine

open Sys2Proof Sys2Proof.Machine

/-- Settles O26: with no request waiting before, the search from the pointer finds the requester of least distance. -/
theorem arbiterGrantsInCyclicOrder : Obligations.ArbiterGrantsInCyclicOrder := by
  unfold Obligations.ArbiterGrantsInCyclicOrder
  refine ⟨fun s a i reqs ha1 ha2 hfrz hdump hnone hstarv hi hir hleast => ?_, fun s reqs => ⟨gnStep_eq ?_, gnStep_eq ?_⟩⟩
  · obtain ⟨x, v, harb, hsince, hreqs⟩ := Gn.arbitrate_cyclic hfrz hdump hnone hstarv hi hir hleast
    have hgrant : s.gn.arbiterGrant a reqs = (s.gn.arbitrate a reqs).1 := by rw [Gn.arbiterGrant, if_neg ha1, if_neg ha2]
    refine ⟨_, gnStep_eq (hgrant.trans (congrArg Prod.fst harb)), rfl, Gn.rg_wr_self _ _ _, fun j hj => ?_, ?_, rfl⟩
    · simp only [Gn.wr_lk, SMap.get_set_self] at hj
      exact hreqs j hj
    · simpa using hsince
  · rw [Gn.arbiterGrant, if_neg (by decide), if_pos rfl]
  · rw [Gn.arbiterGrant, if_pos rfl]

end

section
/-! The counters' registers of the block (R12): the low word's read latches the high word. -/

namespace Sys2Proof.Machine

/-- A read of the management port with privilege puts out what the word reads as. -/
theorem Pl.mpRead_priv (p : Pl) {addr : Nat} (h : addr % 4 = 0) : p.mpRead addr true = (p.readWord addr false).1.emitOut (.rdata (p.readWord addr false).2) := by
  unfold Pl.mpRead
  rw [h, Nat.sub_zero]
  exact if_neg (by simp)

/-- The counter selected is read at 0xB04, and 0xB08 holds no low word. -/
theorem Pl.wide_cnt (p : Pl) : p.wide 0xB04 = some (if p.cntIdx < p.nctr then (p.ctr p.cntIdx).toNat else 0) := by
  rw [Pl.wide, if_neg (by decide), if_pos rfl]

theorem Pl.wide_cntHigh {p : Pl} (h : p.par.nbank ≤ 64) : p.wide 0xB08 = none := by
  have hpal : p.palBank 0xB08 = none := if_neg (by omega)
  rw [Pl.wide, if_neg (by decide), if_neg (by decide), if_neg (by decide), if_neg (by decide), hpal]

/-- The read of a low word latches the high one. -/
theorem Pl.readWord_low {p : Pl} {off v : Nat} (link : Bool) (h : p.wide off = some v) :
    p.readWord off link = ({ p with latches := p.latches.filter (fun e => e.1 != latchKey off link) ++ [(latchKey off link, v / 2 ^ 32 % 2 ^ 32)] }, v % 2 ^ 32) := by
  unfold Pl.readWord
  rw [h]

/-- The read of a latched high word gives it, and the latch is open again. -/
theorem Pl.readWord_latched {p : Pl} {off v : Nat} {link : Bool} {e : Nat × Nat} (hoff : 4 ≤ off) (hhigh : p.wide off = none) (hlow : p.wide (off - 4) = some v)
    (hl : p.latches.find? (fun e => e.1 == latchKey (off - 4) link) = some e) :
    p.readWord off link = ({ p with latches := p.latches.filter (fun x => x.1 != e.1) }, e.2) := by
  unfold Pl.readWord
  rw [hhigh, if_pos hoff, hlow, hl]

/-- What has just been latched is what the latch holds. -/
theorem find?_latched (k v : Nat) (l : List (Nat × Nat)) : (l.filter (fun e => e.1 != k) ++ [(k, v)]).find? (fun e => e.1 == k) = some (k, v) := by
  rw [List.find?_append, List.find?_eq_none.2 fun e he => by simpa using (List.mem_filter.1 he).2]
  simp

/-- Latches move no pin. -/
theorem Pl.showPins_latched (p : Pl) (l : List (Nat × Nat)) (o : Out) :
    p.showPins (Pl.emitOut { p with latches := l } o) = Pl.emitOut { p with latches := l } o := Pl.showPins_eq _ _ rfl rfl rfl rfl

end Sys2Proof.Machine

open Sys2Proof Sys2Proof.Machine

/-- Settles O52: the latch holds the high half of the value read, and what is counted leaves the latch alone. -/
theorem lowReadLatchesHighWord : Obligations.LowReadLatchesHighWord := by
  unfold Obligations.LowReadLatchesHighWord
  intro s lanes hidx hbanks v
  have hlow : s.pl.wide 0xB04 = some v := by rw [Pl.wide_cnt, if_pos hidx]
  have hv : v / 2 ^ 32 % 2 ^ 32 = v / 2 ^ 32 := Nat.mod_eq_of_lt (by have := (s.pl.ctr s.pl.cntIdx).isLt; omega)
  let p : Pl := { s.pl with latches := s.pl.latches.filter (fun e => e.1 != latchKey 0xB04 false) ++ [(latchKey 0xB04 false, v / 2 ^ 32)] }
  let t : State := { s with pl := p.emitOut (.rdata (v % 2 ^ 32)) }
  have ht : exec (.plCntLowRead 0xB04 true) s = .next t := by
    refine (plDo_eq ?_).trans (congrArg (fun q => Host.Outcome.next { s with pl := q }) (Pl.showPins_latched s.pl p.latches _))
    rw [Pl.mpRead_priv _ rfl, Pl.readWord_low _ hlow, hv]
  have hu : t.pl.addLanes lanes = { t.pl with cnt := (t.pl.addLanes lanes).cnt } := Pl.addLanes_cnt _ _
  have hhigh : (t.pl.addLanes lanes).mpRead 0xB08 true
      = Pl.emitOut { t.pl.addLanes lanes with latches := (t.pl.addLanes lanes).latches.filter (fun x => x.1 != latchKey 0xB04 false) } (.rdata (v / 2 ^ 32)) := by
    have hnone : (t.pl.addLanes lanes).wide 0xB08 = none := Pl.wide_cntHigh (by rw [hu]; exact hbanks)
    have hfind : (t.pl.addLanes lanes).latches.find? (fun e => e.1 == latchKey (0xB08 - 4) false) = some (latchKey 0xB04 false, v / 2 ^ 32) := by
      rw [hu]
      exact find?_latched _ _ _
    rw [Pl.mpRead_priv _ rfl, Pl.readWord_latched (by decide) hnone (Pl.wide_cnt _) hfind]
  refine ⟨t, _, _, ht, rfl, exec_counterIncrement t lanes, plDo_eq hhigh, ?_, rfl, rfl⟩
  exact congrArg Pl.out (Pl.showPins_latched _ _ _)

end

section
/-! The host's register accesses (R34, R356), the TAP and the debug port (R327 to R332). -/

namespace Sys2Proof.Machine

/-! ### What a record leaves alone -/

@[simp] theorem Gn.submit_sc (g : Gn) (prod : Nat) (it : RecItem) : (g.submit prod it).sc = g.sc := by
  rcases g.submit_cases prod it with ⟨arbs, h⟩ | h | ⟨_, _, _, _, _, h⟩ <;> rw [h]
  rfl

@[simp] theorem Gn.submit_pf (g : Gn) (prod : Nat) (it : RecItem) : (g.submit prod it).pf = g.pf := by
  rcases g.submit_cases prod it with ⟨arbs, h⟩ | h | ⟨_, _, _, _, _, h⟩ <;> rw [h]
  rfl

@[simp] theorem Gn.record_sc (g : Gn) (prod code sev source p0 p1 p2 p3 : Nat) : (g.record prod code sev source p0 p1 p2 p3).sc = g.sc := g.submit_sc prod _

@[simp] theorem Gn.record_pf (g : Gn) (prod code sev source p0 p1 p2 p3 : Nat) : (g.record prod code sev source p0 p1 p2 p3).pf = g.pf := g.submit_pf prod _

@[simp] theorem Gn.record_now (g : Gn) (prod code sev source p0 p1 p2 p3 : Nat) : (g.record prod code sev source p0 p1 p2 p3).now = g.now := g.submit_now prod _

/-! ### Accesses by PCIe and by descriptor -/

/-- A good access by PCIe. -/
theorem Gn.hostRead_good {g : Gn} {off w : Nat} (fn : Nat) (hu : g.hostUp = true) (hb : badAccess off w = false) :
    g.hostRead fn off w = (g.barRead fn off w).1.emitOut (.rdata (g.barRead fn off w).2) := by
  rw [Gn.hostRead, if_neg (by simp [hu]), if_neg (by simp [hb])]

theorem Gn.hostWrite_good {g : Gn} {off w : Nat} (fn v : Nat) (hu : g.hostUp = true) (hb : badAccess off w = false) :
    g.hostWrite fn off w v = g.barWrite fn off w v := by
  rw [Gn.hostWrite, if_neg (by simp [hu]), if_neg (by simp [hb])]

/-- A read of bad width or alignment is answered with an abort (R356). -/
theorem Gn.hostRead_bad {g : Gn} {off w : Nat} (fn : Nat) (hu : g.hostUp = true) (hb : badAccess off w = true) :
    g.hostRead fn off w = (g.badRecord fn 0 off w false).emitOut .abort := by
  rw [Gn.hostRead, if_neg (by simp [hu]), if_pos hb]

/-- A good access by descriptor. -/
theorem Gn.regReadDesc_good (g : Gn) (h : DescHdr) {off : Nat} {w64 : Bool} (hb : badAccess off (regWidth w64) = false) :
    g.regReadDesc h off w64 = (g.barRead 0 off (regWidth w64)).1.complete 0x1B h stOk [(g.barRead 0 off (regWidth w64)).2] := by
  rw [Gn.regReadDesc, if_neg (by simp [hb])]

theorem Gn.regWriteDesc_good (g : Gn) (h : DescHdr) {off : Nat} {w64 : Bool} (v : Nat) (hb : badAccess off (regWidth w64) = false) :
    g.regWriteDesc h off w64 v = (g.barWrite 0 off (regWidth w64) v).complete 0x1B h stOk [] := by
  rw [Gn.regWriteDesc, if_neg (by simp [hb])]

/-- A read by the physical function of a place with no register gives 0 and is noted. -/
theorem Gn.barRead_unmapped {g : Gn} {off w : Nat} (hg : g.gatedAt off = false) (hwin : off < 0x61000 ∨ 0x63000 ≤ off)
    (hx : (msixWord 0 off).isSome = false) (hp : pbaWord off = false) (hr : regParts off w = []) : g.barRead 0 off w = (g.unmap 0 off, 0) := by
  rw [Gn.barRead, if_neg (by simp), if_neg (by simp [hg]), if_neg (by omega), if_neg (by omega), if_neg (by simp [hx, hp]), hr]

/-- The first access where no register exists is latched (R356). -/
theorem Gn.unmap_first {g : Gn} (fn off : Nat) (hv : g.flag F.idUnmap_valid = false) : g.unmap fn off
    = ((((g.inc F.idUnmap_count).put F.idUnmap_valid true).wr F.idUnmap_who (min fn 1)).wr F.idUnmap_fn fn).wr F.idUnmap_addr off := by
  have hkeep : (g.inc F.idUnmap_count).flag F.idUnmap_valid = false := by rw [Gn.flag_congr (Gn.rg_inc_ne g (by decide)), hv]
  rw [Gn.unmap]
  exact if_neg (by simp [hkeep])

/-- A counter that saturates, read after it is raised. -/
theorem Gn.rg_inc_self (g : Gn) (f : FRef) : (g.inc f).rg f = min (2 ^ f.len - 1) (g.rg f + 1) := by
  have hpos : 0 < 2 ^ f.len := Nat.two_pow_pos _
  exact (Gn.rg_wr_self _ _ _).trans (Nat.mod_eq_of_lt (by omega))

/-! ### The TAP -/

/-- The TAP works unless the module is off. -/
theorem gnStep_tap {s : State} {f : Gn → Gn} {g : Gn} (h : s.gn.pw.off = false) (hf : f s.gn = g) :
    gnStep s (fun g => when g.tapOn f g) = .next { s with gn := g } := gnStep_eq ((if_pos (by simp [Gn.tapOn, h])).trans hf)

theorem Gn.boundary_on {g : Gn} (ir : Nat) (ho : g.pw.off = false) (hb : g.boundaryOn = true) : g.boundary ir = g.tap ir := by
  rw [Gn.boundary, if_neg (by simp [Gn.tapOn, ho]), if_pos hb]

theorem Gn.boundary_off {g : Gn} (ir : Nat) (ho : g.pw.off = false) (hb : g.boundaryOn = false) : g.boundary ir = g.bypass := by
  rw [Gn.boundary, if_neg (by simp [Gn.tapOn, ho]), if_neg (by simp [hb])]

/-- BYPASS while the module has power. -/
theorem exec_bypass {s : State} (ho : s.gn.pw.off = false) : exec .bypass s = .next { s with gn := s.gn.bypass } := gnStep_tap ho rfl

/-! ### The debug port -/

/-- The erase of the gesso where no buffer is tagged: the keys, the session keys and the seeds (R327). -/
theorem Gn.gesso_untagged {g : Gn} (h : g.sc.tags = []) :
    g.gesso = (((({ g with pf := { g.pf with seeds := [] }, sc := { g.sc with keys := [], store := none } } : Gn).put F.scStat_ksErased true).addWrap
      F.scStat_gesso 1).record prodCore 0x0F05 2 0 0 0 0 0) := by
  unfold Gn.gesso
  simp only [h, List.any_nil, filter_of_false, forEach, List.foldl_nil]

/-- An open that is admitted and verifies. -/
theorem Gn.dpOpen_good {g : Gn} {level : Nat} {sig : List Byte} (ha : g.alive = true) (hi : g.sc.ignore ≤ g.now) (hok : g.openOk level = true)
    (hsig : g.sigOk level sig = true) : g.dpOpen level sig = (g.gesso.onSc (fun x => { x with nonce := none })).wr F.scStat_dbg level := by
  rw [Gn.dpOpen, if_neg (by simp [ha]), if_neg (Nat.not_lt.2 hi), if_pos (by simp [hok, hsig])]

/-- One that is not admitted or does not verify. -/
theorem Gn.dpOpen_bad {g : Gn} {level : Nat} {sig : List Byte} (ha : g.alive = true) (hi : g.sc.ignore ≤ g.now)
    (hbad : (g.openOk level && g.sigOk level sig) = false) : g.dpOpen level sig = g.dpRefuse := by
  rw [Gn.dpOpen, if_neg (by simp [ha]), if_neg (Nat.not_lt.2 hi), if_neg (by simp [hbad])]

/-- A module that runs has power. -/
theorem Gn.off_of_alive {g : Gn} (h : g.alive = true) : g.pw.off = false := by
  simpa using (Bool.and_eq_true_iff.1 (Gn.powered_of_alive h)).1

/-- DP_ACCESS while the port is open (R332). -/
theorem exec_dpAccess {s : State} (w : BitVec 128) (ho : s.gn.pw.off = false) (hd : s.gn.dpIsOpen = true) (hs : s.gn.safe = false) :
    exec (.dpAccess w) s = .next { s with gn := (s.gn.tap 0x12).dpCapture.dpDo w.toNat } := by
  have hsafe : (s.gn.tap 0x12).dpCapture.safe = false := hs
  refine gnStep_tap ho ?_
  rw [Gn.dpAccess, if_neg (by simp [hd])]
  exact if_neg (by simp [hsafe])

/-- At the intrusive level an access to control-core memory. -/
theorem Gn.dpDo_core {g : Gn} {w : Nat} (hd : g.rg F.scStat_dbg = 2) (hs : bits w 0 2 = 1) :
    g.dpDo w = (g.dpMem 1 (bits w 4 48) (if bit w 3 then 8 else 4) (bit w 2) (bits w 64 64)).dpHalt w := by
  rw [Gn.dpDo]
  simp [hs, hd]

/-- A write of 8 bytes within control-core memory. -/
theorem Gn.dpMem_write {g : Gn} {a : Nat} (v : Nat) (ha : a + 8 ≤ 8388608) (hp : g.rg F.pwState_pstate ≠ 2) :
    g.dpMem 1 a 8 true v = Gn.dpDone { g with mem := SMap.setList memDefault g.mem (memKey 1 a) (leBytes 8 v) } 0 0 := by
  rw [Gn.dpMem, if_neg (by simpa [dpSize] using ha), if_neg hp, if_pos rfl]
  rfl

/-- A read of 8 bytes within it. -/
theorem Gn.dpMem_read {g : Gn} {a : Nat} (v : Nat) (ha : a + 8 ≤ 8388608) (hp : g.rg F.pwState_pstate ≠ 2) :
    g.dpMem 1 a 8 false v = g.dpDone 0 (leNat (SMap.getList memDefault g.mem (memKey 1 a) 8)) := by
  rw [Gn.dpMem, if_neg (by simpa [dpSize] using ha), if_neg hp, if_neg (by decide)]
  rfl

@[simp] theorem Gn.tap_mem (g : Gn) (ir : Nat) : (g.tap ir).mem = g.mem := rfl
@[simp] theorem Gn.dpCapture_mem (g : Gn) : g.dpCapture.mem = g.mem := rfl

/-- At the intrusive level, a write of 8 bytes stores them and changes the port's own state only. -/
theorem exec_dpAccess_write {s : State} {w : BitVec 128} {a v : Nat} (ho : s.gn.pw.off = false) (hd : s.gn.rg F.scStat_dbg = 2) (hs : s.gn.safe = false)
    (hp : s.gn.rg F.pwState_pstate ≠ 2) (ha : a + 8 ≤ 8388608) (hspace : bits w.toNat 0 2 = 1) (hwrite : bit w.toNat 2 = true)
    (hwidth : bit w.toNat 3 = true) (haddr : bits w.toNat 4 48 = a) (hdata : bits w.toNat 64 64 = v) :
    ∃ sc hg o, exec (.dpAccess w) s = .next { s with gn := { s.gn with
      sc := sc, hg := hg, out := o, mem := SMap.setList memDefault s.gn.mem (memKey 1 a) (leBytes 8 v) } } := by
  have hopen : s.gn.dpIsOpen = true := by simp [Gn.dpIsOpen, Gn.flag, hd]
  have hdo := Gn.dpDo_core (g := (s.gn.tap 0x12).dpCapture) hd hspace
  rw [hwrite, hwidth, haddr, hdata, if_pos rfl, Gn.dpMem_write (g := (s.gn.tap 0x12).dpCapture) v ha hp, Gn.dpCapture_mem,
    Gn.tap_mem] at hdo
  rw [exec_dpAccess w ho hopen hs, hdo]
  generalize SMap.setList memDefault s.gn.mem (memKey 1 a) (leBytes 8 v) = m
  exact ⟨_, _, _, rfl⟩

/-- A read of 8 bytes has them as its data and leaves the memory alone. -/
theorem exec_dpAccess_read {s : State} {r : BitVec 128} {a : Nat} (ho : s.gn.pw.off = false) (hd : s.gn.rg F.scStat_dbg = 2) (hs : s.gn.safe = false)
    (hp : s.gn.rg F.pwState_pstate ≠ 2) (ha : a + 8 ≤ 8388608) (hspace : bits r.toNat 0 2 = 1) (hread : bit r.toNat 2 = false)
    (hwidth : bit r.toNat 3 = true) (haddr : bits r.toNat 4 48 = a) :
    ∃ u, exec (.dpAccess r) s = .next u ∧ u.gn.sc.dpData = leNat (SMap.getList memDefault s.gn.mem (memKey 1 a) 8) ∧ u.gn.sc.dpStatus = 0
      ∧ u.gn.mem = s.gn.mem := by
  have hopen : s.gn.dpIsOpen = true := by simp [Gn.dpIsOpen, Gn.flag, hd]
  have hdo := Gn.dpDo_core (g := (s.gn.tap 0x12).dpCapture) hd hspace
  rw [hread, hwidth, haddr, if_pos rfl, Gn.dpMem_read (g := (s.gn.tap 0x12).dpCapture) _ ha hp, Gn.dpCapture_mem,
    Gn.tap_mem] at hdo
  rw [exec_dpAccess r ho hopen hs, hdo]
  generalize leNat (SMap.getList memDefault s.gn.mem (memKey 1 a) 8) = x
  exact ⟨_, rfl, rfl, rfl, rfl⟩

/-! ### Bytes -/

@[simp] theorem length_leBytes (n : Nat) : ∀ v, (leBytes n v).length = n := by
  induction n with
  | zero => exact fun v => rfl
  | succ n ih => exact fun v => congrArg Nat.succ (ih (v / 256))

/-- A number is what its bytes say, as far as they reach. -/
theorem leNat_leBytes (n : Nat) : ∀ v, leNat (leBytes n v) = v % 256 ^ n := by
  induction n with
  | zero =>
    intro v
    rw [Nat.pow_zero, Nat.mod_one]
    rfl
  | succ n ih =>
    intro v
    rw [leBytes, leNat, ih, Nat.pow_succ', Nat.mod_mul]
    simp

/-- What a run of writes puts, a run of reads gives. -/
theorem SMap.getList_setList {V : Type} [DecidableEq V] (d : Nat → V) (m : SMap V) (k : Nat) (vs : List V) :
    SMap.getList d (SMap.setList d m k vs) k vs.length = vs := by
  refine List.ext_getElem (by simp [SMap.getList]) fun i h1 h2 => ?_
  simp only [SMap.getList, List.getElem_map, List.getElem_range]
  exact SMap.get_setList_in d vs m k i h2

/-- The fields of an access word. -/
theorem access_fields {x w a v : Nat} (hx : x < 2) (ha : a + 8 ≤ 8388608) (hv : v < 2 ^ 64) (hw : w = 1 + 4 * x + 8 + a * 16 + v * 2 ^ 64) :
    bits w 0 2 = 1 ∧ bit w 2 = decide (x = 1) ∧ bit w 3 = true ∧ bits w 4 48 = a ∧ bits w 64 64 = v := by
  subst hw
  simp only [bits, bit, Nat.shiftRight_eq_div_pow, Nat.testBit_eq_decide_div_mod_eq]
  refine ⟨by omega, ?_, ?_, by omega, by omega⟩
  · rw [decide_eq_decide]
    omega
  · rw [decide_eq_true_iff]
    omega

end Sys2Proof.Machine

open Sys2Proof Sys2Proof.Machine

/-- Settles O34: a good access is the register map's. -/
theorem registerAccessesComplete : Obligations.RegisterAccessesComplete := by
  unfold Obligations.RegisterAccessesComplete
  exact ⟨fun s fn off w hu hb => gnStep_eq (Gn.hostRead_good fn hu hb), fun s fn off w v hu hb => gnStep_eq (Gn.hostWrite_good fn _ hu hb),
    fun s h off w64 hadm hb => gnStep_desc hadm (Gn.regReadDesc_good _ h hb), fun s h off w64 v hadm hb => gnStep_desc hadm (Gn.regWriteDesc_good _ h _ hb)⟩

/-- Settles O35: the offset is none of the windows, so the read is noted, and the five fields of the latch are apart from each other. -/
theorem unmappedReadGivesZero : Obligations.UnmappedReadGivesZero := by
  unfold Obligations.UnmappedReadGivesZero
  refine ⟨fun s off w hu hb hoff hg hwin hx hp hr hv => ?_, fun s fn off w hu hb => gnStep_eq (Gn.hostRead_bad fn hu hb)⟩
  have hread : s.gn.hostRead 0 off w = (s.gn.unmap 0 off).emitOut (.rdata 0) := by rw [Gn.hostRead_good 0 hu hb, Gn.barRead_unmapped hg hwin hx hp hr]
  rw [Gn.unmap_first 0 off hv] at hread
  refine ⟨_, gnStep_eq hread, rfl, rfl, rfl, ?_, ?_, ?_, ?_, ?_⟩
  · show Gn.rg (Gn.emitOut _ _) _ = _
    rw [Gn.emitOut_rg, Gn.rg_wr_ne _ _ (by decide), Gn.rg_wr_ne _ _ (by decide), Gn.rg_wr_ne _ _ (by decide), Gn.rg_put_ne _ _ (by decide), Gn.rg_inc_self]
  · show Gn.flag (Gn.emitOut _ _) _ = _
    rw [Gn.emitOut_flag, Gn.flag_wr_ne _ _ (by decide), Gn.flag_wr_ne _ _ (by decide), Gn.flag_wr_ne _ _ (by decide), Gn.flag_put_self _ _ _ rfl]
  · show Gn.rg (Gn.emitOut _ _) _ = _
    rw [Gn.emitOut_rg, Gn.rg_wr_ne _ _ (by decide), Gn.rg_wr_ne _ _ (by decide), Gn.rg_wr_self]
    rfl
  · show Gn.rg (Gn.emitOut _ _) _ = _
    rw [Gn.emitOut_rg, Gn.rg_wr_ne _ _ (by decide), Gn.rg_wr_self]
    rfl
  · show Gn.rg (Gn.emitOut _ _) _ = _
    rw [Gn.emitOut_rg, Gn.rg_wr_self]
    exact Nat.mod_eq_of_lt hoff

/-- Settles O37: a boundary instruction looks whether it is available. -/
theorem tapInstructionsComplete : Obligations.TapInstructionsComplete := by
  unfold Obligations.TapInstructionsComplete
  intro s ho
  refine ⟨exec_bypass ho, gnStep_tap ho rfl, gnStep_tap ho rfl, fun hb => ?_, fun hb => ?_⟩
  · exact ⟨gnStep_eq (Gn.boundary_on 0x00 ho hb), gnStep_eq (Gn.boundary_on 0x02 ho hb), gnStep_eq (Gn.boundary_on 0x03 ho hb),
      gnStep_eq (Gn.boundary_on 0x04 ho hb)⟩
  · rw [exec_bypass ho]
    exact ⟨gnStep_eq (Gn.boundary_off 0x00 ho hb), gnStep_eq (Gn.boundary_off 0x02 ho hb), gnStep_eq (Gn.boundary_off 0x03 ho hb),
      gnStep_eq (Gn.boundary_off 0x04 ho hb)⟩

/-- Settles O38: an open that verifies erases and opens, another is refused; the other instructions act while the port is open. -/
theorem debugPortCommandsComplete : Obligations.DebugPortCommandsComplete := by
  unfold Obligations.DebugPortCommandsComplete
  refine ⟨fun s ho => gnStep_tap ho rfl, fun s level sig ha hi hok hsig htags => ?_,
    fun s level sig ha hi hok hsig => gnStep_tap (Gn.off_of_alive ha) (Gn.dpOpen_good (g := s.gn.tap 0x11) ha hi hok hsig),
    fun s level sig ha hi hbad => ?_, fun s ho hd => gnStep_tap ho (if_pos hd), fun s ho hd => gnStep_tap ho (if_neg (by simp [hd])),
    fun s w ho hd hs => exec_dpAccess w ho hd hs, fun s w ho hd => gnStep_tap ho (if_pos (by simp [hd]))⟩
  · have hopen := Gn.dpOpen_good (g := s.gn.tap 0x11) ha hi hok hsig
    rw [Gn.gesso_untagged (g := s.gn.tap 0x11) htags] at hopen
    refine ⟨_, gnStep_tap (Gn.off_of_alive ha) hopen, rfl, rfl, Gn.rg_wr_self _ _ _, ?_, ?_, ?_, ?_, rfl, ?_⟩
    · refine (Gn.flag_wr_ne _ _ (by decide)).trans ?_
      refine (Gn.flag_congr (Gn.rg_record_mild _ _ _ _ _ _ _ _ (by decide) (by decide))).trans ?_
      exact (Gn.flag_wr_ne _ _ (by decide)).trans (Gn.flag_put_self _ _ _ rfl)
    · simp only [Gn.wr_sc, Gn.onSc, Gn.record_sc, Gn.addWrap_sc, Gn.put_sc]
    · simp only [Gn.wr_sc, Gn.onSc, Gn.record_sc, Gn.addWrap_sc, Gn.put_sc]
    · simp only [Gn.wr_pf, Gn.onSc, Gn.record_pf, Gn.addWrap_pf, Gn.put_pf]
    · simp only [Gn.wr_mem, Gn.onSc, Gn.record_mem, Gn.addWrap_mem, Gn.put_mem, Gn.tap]
  · refine ⟨_, gnStep_tap (Gn.off_of_alive ha) (Gn.dpOpen_bad (g := s.gn.tap 0x11) ha hi hbad), rfl, rfl, rfl, rfl, ?_, ?_, ?_⟩
    · exact (Gn.rg_record_mild _ _ _ _ _ _ _ _ (by decide) (by decide)).trans (Gn.rg_inc_ne _ (by decide))
    · simp only [Gn.dpRefuse, Gn.onSc, Gn.record_sc, Gn.inc_sc, Gn.tap]
    · simp only [Gn.dpRefuse, Gn.onSc, Gn.record_mem, Gn.inc_mem, Gn.tap]

/-- Settles O39: the word's fields name 8 bytes of control-core memory; the run of writes puts them there and the run of reads gives them back. -/
theorem debugMemoryWriteIsLocal : Obligations.DebugMemoryWriteIsLocal := by
  unfold Obligations.DebugMemoryWriteIsLocal
  intro s a v ho hd hs hp ha hwf w r
  have hv : v.toNat < 2 ^ 64 := v.isLt
  have hw : w.toNat = 1 + 4 * 1 + 8 + a * 16 + v.toNat * 2 ^ 64 := by
    rw [BitVec.toNat_ofNat, Nat.mod_eq_of_lt (by omega)]
  have hr : r.toNat = 1 + 4 * 0 + 8 + a * 16 + 0 * 2 ^ 64 := by
    rw [BitVec.toNat_ofNat, Nat.mod_eq_of_lt (by omega)]
    omega
  clear_value w r
  obtain ⟨w1, w2, w3, w4, w5⟩ := access_fields (x := 1) (by decide) ha hv hw
  obtain ⟨r1, r2, r3, r4, -⟩ := access_fields (x := 0) (by decide) ha (by decide) hr
  obtain ⟨sc, hg, o, ht⟩ := exec_dpAccess_write ho hd hs hp ha w1 w2 w3 w4 w5
  have hoff : SMap.getList memDefault (SMap.setList memDefault s.gn.mem (memKey 1 a) (leBytes 8 v.toNat)) (memKey 1 a) 8 = leBytes 8 v.toNat := by
    have hget := SMap.getList_setList memDefault s.gn.mem (memKey 1 a) (leBytes 8 v.toNat)
    rwa [length_leBytes] at hget
  obtain ⟨u, hu, hdata, hstatus, hmem⟩ := exec_dpAccess_read (s := { s with gn := { s.gn with
    sc := sc, hg := hg, out := o, mem := SMap.setList memDefault s.gn.mem (memKey 1 a) (leBytes 8 v.toNat) } }) ho hd hs hp ha r1 r2 r3 r4
  refine ⟨_, u, ht, SMap.wf_setList _ _ hwf, fun k hk => SMap.get_setList_out _ _ _ _ _ (by simpa using hk), rfl, rfl, hu, ?_, hstatus, hmem⟩
  rw [hdata, hoff, leNat_leBytes, Nat.mod_eq_of_lt (by omega)]

end

section
/-! Sending on a link (R184, R187, R190, R191, R193, R199 to R202): the head that leaves, credits that return, gates and warnings. -/

namespace Sys2Proof.Machine

/-! ### The head that leaves -/

theorem headOf_lone (c : Nat) (f : Frame) : headOf c [f] = if f.cls = c then some f else none := by
  unfold headOf
  by_cases h : f.cls = c <;> simp [h]

/-- A lone frame that the class's whole credit covers is not discarded (R190). -/
theorem Gn.dropHuge_fits {g : Gn} {p : Nat} {f : Frame} (c : Nat) (hq : (g.port p).sendQ = [f]) (hfit : f.beads ≤ (g.port p).whole.getD f.cls 0) :
    g.dropHuge p c = g := by
  dsimp only [Gn.dropHuge]
  rw [hq, headOf_lone]
  by_cases h : f.cls = c
  · rw [if_pos h]
    exact if_neg (by rw [← h]; exact Nat.not_lt.2 hfit)
  · rw [if_neg h]

/-- A port once a frame has gone onto its wire (R190). -/
def Port.spent (x : Port) (sent : Frame) : Port :=
  { x with cred := x.cred.zipIdx.map (fun e => if e.2 = sent.cls then e.1 - sent.beads else e.1),
           txSeq := x.txSeq.zipIdx.map (fun e => if e.2 = sent.cls then (e.1 + 1) % 2 ^ 16 else e.1) }

/-- A frame that goes onto a port's wire: stamped and numbered; the port pays; a time request is noted (R162, R187, R190). -/
theorem Gn.putFrame_eq (g : Gn) (p : Nat) (f : Frame) :
    let sent := stampTime g.tm.fix { f with seq := (g.port p).txSeq.getD f.cls 0 }
    ∃ tm, g.putFrame p f = ((Gn.setPort { g with tm := tm } p ((g.port p).spent sent)).emitOut (.frame sent.dst sent.flits), sent) := by
  dsimp only [Gn.putFrame]
  split
  · exact ⟨_, rfl⟩
  · exact ⟨g.tm, rfl⟩

/-- As a frame leaves its class and its source stay. -/
theorem stampTime_cls (fix : Nat) (f : Frame) : (stampTime fix f).cls = f.cls := by
  obtain ⟨b, hb⟩ := stampTime_body fix f
  rw [hb]

theorem stampTime_src (fix : Nat) (f : Frame) : (stampTime fix f).src = f.src := by
  obtain ⟨b, hb⟩ := stampTime_body fix f
  rw [hb]

/-- What a port is once its one waiting frame has left (R190, R191). -/
def Port.afterLone (x : Port) (sent : Frame) : Port :=
  let y := { x with sendQ := [] }.spent sent
  if sent.cls = 0 then { y with unack := y.unack ++ [{ src := sent.src, seq := sent.seq, sent := 1, f := sent }] } else y

/-- The one frame that waits starts: its port pays and keeps it where it is of class 0, and its flits leave. -/
theorem Gn.startFrame_lone {g : Gn} {p : Nat} {f : Frame} (hq : (g.port p).sendQ = [f]) :
    let sent := stampTime g.tm.fix { f with seq := (g.port p).txSeq.getD f.cls 0 }
    ∃ ps tm, g.startFrame p f.cls f = { g with lk := { g.lk with ports := ps }, tm := tm, out := g.out ++ [.frame sent.dst sent.flits] }
      ∧ SMap.get (fun _ => Port.empty) ps p = (g.port p).afterLone sent ∧ ∀ q, q ≠ p → SMap.get (fun _ => Port.empty) ps q = g.port q := by
  intro sent
  have hempty : removeFirst (fun e : Frame => e.cls == f.cls) [f] = [] := if_pos (by simp)
  have hcls : sent.cls = f.cls := stampTime_cls _ _
  have hport : (g.setPort p { g.port p with sendQ := [] }).port p = { g.port p with sendQ := [] } := by simp
  obtain ⟨tm, hput⟩ := (g.setPort p { g.port p with sendQ := [] }).putFrame_eq p f
  rw [hport] at hput
  have hput : (g.setPort p { g.port p with sendQ := [] }).putFrame p f = ((Gn.setPort { g.setPort p { g.port p with sendQ := [] } with tm := tm } p
      ({ g.port p with sendQ := [] }.spent sent)).emitOut (.frame sent.dst sent.flits), sent) := hput
  dsimp only [Gn.startFrame]
  rw [hq, hempty, hput]
  clear_value sent
  dsimp only
  by_cases h0 : f.cls = 0
  · rw [if_pos h0]
    refine ⟨_, tm, rfl, ?_, fun q hqp => ?_⟩
    · rw [SMap.get_set_self, Port.afterLone, if_pos (hcls.trans h0)]
      simp [Gn.port, Gn.emitOut, Gn.setPort]
    · rw [SMap.get_set_ne _ _ _ hqp]
      simp [Gn.emitOut, Gn.setPort, SMap.get_set_ne _ _ _ hqp, Gn.port]
  · rw [if_neg h0]
    refine ⟨_, tm, rfl, ?_, fun q hqp => ?_⟩
    · rw [SMap.get_set_self, Port.afterLone, if_neg (by rw [hcls]; exact h0)]
    · rw [SMap.get_set_ne _ _ _ hqp]
      simp [Gn.setPort, SMap.get_set_ne _ _ _ hqp, Gn.port]

/-- A child or block port with one frame waiting that may start sends it (R190). -/
theorem Gn.frameSend_lone {g : Gn} {p : Nat} {f : Frame} (ha : g.alive = true) (hrx : g.portRx p = true) (hp : p < 32) (hq : (g.port p).sendQ = [f])
    (hc : f.cls < 4) (hfit : f.beads ≤ (g.port p).whole.getD f.cls 0) (hs : (g.port p).canStart f = true) : g.frameSend p = g.startFrame p f.cls f := by
  have hkeep : forEach [0, 1, 2, 3] (fun c g => g.dropHuge p c) g = g :=
    forEach_keeps (fun k : Gn => k = g) _ _ (fun c k hk => by rw [hk, Gn.dropHuge_fits c hq hfit]) g rfl
  have hup : (p == 32 || p == 33) = false := by
    simp only [Bool.or_eq_false_iff, beq_eq_false_iff_ne]
    omega
  have hready : (fun c => match headOf c (g.port p).sendQ with | some f => (g.port p).canStart f | none => false) = fun c => c == f.cls := by
    funext c
    rw [hq, headOf_lone]
    by_cases h : f.cls = c
    · simp [h, hs]
    · simp [h, Ne.symm h]
  have hfind : ([0, 1, 2, 3] : List Nat).find? (fun c => match headOf c (g.port p).sendQ with | some f => (g.port p).canStart f | none => false)
      = some f.cls := by
    rw [hready]
    exact find?_beq_of_mem (by simp only [List.mem_cons]; omega)
  rw [Gn.frameSend, if_neg (by simp [ha, hrx]; omega)]
  dsimp only
  rw [hkeep, hup]
  simp only [Bool.false_eq_true, if_false]
  split
  · next hnone => exact absurd (hnone.symm.trans hfind) (by simp)
  · next c hsome =>
    have hcf : c = f.cls := Option.some.inj (hsome.symm.trans hfind)
    rw [hcf, hq, headOf_lone, if_pos rfl]

/-! ### Credits, resending -/

/-- The oldest item held for a decompressor, alone there. -/
theorem Gn.decompressDone_lone {g : Gn} {p src : Nat} {a : Asm} (hq : (g.port p).heldZ = [a]) (hsrc : a.src = src) :
    let z := zRead a.b
    let k := ((g.setPort p { g.port p with heldZ := [] }).oweCredit p a.cls a.beads).addSat F.lkZ_zSkip z.skips
    g.decompressDone p src a.cls = match z.out with
      | some b => k.emitOut (.item p src a.typ a.ht b)
      | none => (((match k.polSource p src with | some s => k.inc (F.lkSrc_zBad s) | none => k).inc F.lkZ_zRej).recordSrc 0x0902 3
          (((match k.polSource p src with | some s => k.inc (F.lkSrc_zBad s) | none => k).polSource p src).getD (256 + p))).classLost src a.cls := by
  have hfind : [a].find? (fun b => b.src == src && b.cls == a.cls) = some a := by simp [hsrc]
  have hrest : removeFirst (fun b : Asm => b.src == src && b.cls == a.cls) [a] = [] := if_pos (by simp [hsrc])
  dsimp only [Gn.decompressDone]
  rw [hq, hfind, hrest] <;> rfl

/-- Credits and acknowledgments are taken on a port that takes frames. -/
theorem Gn.linkControl_taken {g : Gn} {p : Nat} (cred : List Nat) (acks : List (Nat × Nat)) (ha : g.alive = true) (hp : p < 34) (hrx : g.portRx p = true) :
    let k := (g.setPort p { g.port p with cred := addCred (g.port p).cred cred,
                                          unack := (g.port p).unack.filter (fun u => !acks.contains (u.src, u.seq)) }).retireCheck
    g.linkControl p cred acks = if p = 32 ∨ p = 33 then k.noteAsks (p - 32) else k := by
  rw [Gn.linkControl, if_neg (by simp [ha, hrx]; omega)]

/-- Credits or acknowledgments owed leave in one frame once a credit is held for it, and wait otherwise. -/
theorem Gn.creditReturn_owed {g : Gn} {p : Nat} (ha : g.alive = true) (hp : p < 34) (hrx : g.portRx p = true)
    (ho : ((g.port p).owed.all (· == 0) && (g.port p).acks.isEmpty) = false) :
    let x := g.port p
    let f := g.newFrame (.port p) 0x01 (linkCtlBody (x.owed.map (min 0xFFFF)) x.acks)
    g.creditReturn p = if x.hasCredit f = true then
      ((g.setPort p { x with owed := x.owed.map (fun n => n - min 0xFFFF n), acks := x.acks.drop 8 }).putFrame p f).1 else g := by
  intro x f
  rw [Gn.creditReturn, if_neg (by simp [ha, hrx]; omega)]
  dsimp only
  rw [ho]
  cases hf : x.hasCredit f with
  | true => exact if_neg (by simp)
  | false => exact if_pos (by simp)

/-- A class-0 frame not acknowledged is sent a second time where there are credits for it, and the third time the link is lost (R191). -/
theorem Gn.resend_found {g : Gn} {p src seq : Nat} {u : Unack} (hu : (g.port p).unack.find? (fun v => v.src == src && v.seq == seq) = some u) :
    let x := g.port p
    let y := { x with unack := updateFirst (fun v => v.src == src && v.seq == seq) (fun v => { v with sent := 2 }) x.unack,
                      cred := x.cred.zipIdx.map (fun e => if e.2 = 0 then e.1 - u.f.beads else e.1) }
    g.resend p src seq = if u.sent = 1 then
        (if x.hasCredit u.f = true then ((g.setPort p y).inc (F.lkStat_r0Resend p)).emitOut (.frame u.f.dst u.f.flits) else g)
      else g.losePort p none := by
  dsimp only [Gn.resend]
  rw [hu]

/-! ### Gates, keep-alive, warnings -/

/-- A pending list within its limits is committed (R199). -/
theorem Gn.gateCommit_good {g : Gn} {u : Nat} (h1 : (g.pendingGate u).ents ≠ []) (h2 : (g.pendingGate u).ents.length ≤ 256)
    (h3 : 1000 ≤ gateCycle (g.pendingGate u).ents) (h4 : gateCycle (g.pendingGate u).ents ≤ 1000000000)
    (h5 : (g.pendingGate u).phase < gateCycle (g.pendingGate u).ents) : g.gateCommit u
      = Gn.put { g with lk := { g.lk with gates := SMap.set gateDefault g.lk.gates (2 + u) (g.pendingGate u) } } (F.lkGctl_pend u) true := by
  refine if_neg ?_
  simp only [List.isEmpty_iff, Bool.or_eq_true, decide_eq_true_eq, h1, false_or]
  omega

/-- One outside them is refused. -/
theorem Gn.gateCommit_bad {g : Gn} {u : Nat} (h : (g.pendingGate u).ents = [] ∨ 256 < (g.pendingGate u).ents.length
    ∨ gateCycle (g.pendingGate u).ents < 1000 ∨ 1000000000 < gateCycle (g.pendingGate u).ents
    ∨ gateCycle (g.pendingGate u).ents ≤ (g.pendingGate u).phase) : g.gateCommit u = g.put (F.lkGctl_gateErr u) true := by
  refine if_pos ?_
  simp only [List.isEmpty_iff, Bool.or_eq_true, decide_eq_true_eq, or_assoc]
  exact h

/-- A silent port queues a keep-alive (R184). -/
theorem Gn.keepaliveTimer_silent {g : Gn} {p : Nat} (ha : g.alive = true) (hp : p < 34) (hn : (g.port p).sendQ.any (fun f => f.typ == 0) = false)
    (hrx : g.portRx p = true) :
    g.keepaliveTimer p = g.setPort p { g.port p with sendQ := (g.port p).sendQ ++ [g.newFrame (.port p) 0x00 []] } :=
  if_neg (by rw [ha, hrx, hn]; simp; omega)

end Sys2Proof.Machine

open Sys2Proof Sys2Proof.Machine

/-- Settles O24: the port's one frame is the head that may start, and what its start does to the port is said once. -/
theorem frameSendStartsHead : Obligations.FrameSendStartsHead := by
  unfold Obligations.FrameSendStartsHead
  refine ⟨fun s p f ha hrx hp hq hc hfit hs => ?_, fun s => rfl, fun s tags raw => rfl⟩
  intro sent
  obtain ⟨ps, tm, hstart, hself, hother⟩ := Gn.startFrame_lone (g := s.gn) hq
  have hcls : sent.cls = f.cls := stampTime_cls _ _
  refine ⟨_, gnStep_eq ((Gn.frameSend_lone ha hrx hp hq hc hfit hs).trans hstart), rfl, rfl, rfl, ?_⟩
  have hport : ∀ q, Gn.port { s.gn with lk := { s.gn.lk with ports := ps }, tm := tm, out := s.gn.out ++ [.frame sent.dst sent.flits] } q
      = SMap.get (fun _ => Port.empty) ps q := fun q => rfl
  change SMap.get (fun _ => Port.empty) ps p = (s.gn.port p).afterLone sent at hself
  refine ⟨?_, ?_, ?_, fun h0 => ?_, fun q hqp => (hport q).trans (hother q hqp), rfl, rfl⟩
  all_goals
    refine (congrArg _ ((hport p).trans hself)).trans ?_
    rw [Port.afterLone, hcls]
  · split <;> rfl
  · split <;> simp [Port.spent, hcls]
  · split <;> simp [Port.spent, hcls]
  · rw [if_pos h0, show sent.src = f.src from stampTime_src _ _]
    rfl

/-- Settles O23: each command is one branch of its operation. -/
theorem linkServiceCommandsComplete : Obligations.LinkServiceCommandsComplete := by
  unfold Obligations.LinkServiceCommandsComplete
  refine ⟨fun s p src a hq hsrc => ⟨fun b hb => gnStep_eq ?_, fun hb => gnStep_eq ?_⟩,
    fun s p cred acks ha hp hrx => gnStep_eq (Gn.linkControl_taken cred acks ha hp hrx),
    fun s p ha hp hrx ho => ⟨fun hf => gnStep_eq ((Gn.creditReturn_owed ha hp hrx ho).trans (if_pos hf)),
      fun hf => gnStep_self ((Gn.creditReturn_owed ha hp hrx ho).trans (if_neg (by simp [hf])))⟩,
    fun s p src seq u ha hu => ⟨fun hs hf => gnStep_if ha ?_, fun hs => ?_⟩⟩
  · rw [Gn.decompressDone_lone hq hsrc, hb]
  · rw [Gn.decompressDone_lone hq hsrc, hb] <;> rfl
  · rw [Gn.resend_found hu, if_pos hs, if_pos hf]
  · have hlost : s.gn.resend p src seq = s.gn.losePort p none := by rw [Gn.resend_found hu, if_neg hs]
    exact (gnStep_if ha hlost).trans (gnStep_if ha rfl).symm

/-- Settles O25: each timer is one branch of its operation. -/
theorem linkTimersComplete : Obligations.LinkTimersComplete := by
  unfold Obligations.LinkTimersComplete
  exact ⟨fun s u h1 h2 h3 h4 h5 => gnStep_eq (Gn.gateCommit_good h1 h2 h3 h4 h5), fun s u h => gnStep_eq (Gn.gateCommit_bad h),
    fun s u h => gnStep_eq (if_pos h), fun s p ha hp hn hrx => gnStep_eq (Gn.keepaliveTimer_silent ha hp hn hrx), fun s => rfl, fun s a => rfl,
    fun s h => gnStep_eq (if_neg h), fun s p h => gnStep_eq (if_pos h), fun s p h => gnStep_eq (if_neg h)⟩

end

section
/-! Receiving on a link (R186 to R190, R195 to R197): flits, admission, and the frame of one segment. -/

namespace Sys2Proof.Machine

/-! ### Flits -/

/-- The module once the codewords of a flit have been counted (R182). -/
def Gn.fecCounted (g : Gn) (p ce ue : Nat) : Gn := (g.addWrap (F.lkErr_fecCe p) ce).addSat (F.lkErr_fecUe p) ue

theorem Gn.fecCounted_eq (g : Gn) (p ce ue : Nat) : (g.addWrap (F.lkErr_fecCe p) ce).addSat (F.lkErr_fecUe p) ue = g.fecCounted p ce ue := rfl

@[simp] theorem Gn.fecCounted_port (g : Gn) (p ce ue q : Nat) : (g.fecCounted p ce ue).port q = g.port q := rfl

/-- Counting codewords writes the port's two counts only. -/
theorem Gn.rg_fecCounted_ne (g : Gn) {p : Nat} (ce ue : Nat) {f : FRef} (h1 : f.key ≠ (F.lkErr_fecCe p).key) (h2 : f.key ≠ (F.lkErr_fecUe p).key) :
    (g.fecCounted p ce ue).rg f = g.rg f := (Gn.rg_addSat_ne _ _ h2).trans (Gn.rg_wr_ne _ _ h1)

/-- A flit whose tag is right, that FEC corrected, with the beads its tag names. -/
def flitGood (tag : Word) (b : List Byte) (ue : Nat) : Prop :=
  ¬ (0 < ue ∨ crc8 (leBytes 7 tag.toNat) ≠ bits tag.toNat 56 8 ∨ b.length ≠ 64 * (bits tag.toNat 48 4 + 1))

/-- A flit that arrives while no frame is in reception. -/
theorem Gn.flitReceive_idle {g : Gn} {p : Nat} (tag : Word) (b : List Byte) (ce ue : Nat) (ha : g.alive = true) (hp : g.portRx p = true)
    (hrx : (g.port p).rx = none) : g.flitReceive p tag b ce ue
      = if 0 < ue ∨ crc8 (leBytes 7 tag.toNat) ≠ bits tag.toNat 56 8 ∨ b.length ≠ 64 * (bits tag.toNat 48 4 + 1) then (g.fecCounted p ce ue).badFlit p
        else if bit tag.toNat 52 = true then (g.fecCounted p ce ue).firstFlit p (bits tag.toNat 0 48) (bits tag.toNat 54 2) b (bit tag.toNat 53)
        else (g.fecCounted p ce ue).badFlit p := by
  have hk : ((g.fecCounted p ce ue).port p).rx = none := hrx
  rw [Gn.flitReceive, if_neg (by simp [ha, hp])]
  simp only [Gn.fecCounted_eq, hk]

/-- A damaged flit that arrives while a frame is in reception; a whole frame that waits goes first. -/
theorem Gn.flitReceive_damaged {g : Gn} {p : Nat} {r : Rx} {tag : Word} {b : List Byte} (ce : Nat) {ue : Nat} (ha : g.alive = true)
    (hp : g.portRx p = true) (hrx : (g.port p).rx = some r)
    (hbad : 0 < ue ∨ crc8 (leBytes 7 tag.toNat) ≠ bits tag.toNat 56 8 ∨ b.length ≠ 64 * (bits tag.toNat 48 4 + 1)) : g.flitReceive p tag b ce ue
      = (if r.last = true then (g.fecCounted p ce ue).frameReceive p else g.fecCounted p ce ue).badFlit p := by
  have hk : ((g.fecCounted p ce ue).port p).rx = some r := hrx
  rw [Gn.flitReceive, if_neg (by simp [ha, hp])]
  simp only [Gn.fecCounted_eq, hk]
  rw [if_pos hbad]

/-- A good flit continues the frame in reception. -/
theorem Gn.flitReceive_later {g : Gn} {p : Nat} {r : Rx} {tag : Word} {b : List Byte} (ce : Nat) {ue : Nat} (ha : g.alive = true)
    (hp : g.portRx p = true) (hrx : (g.port p).rx = some r) (hgood : flitGood tag b ue) (hfirst : bit tag.toNat 52 = false)
    (hstamp : r.stamp = bits tag.toNat 0 48) (hlast : r.last = false) (hok : r.ok = true) (hlen : (r.b ++ b).length ≤ 4096) :
    g.flitReceive p tag b ce ue = (g.fecCounted p ce ue).setPort p
      { (g.fecCounted p ce ue).port p with rx := some { r with b := r.b ++ b, last := bit tag.toNat 53 } } := by
  have hk : ((g.fecCounted p ce ue).port p).rx = some r := hrx
  rw [Gn.flitReceive, if_neg (by simp [ha, hp])]
  simp only [Gn.fecCounted_eq, hk]
  rw [if_neg hgood]
  simp only [hlast, hfirst, Bool.false_eq_true, if_false, hk, hok, if_true]
  exact if_neg (by simp only [hstamp, ne_eq, not_true_eq_false, false_or]; omega)

/-- A damaged flit ends a frame in reception, or begins the discard of one, unless the frame is discarded already (R196). -/
theorem Gn.badFlit_idle {g : Gn} {p : Nat} (h : (g.port p).rx = none) : g.badFlit p = (g.badFrame p).skipRest p := by rw [Gn.badFlit, h]

theorem Gn.badFlit_ok {g : Gn} {p : Nat} {r : Rx} (h : (g.port p).rx = some r) (hok : r.ok = true) : g.badFlit p = (g.badFrame p).skipRest p := by
  rw [Gn.badFlit, h]
  exact if_pos hok

theorem Gn.badFlit_discarded {g : Gn} {p : Nat} {r : Rx} (h : (g.port p).rx = some r) (hok : r.ok = false) : g.badFlit p = g := by
  rw [Gn.badFlit, h]
  exact if_neg (by simp [hok])

/-- The module once policing has looked at a frame of a source: a frame not admitted owes its credits back at once (R195, R197). -/
def Gn.admitted (g : Gn) (p src cls beads : Nat) : Gn :=
  let r := g.police p src cls beads
  if r.2 = true then r.1 else r.1.oweCredit p cls beads

/-- A first flit outside Deep idle is policed. -/
theorem Gn.firstFlit_policed {g : Gn} {p : Nat} (stamp cls : Nat) (b : List Byte) (last : Bool) (hp : p < 34) (hd : g.rg F.pwState_pstate ≠ 2) :
    let beads := bits (u64 b 8) 0 6 + 1
    let k := g.admitted p (bits (u64 b 8) 24 8) cls beads
    g.firstFlit p stamp cls b last = k.setPort p { k.port p with
      rx := some { stamp := stamp, ht := k.now, ok := (g.police p (bits (u64 b 8) 24 8) cls beads).2, beads := beads, cls := cls, b := b, last := last } } := by
  dsimp only [Gn.firstFlit]
  rw [if_neg (show ¬ (g.rg F.pwState_pstate = 2 ∧ cls ≠ 0) by simp [hd]), if_neg (show ¬ 34 ≤ p by omega)]
  rfl

/-! ### Admission -/

/-- The module with the bucket of source `src` put as given. -/
def Gn.setBucket (g : Gn) (src : Nat) (x : Bucket) : Gn :=
  { g with lk := { g.lk with buckets := SMap.set (fun _ => none) g.lk.buckets (src * 2) (some x) } }

/-- A record leaves the buckets of policing alone. -/
theorem Gn.submit_buckets (g : Gn) (prod : Nat) (it : RecItem) : (g.submit prod it).lk.buckets = g.lk.buckets := by
  rcases g.submit_cases prod it with ⟨arbs, h⟩ | h | ⟨_, _, _, _, _, h⟩ <;> rw [h]
  rfl

/-- A record of the links about a source is a record. -/
theorem Gn.recordSrc_submit (g : Gn) (code sev x : Nat) : ∃ it, g.recordSrc code sev x = g.submit prodLinks it := by
  unfold Gn.recordSrc
  split
  · exact ⟨_, rfl⟩
  · exact ⟨_, rfl⟩

/-- Credits owed for a frame change its port only. -/
theorem Gn.oweCredit_keeps (g : Gn) (p cls beads : Nat) : (g.oweCredit p cls beads).lk.buckets = g.lk.buckets
    ∧ (g.oweCredit p cls beads).mem = g.mem ∧ (g.oweCredit p cls beads).now = g.now := by
  unfold Gn.oweCredit
  split
  · exact ⟨rfl, rfl, rfl⟩
  · exact ⟨rfl, rfl, rfl⟩

theorem Gn.oweCredit_port {g : Gn} {p : Nat} (cls beads : Nat) (hp : p < 34) :
    (g.oweCredit p cls beads).port p = { g.port p with owed := bump (g.port p).owed cls beads } := by
  rw [Gn.oweCredit, if_neg (by omega), Gn.port_setPort, if_pos rfl]

/-- The bucket of a source after a frame has been looked at, and what is kept of the module: the memories and hall time. -/
theorem Gn.police_site {g : Gn} {p src cls beads : Nat} (hp : p < 8) (hsrc : src < 112) (ht : g.isTray = true) (hm : g.siteMapped src = true)
    (hmis : g.lk.mismatch.contains src = false) (hc : cls ≠ 0) (hr : g.rg (F.lkPol_rate src) ≠ 0) :
    let tok := bucketNow (SMap.get (fun _ => none) g.lk.buckets (src * 2)) g.now (g.rg (F.lkPol_rate src)) (g.rg (F.lkPol_burst src))
    let ok := decide (beads * 16 ≤ tok)
    (g.police p src cls beads).2 = ok ∧ (g.police p src cls beads).1.lk.buckets
        = SMap.set (fun _ => none) g.lk.buckets (src * 2) (some { tok := if ok = true then tok - beads * 16 else tok, last := g.now })
      ∧ (g.police p src cls beads).1.mem = g.mem ∧ (g.police p src cls beads).1.now = g.now := by
  intro tok ok
  have hpol : g.polSource p src = some src := by rw [Gn.polSource, if_pos ht, if_pos ⟨hp, hsrc⟩]
  have hkey : src * 2 + b2n (cls == 0) = src * 2 := by simp [hc, b2n]
  have hzero : (cls != 0 && (g.rg (F.lkPol_rate src) == 0 || g.zeroSource src)) = false := by
    simp only [Gn.zeroSource, hm, hmis, Bool.not_true, Bool.or_false, Bool.and_false, beq_false_of_ne hr]
  have hmapped : (cls != 0 && g.isTray && !g.siteMapped src) = false := by simp [hm]
  have hpolice : g.police p src cls beads = (let k := g.setBucket src { tok := if ok = true then tok - beads * 16 else tok, last := g.now }
      if ok = true then (k, true) else ((k.inc (F.lkSrc_polDrop src)).recordSrc 0x0906 2 src, false)) := by
    rw [Gn.police, hpol]
    dsimp only
    rw [if_neg hc, if_neg hc, hkey, hzero]
    simp only [Bool.not_false, Bool.true_and]
    exact ite_congr rfl (fun _ => congrArg (·, true) (if_neg (Bool.eq_false_iff.1 hmapped)))
      (fun _ => congrArg (fun k : Gn => ((k.inc (F.lkSrc_polDrop src)).recordSrc 0x0906 2 src, false)) (if_neg (Bool.eq_false_iff.1 hmapped)))
  rw [hpolice]
  dsimp only
  cases ok with
  | true => exact ⟨rfl, rfl, rfl, rfl⟩
  | false =>
    obtain ⟨it, hrec⟩ := Gn.recordSrc_submit ((g.setBucket src { tok := tok, last := g.now }).inc (F.lkSrc_polDrop src)) 0x0906 2 src
    simp only [Bool.false_eq_true, if_false, hrec]
    exact ⟨trivial, Gn.submit_buckets _ _ _, Gn.submit_mem _ _ _, Gn.submit_now _ _ _⟩

/-! ### The frame of one segment -/

/-- A frame with nothing of its source and class in reassembly, and no sequence number expected, is an item by itself: its body is handed on. -/
theorem Gn.assemble_single {g : Gn} {p : Nat} {f : RxFrame} (ht : Nat) (hseq : (g.port p).expSeq.find? (fun e => e.1 == f.src && e.2.1 == f.cls) = none)
    (hasm : (g.port p).asm.find? (fun a => a.src == f.src && a.cls == f.cls) = none) (hseg : f.seg = 0) (hmore : f.more = false) (hz : f.z = false) :
    g.assemble p f ht = ((g.setPort p { g.port p with
        expSeq := (g.port p).expSeq.filter (fun e => !(e.1 == f.src && e.2.1 == f.cls)) ++ [(f.src, f.cls, (f.seq + 1) % 2 ^ 16)]
        asm := (g.port p).asm.filter (fun a => !(a.src == f.src && a.cls == f.cls)) }).oweCredit p f.cls (f.nbead + 1)).emitOut
      (.item p f.src f.typ ht f.body) := by
  dsimp only [Gn.assemble]
  rw [hseq, hasm]
  simp only [hseg, hmore, if_true, Bool.and_false, b2n, Bool.false_eq_true, if_false, Gn.itemDone, hz]

/-- A whole frame of classes 1 to 3 that fits its header, its port and its source goes to reassembly. -/
theorem Gn.frameReceive_fits {g : Gn} {p : Nat} {r : Rx} (ha : g.alive = true) (hrx : g.portRx p = true) (hp : p < 34) (hr : (g.port p).rx = some r)
    (hok : r.ok = true) (hlast : r.last = true) (hframe : frameOk r.b (parseFrame r.b) = true) (hhead : headerFits r (parseFrame r.b) = true)
    (hcls : (parseFrame r.b).cls ≠ 0) (htyp : (parseFrame r.b).typ ≠ 0x40)
    (hproof : (proofKind (parseFrame r.b).typ && (g.portUse p == 2 || g.portUse p == 3 || g.portUse p == useTc2)) = false)
    (hon : g.typeOn p (parseFrame r.b).typ = true) (hclass : clsOk (decide ((parseFrame r.b).src < 112)) (parseFrame r.b).typ (parseFrame r.b).cls = true)
    (hsrc : g.srcOn p (parseFrame r.b).src (parseFrame r.b).typ = true) :
    g.frameReceive p = ((((g.setPort p { g.port p with rx := none }).count 8 p).chanState (rxLink p (parseFrame r.b).src) (parseFrame r.b).stamp r.b).assemble p
      (parseFrame r.b) (extStamp g.now (parseFrame r.b).stamp)) := by
  rw [Gn.frameReceive, if_neg (by simp [ha, hrx]), hr]
  dsimp only
  rw [if_neg (by simp [hlast]), if_neg (by simp [hok]), if_neg (by simp [hframe, hhead, htyp]), if_neg (by simp [hproof]),
    if_neg (by simp [hon, hclass, hsrc])]
  rw [if_neg (by simp [hcls]), if_neg htyp, if_neg (by omega), if_neg (by omega)]
  rfl

/-- `Gn.police_site` for the module after the frame's credits are seen to. -/
theorem Gn.admitted_site {g : Gn} {p src cls beads : Nat} (hp : p < 8) (hsrc : src < 112) (ht : g.isTray = true) (hm : g.siteMapped src = true)
    (hmis : g.lk.mismatch.contains src = false) (hc : cls ≠ 0) (hr : g.rg (F.lkPol_rate src) ≠ 0) :
    let tok := bucketNow (SMap.get (fun _ => none) g.lk.buckets (src * 2)) g.now (g.rg (F.lkPol_rate src)) (g.rg (F.lkPol_burst src))
    let ok := decide (beads * 16 ≤ tok)
    (g.admitted p src cls beads).lk.buckets
        = SMap.set (fun _ => none) g.lk.buckets (src * 2) (some { tok := if ok = true then tok - beads * 16 else tok, last := g.now })
      ∧ (g.admitted p src cls beads).mem = g.mem ∧ (g.admitted p src cls beads).now = g.now := by
  obtain ⟨-, hbuckets, hmem, hnow⟩ := Gn.police_site (beads := beads) hp hsrc ht hm hmis hc hr
  obtain ⟨obuckets, omem, onow⟩ := Gn.oweCredit_keeps (g.police p src cls beads).1 p cls beads
  refine ⟨?_, ?_, ?_⟩ <;> dsimp only [Gn.admitted] <;> split
  · exact hbuckets
  · exact obuckets.trans hbuckets
  · exact hmem
  · exact omem.trans hmem
  · exact hnow
  · exact onow.trans hnow

/-- What is kept of the module as it takes a frame off its port and its channel. -/
theorem Gn.taken_keeps (g : Gn) (p : Nat) (x : Port) (l : LinkRef) (stamp : Nat) (raw : List Byte) :
    let k := ((g.setPort p x).count 8 p).chanState l stamp raw
    k.port p = x ∧ k.out = g.out ∧ k.regs = g.regs ∧ k.mem = g.mem ∧ k.hq = g.hq :=
  ⟨(Gn.port_setPort _ _ _ _).trans (if_pos rfl), rfl, rfl, rfl, rfl⟩

end Sys2Proof.Machine

open Sys2Proof Sys2Proof.Machine

/-- Settles O20: the branches of `flitReceive`, without a reception and with one. -/
theorem flitReceptionRules : Obligations.FlitReceptionRules := by
  unfold Obligations.FlitReceptionRules
  refine ⟨fun s p tag b ha hrx hr hp hd hcrc hfirst hlen => gnStep_eq ?_,
    fun s p tag b ce ue ha hrx hbad => ⟨fun hr => gnStep_eq ?_, fun r hr hl hok => gnStep_eq ?_, fun r hr hl hok => gnStep_eq ?_, fun r hr hl => gnStep_eq ?_⟩,
    fun s p tag b r ha hrx hr hcrc hfirst hlen hst hl hok hmax => gnStep_eq
      (Gn.flitReceive_later 0 ha hrx hr (by simp [flitGood, hcrc, hlen]) hfirst hst hl hok hmax)⟩
  · have hkeep : (s.gn.fecCounted p 0 0).rg F.pwState_pstate ≠ 2 := by
      rwa [Gn.rg_fecCounted_ne _ _ _ (by simp only [FRef.key, F.pwState_pstate, F.lkErr_fecCe]; omega) (by simp only [FRef.key, F.pwState_pstate, F.lkErr_fecUe]; omega)]
    rw [Gn.flitReceive_idle tag b 0 0 ha hrx hr, if_neg (by simp [hcrc, hlen]), if_pos hfirst]
    exact Gn.firstFlit_policed _ _ _ _ hp hkeep
  · rw [Gn.flitReceive_idle tag b ce ue ha hrx hr, if_pos hbad]
    exact Gn.badFlit_idle hr
  · rw [Gn.flitReceive_damaged ce ha hrx hr hbad, if_neg (by simp [hl])]
    exact Gn.badFlit_ok hr hok
  · rw [Gn.flitReceive_damaged ce ha hrx hr hbad, if_neg (by simp [hl])]
    exact Gn.badFlit_discarded hr hok
  · rw [Gn.flitReceive_damaged ce ha hrx hr hbad, if_pos hl]
    rfl

/-- Settles O21: by `Gn.firstFlit_policed` with the bucket of `Gn.police_site`, which the FEC counts do not touch. -/
theorem policingAdmitsByTokens : Obligations.PolicingAdmitsByTokens := by
  unfold Obligations.PolicingAdmitsByTokens
  intro s p tag b ha
  dsimp only
  intro hrx hp hsrc ht hm hmis hr hd hcrc hfirst hlen hcls hrate
  generalize hs : bits (u64 b 8) 24 8 = src at *
  generalize hb : bits (u64 b 8) 0 6 + 1 = beads
  have hce : ∀ f : FRef, f = F.lkPol_rate src ∨ f = F.lkPol_burst src ∨ f = F.pwState_pstate → (s.gn.fecCounted p 0 0).rg f = s.gn.rg f := by
    intro f hf
    refine Gn.rg_fecCounted_ne _ _ _ ?_ ?_ <;> rcases hf with rfl | rfl | rfl <;>
      simp only [FRef.key, F.pwState_pstate, F.lkErr_fecUe, F.lkErr_fecCe, F.lkPol_rate, F.lkPol_burst] <;> omega
  have hrate' : (s.gn.fecCounted p 0 0).rg (F.lkPol_rate src) ≠ 0 := by rwa [hce _ (.inl rfl)]
  have hok := (Gn.police_site (g := s.gn.fecCounted p 0 0) (beads := beads) hp hsrc ht hm hmis hcls hrate').1
  obtain ⟨hbuckets, hmem, hnow⟩ := Gn.admitted_site (g := s.gn.fecCounted p 0 0) (beads := beads) hp hsrc ht hm hmis hcls hrate'
  rw [hce _ (.inl rfl), hce _ (.inr (.inl rfl))] at hok hbuckets
  have hflit := Gn.flitReceive_idle tag b 0 0 ha hrx hr
  rw [if_neg (by simp [hcrc, hlen]), if_pos hfirst, Gn.firstFlit_policed _ _ _ _ (by omega) (by rwa [hce _ (.inr (.inr rfl))]), hs, hb] at hflit
  refine ⟨_, gnStep_eq hflit, rfl, rfl, ?_, ?_, hmem⟩
  · rw [Gn.port_setPort, if_pos rfl, hok, hnow]
    rfl
  · exact (congrArg (SMap.get (fun _ => none) · (src * 2)) hbuckets).trans (SMap.get_set_self _ _ _ _)

/-- Settles O22: `Gn.frameReceive_fits`, then reassembly of one segment (`Gn.assemble_single`). -/
theorem singleFrameItemHandedOn : Obligations.SingleFrameItemHandedOn := by
  unfold Obligations.SingleFrameItemHandedOn
  intro s p r b
  dsimp only
  intro ha hrx hp hr hok hlast hframe hhead hcls htyp hproof hon hclass hsrc hz hmore hseg hseq hasm
  have hrecv := Gn.frameReceive_fits ha hrx hp hr hok hlast hframe hhead hcls htyp hproof hon hclass hsrc
  obtain ⟨kport, kout, kregs, kmem, khq⟩ :=
    s.gn.taken_keeps p { s.gn.port p with rx := none } (rxLink p (parseFrame r.b).src) (parseFrame r.b).stamp r.b
  generalize ((s.gn.setPort p { s.gn.port p with rx := none }).count 8 p).chanState (rxLink p (parseFrame r.b).src) (parseFrame r.b).stamp r.b = g at *
  rw [Gn.assemble_single _ (by rw [kport]; exact hseq) (by rw [kport]; exact hasm) hseg hmore hz, Gn.oweCredit, if_neg (by omega)] at hrecv
  simp only [Gn.port_setPort, if_true, kport] at hrecv
  refine ⟨_, gnStep_eq hrecv, rfl, rfl, ?_, ?_, ?_, kregs, kmem, khq⟩
  · exact congrArg (· ++ _) kout
  · exact congrArg Port.owed ((Gn.port_setPort _ _ _ _).trans (if_pos rfl))
  · exact congrArg Port.rx ((Gn.port_setPort _ _ _ _).trans (if_pos rfl))

end

section
/-! Host rings (R335 to R347): the entry of a completion, polls, the holdback, and rings disabled. -/

namespace Sys2Proof.Machine

/-! ### The entry of a completion -/

/-- The descriptor that answers a header is of its function and its queue, and carries its operation and its tag. -/
theorem Owed.of_isIt {o : Owed} {op : Nat} {h : DescHdr} (hit : o.isIt op h = true) : o.fn = h.fn ∧ o.d.sq = h.sq ∧ o.d.op = op ∧ o.d.tag = h.tag := by
  simp only [Owed.isIt, Bool.and_eq_true, beq_iff_eq] at hit
  obtain ⟨⟨⟨⟨⟨⟨hfn, hsq⟩, hop⟩, htag⟩, -⟩, -⟩, -⟩ := hit
  exact ⟨hfn, hsq, hop, htag⟩

@[simp] theorem Gn.cq_setCq_self (g : Gn) (fn q : Nat) (x : CqSt) : (g.setCq fn q x).cq fn q = x := SMap.get_set_self _ _ _ _

/-- An entry put into its ring while fewer than `ic_n` stand unsignalled signals nothing. -/
theorem Gn.putCqe_unsignalled {g : Gn} {fn q : Nat} {e : Cqe} (hq : q < 4) (he : e.unsol = false)
    (hn : (g.cq fn q).unsig + 1 < g.rg (F.hqImod_icN fn q)) :
    let tail := g.rg (F.hqCqs_tail fn q)
    let slot := tail % 2 ^ g.rg (F.hqCq_lg fn q)
    g.putCqe fn q e = ((g.emitOut (.cqe fn q slot (4096 * g.rg (F.hqCq_base fn q) + 32 * slot) { e with phase := (g.cq fn q).phase }.bytes)).wr
      (F.hqCqs_tail fn q) (tail + 1)).setCq fn q
        { g.cq fn q with phase := if (tail + 1) % 2 ^ g.rg (F.hqCq_lg fn q) = 0 then !(g.cq fn q).phase else (g.cq fn q).phase,
                         unsig := (g.cq fn q).unsig + 1 } := by
  have hkeep : ∀ (k : Gn) (v : Nat) (f : FRef), f = F.hqImod_icN fn q ∨ f = F.hqCq_lg fn q → (k.wr (F.hqCqs_tail fn q) v).rg f = k.rg f := by
    intro k v f hf
    refine Gn.rg_wr_ne _ _ ?_
    rcases hf with rfl | rfl <;> simp only [FRef.key, F.hqImod_icN, F.hqCq_lg, F.hqCqs_tail] <;> omega
  dsimp only [Gn.putCqe]
  rw [hkeep _ _ _ (.inl rfl), hkeep _ _ _ (.inr rfl), he]
  exact if_neg (show ¬ g.rg (F.hqImod_icN fn q) ≤ (g.cq fn q).unsig + 1 by omega)

/-- The completion of a started descriptor whose ring is served. -/
theorem Gn.completeAt_served {g : Gn} {op : Nat} {h : DescHdr} {o : Owed} (status ht : Nat) (result : List Nat)
    (ho : g.hq.owed.find? (fun x => x.isIt op h && x.started) = some o) (hon : g.cqOn h.fn h.sq = true) :
    g.completeAt op h status ht result = (({ g with hq := { g.hq with owed := removeFirst (fun x => x.isIt op h && x.started) g.hq.owed } } : Gn).writeCqe
      h.fn h.sq ⟨h.tag.toNat, op, true, status, false, o.head % 2 ^ 16, ht, result⟩).passReserved h.fn h.sq := by
  have hit := List.find?_some ho
  obtain ⟨hfn, hsq, hop, htag⟩ := Owed.of_isIt (Bool.and_eq_true_iff.1 hit).1
  rw [Gn.completeAt, ho]
  dsimp only [Gn.answerDesc]
  rw [hfn, hsq, hop, htag]
  exact congrArg (Gn.passReserved · h.fn h.sq) (if_pos hon)

/-- A descriptor admitted names one of the function's four submission queues. -/
theorem Gn.sq_of_admits {g : Gn} {op : Nat} {r : OpRule} {h : DescHdr} (ha : g.admits op r h = true) : h.sq < 4 := by
  simp only [Gn.admits, Bool.and_eq_true, decide_eq_true_eq] at ha
  exact ha.1.1.1.1.2

/-- What the entry of a completion leaves when arbiter 128 grants it at once. -/
theorem Gn.writeCqe_granted {g : Gn} {fn q : Nat} {e : Cqe} (hfn : fn < 16) (hq : q < 4) (he : e.unsol = false) (hheld : g.arbHeld 128 = false)
    (hdma : g.hq.dma = []) (hn : (g.cq fn q).unsig + 1 < g.rg (F.hqImod_icN fn q)) :
    let tail := g.rg (F.hqCqs_tail fn q)
    let slot := tail % 2 ^ g.rg (F.hqCq_lg fn q)
    let t := g.writeCqe fn q e
    t.hq.owed = g.hq.owed
      ∧ t.out = g.out ++ [.cqe fn q slot (4096 * g.rg (F.hqCq_base fn q) + 32 * slot) { e with phase := (g.cq fn q).phase }.bytes]
      ∧ t.rg (F.hqCqs_tail fn q) = (tail + 1) % 2 ^ 32
      ∧ t.cq fn q = { g.cq fn q with phase := if (tail + 1) % 2 ^ g.rg (F.hqCq_lg fn q) = 0 then !(g.cq fn q).phase else (g.cq fn q).phase,
                                     unsig := (g.cq fn q).unsig + 1 }
      ∧ t.hq.dma = []
      ∧ (∀ f : FRef, f.key ≠ (F.hqCqs_tail fn q).key → f.key ≠ (F.arb_maxWait 128).key → f.key ≠ (F.arb_ptr 128).key → f.key ≠ (F.arb_starv 128).key →
          t.rg f = g.rg f)
      ∧ t.msix = g.msix := by
  obtain ⟨k, hk, ⟨regs, lk, rfl⟩, hrg⟩ := Gn.writeCqe_lone g fn q e hheld hdma hfn
  have hring : ∀ f : FRef, f = F.hqImod_icN fn q ∨ f = F.hqCqs_tail fn q ∨ f = F.hqCq_lg fn q ∨ f = F.hqCq_base fn q →
      ({ g with regs := regs, lk := lk } : Gn).rg f = g.rg f := by
    intro f hf
    refine hrg f ?_ ?_ ?_ <;> rcases hf with rfl | rfl | rfl | rfl <;>
      simp only [FRef.key, F.hqImod_icN, F.hqCqs_tail, F.hqCq_lg, F.hqCq_base, F.arb_maxWait, F.arb_ptr, F.arb_starv] <;> omega
  dsimp only
  rw [hk, Gn.putCqe_unsignalled hq he (by rw [hring _ (.inl rfl)]; exact hn), hring _ (.inr (.inl rfl)), hring _ (.inr (.inr (.inl rfl))),
    hring _ (.inr (.inr (.inr rfl)))]
  exact ⟨rfl, rfl, Gn.rg_wr_self _ _ _, Gn.cq_setCq_self _ _ _ _, hdma, fun f h1 h2 h3 h4 => (Gn.rg_wr_ne _ _ h1).trans (hrg f h2 h3 h4), rfl⟩

end Sys2Proof.Machine

open Sys2Proof Sys2Proof.Machine

/-- Settles O1: the descriptor's operation is its completion. -/
theorem nopCompletes : Obligations.NopCompletes := by
  unfold Obligations.NopCompletes
  exact fun s h ha => gnStep_desc ha rfl

/-- Settles O2: the entry of the completion (`Gn.completeAt_served`), granted (`Gn.writeCqe_granted`) or kept waiting (`Gn.writeCqe_frozen`). -/
theorem completionEntryWritten : Obligations.CompletionEntryWritten := by
  unfold Obligations.CompletionEntryWritten
  intro s h o ha hfn
  dsimp only
  intro ho hops hon
  have hstep := nopCompletes s h ha
  rw [Gn.complete, Gn.completeAt_served stOk _ [] ho hon] at hstep
  have hmem : (s.gn.begun 0x00 h).mem = s.gn.mem := Gn.begun_mem _ _ _
  generalize s.gn.begun 0x00 h = g at *
  let k : Gn := { g with hq := { g.hq with owed := removeFirst (fun x => x.isIt 0x00 h && x.started) g.hq.owed } }
  have hrest : ∀ x ∈ k.hq.owed, x.d.op < 0x1F := fun x hx => hops x (removeFirst_mem _ _ _ hx)
  refine ⟨fun hheld hdma hunsig => ?_, fun hfrz => ?_⟩
  · obtain ⟨towed, tout, ttail, tcq, tdma, trg, tmsix⟩ := Gn.writeCqe_granted (g := k)
      (e := ⟨h.tag.toNat, 0x00, true, stOk, false, o.head % 2 ^ 16, g.now, []⟩) hfn (Gn.sq_of_admits ha) rfl hheld hdma hunsig
    rw [Gn.passReserved_none _ _ _ (by rw [towed]; exact hrest)] at hstep
    exact ⟨_, hstep, rfl, rfl, tout, ttail, congrArg CqSt.phase tcq, congrArg CqSt.unsig tcq, tdma, trg, (Gn.writeCqe_mem k _ _ _).trans hmem, tmsix⟩
  · obtain ⟨lk, hwait⟩ := Gn.writeCqe_frozen k h.fn h.sq ⟨h.tag.toNat, 0x00, true, stOk, false, o.head % 2 ^ 16, g.now, []⟩ hfrz
    rw [hwait, Gn.passReserved_none _ _ _ (by exact hrest)] at hstep
    exact ⟨_, hstep, rfl, rfl, rfl, rfl, hmem, rfl⟩

/-- Settles O3: each command's branch; a ring disabled loses its entry in the tables and its indices. -/
theorem hostRingCommandsComplete : Obligations.HostRingCommandsComplete := by
  unfold Obligations.HostRingCommandsComplete
  refine ⟨fun s fn ha hf hp => gnStep_eq ?_, fun s fn tails heads descs ha hf hen hheld => gnStep_eq ?_,
    fun s fn q e hhold hon hfree => gnStep_eq ?_, fun s fn q hp => gnStep_eq (if_pos hp), fun s fn q hus hn => gnStep_eq (if_neg (by simp [hus, hn])),
    fun s fn ha hr hfn => ?_, fun s fn q hen => ?_, fun s fn q hen => ?_⟩
  · rw [Gn.nudge, if_neg (by simp [ha, hf]), Gn.pollPending, if_neg (by rw [hp]; decide)]
  · rw [Gn.doorbellPoll, if_neg (by simp [ha, hf, hen]), if_neg (by simp [hheld])]
  · rw [hhold]
    exact if_pos (by simp [hon, hfree])
  · exact ⟨_, gnStep_eq (if_pos (by simp [ha, hr, hfn])), rfl, rfl, rfl, rfl, rfl, rfl, rfl, rfl, rfl, rfl, rfl, rfl, rfl, rfl, rfl⟩
  · have hne : (F.hqSq_en fn q).key ≠ (F.hqSqs_head fn q).key := by simp only [FRef.key, F.hqSq_en, F.hqSqs_head]; omega
    exact ⟨_, gnStep_eq (if_pos hen), rfl, rfl, (Gn.flag_wr_ne _ _ hne).trans (Gn.flag_put_self _ _ _ rfl), Gn.rg_wr_self _ _ 0, rfl, rfl,
      fun f h1 h2 => (Gn.rg_wr_ne _ _ h2).trans (Gn.rg_put_ne _ _ h1), rfl, rfl⟩
  · have hne : (F.hqCq_en fn q).key ≠ (F.hqCqs_tail fn q).key := by simp only [FRef.key, F.hqCq_en, F.hqCqs_tail]; omega
    have hcq : ∀ (k : Gn) (x : CqSt), (k.setCq fn q x).cq fn q = x := fun k x => Gn.cq_setCq_self k fn q x
    exact ⟨_, gnStep_eq (if_pos hen), rfl, rfl, (Gn.flag_wr_ne _ _ hne).trans (Gn.flag_put_self _ _ _ rfl), Gn.rg_wr_self _ _ 0,
      congrArg CqSt.phase (hcq _ _), congrArg CqSt.head (hcq _ _), (congrArg CqSt.hold (hcq _ _)).trans rfl, rfl, rfl,
      fun f h1 h2 => (Gn.rg_wr_ne _ _ h2).trans (Gn.rg_put_ne _ _ h1), rfl, rfl⟩

end

section
/-! Broadcasts (R229 to R234). -/

namespace Sys2Proof.Machine

/-! ### Taking and cancelling an arm -/

theorem Gn.takeArm_status (g : Gn) (a : Arm) (hdr : Option DescHdr) : (g.takeArm a hdr).2 = g.armStatus a := rfl

/-- An arm of a broadcast not known here, before its time, with room for it. -/
theorem Gn.armFrame_new {g : Gn} {p : Nat} {a : Arm} (hp : g.fromAbove p = true) (hb : g.bc a.origin a.bid = none) (ht : g.now < a.tFire)
    (hn : g.armedCount < 8) (hacc : g.acc ≠ 2) (hd : g.rg F.pwState_pstate ≠ 2) :
    g.armFrame p a = (g.takeArm a none).1.sendPort p 0x35 (armAckBody a.bid a.origin (g.takeArm a none).1.node 0) := by
  have hst : (g.takeArm a none).2 = 0 := (if_neg (by omega)).trans (if_neg (by simp only [hacc, hd, or_false]; omega))
  rw [Gn.armFrame, if_neg (by simp [hp]), hb]
  dsimp only
  rw [hst]
  rfl

/-- An arm that arrives at or after its time is late, and this node reports it. -/
theorem Gn.armFrame_late {g : Gn} {p : Nat} {a : Arm} (hp : g.fromAbove p = true) (hb : ∀ b : Bc, g.bc a.origin a.bid = some b → b.own ≠ 0 ∧ b.own ≠ 3)
    (ht : a.tFire ≤ g.now) :
    let k := (g.takeArm a none).1.inc F.bcStat_late
    g.armFrame p a = ((k.sendPort p 0x35 (armAckBody a.bid a.origin k.node 1)).fireNow a.origin a.bid).tryReport a.origin a.bid := by
  have hst : (g.takeArm a none).2 = 1 := if_pos ht
  rw [Gn.armFrame, if_neg (by simp [hp])]
  cases hk : g.bc a.origin a.bid with
  | none =>
    dsimp only
    rw [hst]
    rfl
  | some b =>
    obtain ⟨h0, h3⟩ := hb b hk
    dsimp only
    rw [if_neg (by simp [h0, h3]), hst]
    rfl

/-! ### Broadcasts by their identifiers -/

/-- A broadcast that is put back is found under its identifiers. -/
theorem Gn.bc_setBc {g : Gn} {origin bid : Nat} {b c : Bc} (hb : g.bc origin bid = some b) (hc : c.a = b.a) : (g.setBc c).bc origin bid = some c := by
  have his : b.is origin bid = true := List.find?_some (p := fun b => Bc.is b origin bid) hb
  obtain ⟨ho, hi⟩ : b.a.origin = origin ∧ b.a.bid = bid := by simpa [Bc.is] using his
  have hput : ∀ x : Bc, (if x.is c.a.origin c.a.bid = true then c else x).is origin bid = x.is origin bid := by
    intro x
    rw [hc, ho, hi]
    split
    · rename_i hx
      rw [hx, Bc.is, hc]
      exact his
    · rfl
  show (g.rd.bcs.map (fun x => if x.is c.a.origin c.a.bid then c else x)).find? (fun b => b.is origin bid) = some c
  rw [List.find?_map, show (fun b : Bc => b.is origin bid) ∘ (fun x : Bc => if x.is c.a.origin c.a.bid then c else x) = fun b => b.is origin bid
    from funext hput, show g.rd.bcs.find? (fun b => b.is origin bid) = some b from hb]
  exact congrArg some (if_pos (by rw [hc, ho, hi]; exact his))

/-- With an UP child that has not reported, the broadcast waits. -/
theorem Gn.tryReport_waits {g : Gn} {origin bid : Nat} {b : Bc} (hb : g.bc origin bid = some b) (ht : g.isTray = false) (hr : b.reports = [])
    (hc : g.upChildren ≠ []) : g.tryReport origin bid = g := by
  have hall : g.allReported b = false := by
    cases hl : g.upChildren with
    | nil => exact absurd hl hc
    | cons p ps => simp [Gn.allReported, hl, hr]
  rw [Gn.tryReport, hb]
  exact if_neg (by simp [ht, hall])

/-- The node takes its part in a broadcast armed here whose time has come. -/
theorem Gn.fireNow_armed {g : Gn} {origin bid : Nat} {b : Bc} (hb : g.bc origin bid = some b) (hf : b.fired = false) (ho : b.own = 0)
    (ht : b.a.tFire ≤ g.now) : g.fireNow origin bid = (g.setBc { b with fired := true }).fireAction b.a := by
  rw [Gn.fireNow, hb]
  dsimp only
  rw [if_neg (by simp [hf]; omega), if_neg (by omega), if_pos ho]

/-- Before its time, or once it has fired, nothing happens. -/
theorem Gn.fireNow_not {g : Gn} {origin bid : Nat} {b : Bc} (hb : g.bc origin bid = some b) (h : b.fired = true ∨ g.now < b.a.tFire) :
    g.fireNow origin bid = g := by
  rw [Gn.fireNow, hb]
  exact if_pos (by simpa using h)

/-- The switch of the rank tables, and what it leaves alone. -/
theorem Gn.mapSwitch_pending {g : Gn} {gen : Nat} {m : SMap Word32} (hp : g.rd.pend = some (gen, m)) (hgen : gen < 2 ^ 16) :
    g.mapSwitch.rd = { g.rd with ranks := m, pend := none } ∧ g.mapSwitch.rg F.rdMap_gen = gen ∧ g.mapSwitch.rg F.rdMap_pendGen = 0
      ∧ g.mapSwitch.mem = g.mem ∧ g.mapSwitch.isTray = g.isTray ∧ g.mapSwitch.upChildren = g.upChildren := by
  have hstate : ∀ (p : Nat) (f : FRef), p < 34 → f = F.rdMap_gen ∨ f = F.rdMap_pendGen → (F.lkStat_state p).key ≠ f.key := by
    intro p f hp hf
    rcases hf with rfl | rfl <;> simp only [FRef.key, F.rdMap_gen, F.rdMap_pendGen, F.lkStat_state] <;> omega
  have hswitch : g.mapSwitch = Gn.retag g (((g.onRd (fun d => { d with ranks := m, pend := none })).wr F.rdMap_gen gen).wr F.rdMap_pendGen 0) := by
    rw [Gn.mapSwitch, hp]
  obtain ⟨ps, sh, ab, ts, htag⟩ := Gn.retag_lk g (((g.onRd (fun d => { d with ranks := m, pend := none })).wr F.rdMap_gen gen).wr F.rdMap_pendGen 0)
  rw [hswitch, htag]
  refine ⟨rfl, ?_, Gn.rg_wr_self _ _ 0, rfl, rfl, ?_⟩
  · refine (Gn.rg_wr_ne _ _ (by decide)).trans ((Gn.rg_wr_self _ _ gen).trans (Nat.mod_eq_of_lt hgen))
  · refine List.filter_congr fun p hp => ?_
    have h34 : p < 34 := List.mem_range.1 (List.mem_filter.1 hp).1
    exact congrArg (· == 5) ((Gn.rg_wr_ne _ _ (hstate p _ h34 (.inr rfl))).trans (Gn.rg_wr_ne _ _ (hstate p _ h34 (.inl rfl))))

end Sys2Proof.Machine

open Sys2Proof Sys2Proof.Machine

/-- Settles O48: the switch is the action of `Gn.fireNow_armed`, and with an UP child the broadcast waits for its report. -/
theorem mapSwitchFiresOnce : Obligations.MapSwitchFiresOnce := by
  unfold Obligations.MapSwitchFiresOnce
  refine ⟨fun s bid origin gen b m ha hb hf ho hact ht hpend hgen htray hr hc => ?_, fun s bid origin b ha hb hwhen htray hr hc => ?_⟩
  · obtain ⟨hrd, hg, hpg, hmem, htr, hup⟩ := Gn.mapSwitch_pending (g := s.gn.setBc { b with fired := true }) hpend hgen
    have hfire : s.gn.fireNow origin bid = (s.gn.setBc { b with fired := true }).mapSwitch := by
      rw [Gn.fireNow_armed hb hf ho ht, Gn.fireAction, if_neg (show ¬ b.a.action = 1 by omega), if_pos hact]
    have hbc : (s.gn.setBc { b with fired := true }).mapSwitch.bc origin bid = some { b with fired := true } := by
      rw [Gn.bc, hrd]
      exact Gn.bc_setBc hb rfl
    refine ⟨_, gnStep_if ha ((congrArg (Gn.tryReport · origin bid) hfire).trans (Gn.tryReport_waits hbc (htr.trans htray) hr (hup ▸ hc))), ?_, ?_, hg, hpg,
      hmem, rfl⟩
    · exact congrArg RdSt.ranks hrd
    · exact congrArg RdSt.pend hrd
  · exact gnStep_self ((if_pos ha).trans ((congrArg (Gn.tryReport · origin bid) (Gn.fireNow_not hb hwhen)).trans (Gn.tryReport_waits hb htray hr hc)))

/-- Settles O47: each command's branch. -/
theorem broadcastCommandsComplete : Obligations.BroadcastCommandsComplete := by
  unfold Obligations.BroadcastCommandsComplete
  refine ⟨fun s h bid action studio t v ha h1 h4 hst => ?_, fun s h bid ha => ⟨fun hb => gnStep_desc ha (if_pos hb), fun hb => gnStep_desc ha (if_neg (by rw [hb]; decide))⟩,
    fun s p a ha => ⟨fun hp hb ht hn hacc hd => gnStep_if ha (Gn.armFrame_new hp hb ht hn hacc hd), fun hp hb ht => gnStep_if ha (Gn.armFrame_late hp hb ht),
      fun hp => gnStep_if ha (if_pos (by simp [hp])), fun bid origin => ⟨fun hp hb => gnStep_eq ?_, fun hp hb => gnStep_eq ?_, fun hp => gnStep_eq ?_⟩⟩,
    fun s p bid origin b ha hb => ⟨fun n st => gnStep_if ha ?_, fun t hw ht => gnStep_if ha ?_, gnStep_if ha rfl, fun f l u n hr => gnStep_if ha ?_,
      fun hf ht => gnStep_if ha ?_⟩,
    fun s a failed ha => gnStep_if ha rfl,
    fun s p a ha => ⟨fun ht => gnStep_eq ?_, fun ht => gnStep_eq ?_⟩⟩
  · intro g a hv hmin hmax hout hbc
    refine gnStep_desc ha ?_
    refine (if_neg (by omega)).trans (if_neg ?_)
    change ¬ (!g.timeValid || decide (t < g.now + g.rg F.rdCfg_armMinUs * 1000) || decide (g.now + 10000000000 < t)
      || decide (8 ≤ (g.rd.bcs.filter (fun b => b.hdr.isSome || b.armed)).length) || (g.bc g.node bid).isSome) = true
    simp only [hv, hbc, Option.isSome_none, Bool.or_false, Bool.not_true, Bool.false_or, Bool.or_eq_true, decide_eq_true_eq]
    omega
  · rw [if_neg (by simp [ha]), if_pos hp, Gn.cancelFrame, hb]
    rfl
  · rw [if_neg (by simp [ha]), if_pos hp, Gn.cancelFrame, hb]
    rfl
  · rw [if_neg (by simp [ha]), if_neg (by simp [hp])]
  · rw [Gn.armAck, hb]
  · rw [Gn.armTimeout, hb]
    exact if_pos (List.any_eq_true.2 ⟨_, hw, by simpa using ht⟩)
  · rw [Gn.fireReport, hb]
    dsimp only
    rw [hr]
    rfl
  · rw [Gn.fireTimeout, hb]
    dsimp only
    rw [if_pos ht, Gn.fireNow_not hb (.inl hf), hb]
  · rw [if_neg (by simp [ha]), if_pos ht]
  · rw [if_neg (by simp [ha]), if_neg (by simp [ht])]

end

section
/-! Health (R249 to R254): the run, a mute that ends, and the operator's answers. -/

namespace Sys2Proof.Machine

/-- An answer in range is taken at the hall root. -/
theorem Gn.takeAnswer_taken {g : Gn} (h : DescHdr) {code rank arg : Nat} (ht : g.isTop = true) (hr : rank < 131072)
    (hm : code = 2 ∨ code = 3 → 1 ≤ arg ∧ arg ≤ 10080) (hn : code = 6 → arg ≤ 131072) :
    g.takeAnswer h code rank arg = { g with hl := { g.hl with answers := g.hl.answers ++ [⟨code, rank, arg, h⟩] } } := by
  have hrange : ¬ (decide (131072 ≤ rank) || (decide (code = 2 ∨ code = 3) && (arg == 0 || decide (10080 < arg)))
      || (decide (code = 6) && decide (131072 < arg))) = true := by
    simp only [Bool.or_eq_true, Bool.and_eq_true, decide_eq_true_eq, beq_iff_eq]
    omega
  exact (if_neg hrange).trans (if_neg (by simp [ht]))

end Sys2Proof.Machine

open Sys2Proof Sys2Proof.Machine

/-- Settles O4: the run over the oldest window that is complete, and each answer in its range. -/
theorem healthCommandsComplete : Obligations.HealthCommandsComplete := by
  unfold Obligations.HealthCommandsComplete
  refine ⟨fun s w ha ht hw hopen => ?_, fun s r ha hm he => gnStep_if ha ?_, fun s h ha ht => ?_⟩
  · refine gnStep_eq ?_
    rw [Gn.healthRun, if_neg (by simp [ha, ht]), hw]
    exact (if_neg (by simp [hopen])).trans rfl
  · exact if_pos (by simp [hm, he])
  · exact ⟨fun rank hr => gnStep_desc ha (Gn.takeAnswer_taken h ht hr (by omega) (by omega)),
      fun rank hr m h1 h2 => gnStep_desc ha (Gn.takeAnswer_taken h ht hr (by omega) (by omega)),
      fun m h1 h2 => gnStep_desc ha (Gn.takeAnswer_taken h ht (by omega) (by omega) (by omega)),
      fun rank hr => gnStep_desc ha (Gn.takeAnswer_taken h ht hr (by omega) (by omega)),
      gnStep_desc ha (Gn.takeAnswer_taken h ht (by omega) (by omega) (by omega)),
      fun n hn => gnStep_desc ha (Gn.takeAnswer_taken h ht (by omega) (by omega) (by omega))⟩

end

section
/-! References, inputs and bring-up (R298 to R312, R348, R365, R366). -/

namespace Sys2Proof.Machine

/-! ### References -/

/-- HREF qualifies in a module that is on, outside the safe state, with a reference active. -/
theorem Gn.hrefQualify_on {g : Gn} (hc : g.pw.coldWait = false) (ho : g.pw.off = false) (hi : g.pw.inp = .on) (hs : g.safe = false)
    (hact : g.rg F.ckStat_act ≠ 3) : g.hrefQualify = g.put F.ckStat_hrefQ true := by
  have hkeep : (g.put F.ckStat_hrefQ true).rg F.ckStat_act = g.rg F.ckStat_act := Gn.rg_put_ne _ _ (by decide)
  have hsafe : (g.put F.ckStat_hrefQ true).safe = false := (Gn.flag_put_ne _ _ (by decide)).trans hs
  rw [Gn.hrefQualify, if_neg (by simp [hc]), if_neg (by simp [ho, hi])]
  dsimp only
  rw [hkeep, if_neg hact, hsafe]
  rfl

/-- A gate of the upstream reference that passes, while HREF is in its band. -/
theorem Gn.compareGate_pass {g : Gn} {a b : Nat} (hq : g.flag F.ckStat_hrefQ = true) (hup : g.portUp 32 = true)
    (hpass : gatePass (g.rg F.ckCfg_winPpm) a b = true) (hb : hrefBad b = false) (hr : g.ready = false) :
    g.compareGate false a b
      = let n := min 8 (g.pw.upGates + 1)
        let k : Gn := { g with pw := { g.pw with upGates := n } }
        if n = 8 then k.put F.ckStat_upQ true else k := by
  have hcheck : g.hrefCheck b = g := if_neg (by simp [hb])
  have hup1 : ∀ k : Gn, (k.put F.ckStat_upQ true).ready = k.ready := fun k =>
    congrArg (· == 7) (Gn.rg_put_ne (f := F.ckStat_upQ) (e := F.buStat_phase) _ _ (by decide))
  dsimp only [Gn.compareGate]
  rw [hcheck, if_neg (by simp [hq, hup]), if_pos hpass]
  simp only [Bool.false_eq_true, if_false]
  split
  · exact if_neg (Bool.eq_false_iff.1 ((hup1 _).trans hr))
  · exact if_neg (Bool.eq_false_iff.1 hr)

/-- The active reference is lost: it counts, and no longer qualifies. -/
theorem Gn.refLoss_active {g : Gn} (hact : g.rg F.ckStat_act ≠ 3) :
    g.refLoss = let k := (g.setRefQ (g.rg F.ckStat_act) false).inc F.ckStat_losses
      match k.bestRef with | some r => k.switchRef r | none => k.enterSafe := (if_neg hact).trans rfl

/-! ### Off -/

/-- A log put back to what it was changes only the recorder. -/
theorem Gn.logBack_ev (g : Gn) (was : List (Nat × FlashPg)) (wasN n : Nat) : ∃ x, g.logBack was wasN n = { g with ev := x } := by
  refine forEach_keeps (fun k : Gn => ∃ x, k = { g with ev := x }) _ _ ?_ _ ⟨_, rfl⟩
  rintro e k ⟨x, rfl⟩
  exact ⟨_, rfl⟩

/-- What a trip cuts short of a flush changes only the recorder (R275). -/
theorem Gn.flushCut_ev (g : Gn) : ∃ x, g.flushCut = { g with ev := x } := by
  unfold Gn.flushCut
  split
  · exact ⟨_, rfl⟩
  · rename_i f _
    obtain ⟨x, hx⟩ := g.logBack_ev f.was f.wasN ((g.now - f.ht - durableNs) / pageNs)
    rw [hx]
    exact ⟨_, rfl⟩

theorem Gn.turnCut_ev (g : Gn) : ∃ x, g.turnCut = { g with ev := x } := by
  unfold Gn.turnCut
  split
  · split
    · exact Gn.logBack_ev _ _ _ _
    · exact ⟨_, rfl⟩
  · exact ⟨_, rfl⟩

/-- The module switched off by a trip is the module after a cold reset, off, with the trip latched (R366). -/
theorem Gn.thermalTrip_on {g : Gn} (m : Nat) (ho : g.pw.off = false) : ∃ x,
    g.flushCut.turnCut = { g with ev := x } ∧ g.thermalTrip m = (let h := ({ g with ev := x } : Gn).coldNow g.lastRst
      { h with pw := { h.pw with off := true, inp := .off, trip := h.pw.trip ||| (m % 32), lockOut := true } }) := by
  obtain ⟨x, hx⟩ := g.flushCut_ev
  obtain ⟨y, hy⟩ := g.flushCut.turnCut_ev
  rw [hx] at hy
  refine ⟨y, (congrArg Gn.turnCut hx).trans hy, ?_⟩
  rw [Gn.thermalTrip, if_neg (by simp [ho]), hx, hy]
  rfl

end Sys2Proof.Machine

open Sys2Proof Sys2Proof.Machine

/-- Settles O9: the branch of each phase's end. -/
theorem bringupPhasesAdvance : Obligations.BringupPhasesAdvance := by
  unfold Obligations.BringupPhasesAdvance
  intro s e ha hi
  have hstep : ∀ g : Gn, s.gn.phaseEnd e = g → exec (.bringupPhaseEnd e) s = .next { s with gn := s.gn.phaseShown g } := fun g hg =>
    gnStep_if (c := fun g => g.alive && g.pw.inp == .on) (by simp [ha, hi]) (congrArg _ hg)
  refine ⟨fun hp hq => hstep _ ?_, fun hp => hstep _ ?_, fun hp => hstep _ ?_, fun hp => hstep _ ?_, fun hp => hstep _ ?_, fun hp hq => hstep _ ?_,
    fun hp hq => hstep _ ?_⟩ <;> rw [Gn.phaseEnd, hp]
  · exact if_pos hq
  · rfl
  · rfl
  · rfl
  · rfl
  · exact if_pos hq
  · exact if_pos hq

/-- Settles O7: each reference command's branch. -/
theorem referenceCommandsComplete : Obligations.ReferenceCommandsComplete := by
  unfold Obligations.ReferenceCommandsComplete
  refine ⟨fun s hc ho hi hs hact => ⟨_, gnStep_eq (Gn.hrefQualify_on hc ho hi hs hact), Gn.flag_put_self _ _ _ rfl, rfl⟩,
    fun s a b ha hq hup hp hb hn hr => gnStep_if ha ?_, fun s a b ha hq hup hp hb hn hr => gnStep_if ha ?_, fun s foster a b ha => gnStep_if ha rfl,
    fun s r hp hact => ?_, fun s hp hact => ?_⟩
  · rw [Gn.compareGate_pass hq hup hp hb hr, Nat.min_eq_right (by omega)]
    exact if_neg (by omega)
  · rw [Gn.compareGate_pass hq hup hp hb hr, Nat.min_eq_left (by omega)]
    exact if_pos rfl
  · intro g hbest
    refine gnStep_if hp ((Gn.refLoss_active hact).trans ?_)
    dsimp only
    rw [hbest]
  · intro g hbest
    refine gnStep_if hp ((Gn.refLoss_active hact).trans ?_)
    dsimp only
    rw [hbest]

/-- Settles O8: each input command's branch; Off is the module after a cold reset (`Gn.coldNow_eq`). -/
theorem inputAndCapCommandsComplete : Obligations.InputAndCapCommandsComplete := by
  unfold Obligations.InputAndCapCommandsComplete
  refine ⟨fun s p v i ha => gnStep_if ha rfl, fun s hc => ⟨gnStep_eq (if_pos hc), gnStep_eq (if_pos hc), ?_⟩, fun s a b d ho hp => gnStep_eq ?_,
    fun s m ho => ?_, fun s ho => ?_, fun s hi => gnStep_eq (if_pos hi)⟩
  · have hi : s.gn.pw.inp ≠ .off := by
      intro h
      simp [Gn.canFlush, h] at hc
    have hover : s.gn.overvoltage = (let n := (s.gn.inc F.pwState_ovp).enterFlush
        { n with pw := { n.pw with inp := .off } }) := by
      rw [Gn.overvoltage, if_neg hi]
      dsimp only
      rw [if_pos hc]
    exact ⟨_, gnStep_eq hover, rfl, rfl, rfl, rfl⟩
  · exact if_neg (by simp [ho, hp])
  · obtain ⟨x, hcut, htrip⟩ := Gn.thermalTrip_on m ho
    obtain ⟨rs, hcold⟩ := Gn.coldNow_eq ({ s.gn with ev := x } : Gn) s.gn.lastRst
    have hrg := Gn.coldNow_rg ({ s.gn with ev := x } : Gn) s.gn.lastRst
    dsimp only at htrip
    rw [hcold] at htrip hrg
    rw [hcut]
    exact ⟨_, gnStep_eq htrip, rfl, rfl, rfl, rfl, rfl, rfl, rfl, hrg, rfl, rfl⟩
  · obtain ⟨rs, hcold⟩ := Gn.coldNow_eq s.gn 0
    have hrg := Gn.coldNow_rg s.gn 0
    have happly : s.gn.powerApply = (let h := s.gn.coldNow 0
        { h with pw := { h.pw with off := true, inp := .charging, lockOut := false } }) := if_pos ho
    rw [hcold] at happly hrg
    exact ⟨_, gnStep_eq happly, rfl, rfl, rfl, rfl, rfl, rfl, rfl, rfl, hrg, rfl⟩

end

section
/-! Hangs, self-test and cores (R75, R281 to R283, R288 to R292). -/

namespace Sys2Proof.Machine

/-- No reset waits for a dump. -/
theorem Gn.dumpLimit_none {g : Gn} (h : g.hg.warmAfter = none) : g.dumpLimit = g := by
  rw [Gn.dumpLimit, h]

/-- The hardware watchdog fires once for a stop of `beat` (R283). -/
theorem Gn.hwWatchdog_fires {g : Gn} (hm : g.flag F.buStat_mgood = true) (hb : g.flag F.hgStat_rstBusy = false) (hd : g.hg.wdDone = false)
    (ht : g.hg.beatHt + g.rg F.hgBeat_hwWdMs * 1000000 ≤ g.now) :
    g.hwWatchdog = let k := (g.record prodCore 0x0D05 5 0 0 0 0 0).put F.hgBeat_hwWdFired true
      ((k.vec5 false).onHg (fun h => { h with wdDone := true })).dumpStart 4 := if_pos (by simp [hm, hb, hd, ht])

/-- Less than 1 µs past the instant of the six hours at which core `k` is tested, that instant is due. -/
theorem Gn.dueHt_of_due {g : Gn} {k n : Nat} (h1 : n * 21600000000000 + k * 84375000000 ≤ g.now)
    (h2 : g.now < n * 21600000000000 + k * 84375000000 + 1000) : g.dueHt k = some (n * 21600000000000 + k * 84375000000) := by
  have hdiv : (g.now - k * 84375000000) / 21600000000000 = n := by omega
  dsimp only [Gn.dueHt]
  rw [hdiv]
  exact if_pos (by simp only [Bool.and_eq_true, decide_eq_true_eq]; omega)

/-- A test that falls due for a core with none asked for yet starts when its core is free. -/
theorem Gn.testAsk_new {g : Gn} {k : Nat} (t : Nat) (hd : g.hg.deferred.any (fun d => d.1 == k) = false) (hw : g.hg.waiting.contains k = false)
    (ht : g.hg.testing.contains k = false) (hg : g.flag (F.pwIsl_gated (k / 16)) = false) :
    g.testAsk k t = if g.testFree k = true then g.fieldTest k else g.testLater k t := by
  rw [Gn.testAsk, hd, hw, ht, hg]
  rfl

end Sys2Proof.Machine

open Sys2Proof Sys2Proof.Machine

/-- Settles O14: the branch of each command. -/
theorem hangCommandsComplete : Obligations.HangCommandsComplete := by
  unfold Obligations.HangCommandsComplete
  intro s ha
  have both : ∀ {k m : Nat} (f : Gn → Gn), k < m → gnStep s (fun g => if g.alive && decide (k < m) then f g else g) = .next { s with gn := f s.gn } :=
    fun f h => gnStep_eq (if_pos (by simp [ha, h]))
  exact ⟨fun n hn => both _ hn, fun _ hw => gnStep_if ha (Gn.dumpLimit_none hw), fun n hn v => both _ hn, gnStep_if ha rfl,
    fun hm hb hd ht => gnStep_if ha (Gn.hwWatchdog_fires hm hb hd ht), gnStep_if ha rfl, gnStep_if ha rfl, fun slot hs => both _ hs⟩

/-- Settles O16: the branch of each command. -/
theorem selfTestCommandsComplete : Obligations.SelfTestCommandsComplete := by
  unfold Obligations.SelfTestCommandsComplete
  have both : ∀ {s : State} {k : Nat} {f : Gn → Gn} {g : Gn}, s.gn.alive = true → k < 256 → f s.gn = g →
      gnStep s (fun g => if g.alive && decide (k < 256) then f g else g) = .next { s with gn := g } :=
    fun ha h hf => gnStep_eq ((if_pos (by simp [ha, h])).trans hf)
  refine ⟨fun s k n ha hk hd hw ht hg => ?_, fun s k ha hk hd hf hg => both ha hk ?_, fun s k since ha hk hm hs hg => both ha hk ?_,
    fun s k stage pass ha hk ht hp => both ha hk (if_pos (by rw [ht, hp]; rfl))⟩
  · intro due h1 h2
    refine both ha hk ?_
    rw [Gn.testDue, Gn.dueHt_of_due h1 h2]
    exact Gn.testAsk_new _ hd hw ht hg
  · rw [Gn.testStart, hd, hg, hf]
    rfl
  · rw [Gn.testDeadline, hg, if_neg (by simp)]
    exact if_pos (List.any_eq_true.2 ⟨_, hm, by simpa using hs⟩)

/-- Settles O17: the branch of each descriptor. -/
theorem coreCommandsComplete : Obligations.CoreCommandsComplete := by
  unfold Obligations.CoreCommandsComplete
  intro s h c mask ha hc hm
  exact ⟨gnStep_desc ha (if_neg (by omega)),
    fun hf ht => gnStep_desc ha ((if_neg (by omega)).trans (if_neg (by rw [ht]; simp [hf]))),
    fun h0 => gnStep_desc ha ((if_neg (by omega)).trans (if_neg h0))⟩

end

section
/-! Links that train, start and are lost (R163, R184, R193). -/

namespace Sys2Proof.Machine

/-! ### Training -/

/-- A port below the uplinks has no shaped queues. -/
theorem upIdx_child {p : Nat} (h : p < 32) : upIdx p = none := (if_neg (by omega)).trans (if_neg (by omega))

/-- A child port named by the topology leaves DOWN. -/
theorem Gn.trainStart_child {g : Gn} {p : Nat} (h : p < 32) (hu : g.portUse p ≠ 0) (h0 : g.rg (F.lkStat_state p) = 0) :
    g.trainStart p = ((((g.wr (F.lkStat_state p) 1).wr (F.lkStat_width p) (widthOf (g.lanes p) (g.rg (F.lkStat_laneBad p)))).inc
      (F.lkStat_restarts p)).wr (F.tmPort_state p) 1) := by
  rw [Gn.trainStart, if_neg (by simp [hu, h0]; omega), upIdx_child h]
  exact if_pos (by omega)

/-- The collectors known at the end of a port's training (R234). -/
def Gn.collectorsAfter (g : Gn) (p : Nat) (peer : TrainPeer) : List Nat :=
  let cs := g.lk.collectors.filter (fun q => q != p)
  if peer = .collector ∧ g.flag F.rdCfg_tc2 = true then cs ++ [p] else cs

/-- TRAIN goes to ALIGN; a peer of one lane makes the width 1. -/
theorem Gn.trainDone_child {g : Gn} {p : Nat} (peer : TrainPeer) (h : p < 32) (h1 : g.rg (F.lkStat_state p) = 1) :
    g.trainDone p peer = (let k : Gn := { g.wr (F.lkStat_state p) 2 with lk := { g.lk with collectors := g.collectorsAfter p peer } }
      if peer = .full then k else k.wr (F.lkStat_width p) 1) := by
  have hflag : (g.wr (F.lkStat_state p) 2).flag F.rdCfg_tc2 = g.flag F.rdCfg_tc2 :=
    Gn.flag_wr_ne _ _ (by simp only [FRef.key, F.rdCfg_tc2, F.lkStat_state]; omega)
  rw [Gn.trainDone, if_pos h1, upIdx_child h]
  dsimp only
  rw [hflag]
  rfl

/-- A state's limit that has passed leaves nothing of the attempt behind. -/
theorem Gn.stateTimeout_child {g : Gn} {p : Nat} (lane : Option Nat) (h : p < 32) (h0 : g.rg (F.lkStat_state p) ≠ 0) (h5 : g.rg (F.lkStat_state p) ≠ 5) :
    g.stateTimeout p lane = (let k := ((g.wr (F.lkStat_state p) 0).wr (F.lkStat_width p) 0).wr (F.tmPort_state p) 0
      let down := Gn.clearPort { k with tm := g.tm.drop p } p
      if g.rg (F.lkStat_state p) ≤ 2 then down.failLane p lane else down) := by
  rw [Gn.stateTimeout, if_neg (by simp [h0, h5])]
  dsimp only
  rw [if_pos (show p < 34 by omega)]
  rfl

/-- Whether the module takes its time from a port does not depend on the state of a child port. -/
theorem Gn.childPort_wr_state {g : Gn} {p : Nat} (v q : Nat) (h : p < 32) : (g.wr (F.lkStat_state p) v).childPort q = g.childPort q := by
  have htop : (g.wr (F.lkStat_state p) v).isTop = g.isTop := Gn.flag_wr_ne _ _ (by simp only [FRef.key, F.rdCfg_top, F.lkStat_state]; omega)
  have hvalid : (g.wr (F.lkStat_state p) v).timeValid = g.timeValid := Gn.flag_wr_ne _ _ (by simp only [FRef.key, F.tmStat_valid, F.lkStat_state]; omega)
  rw [Gn.childPort, htop, hvalid]
  rfl

/-- Both sides have advertised their credits, on a port that does not give this module its time. -/
theorem Gn.creditDone_other {g : Gn} {p : Nat} (cred : List Nat) (h : p < 32) (h3 : g.rg (F.lkStat_state p) = 3) (hc : g.childPort p = false) :
    g.creditDone p cred = (let k := (g.putFrame p (g.newFrame (.port p) 0x01 (linkCtlBody (g.port p).room []))).1
      let c := addCred [0, 0, 0, 0] cred
      (k.setPort p { k.port p with cred := c, whole := c, owed := [0, 0, 0, 0] }).wr (F.lkStat_state p) 4) := by
  rw [Gn.creditDone, if_pos h3]
  dsimp only
  obtain ⟨tm, hput⟩ := g.putFrame_eq p (g.newFrame (.port p) 0x01 (linkCtlBody (g.port p).room []))
  rw [hput]
  refine if_neg (Bool.eq_false_iff.1 ((Gn.childPort_wr_state _ _ h).trans ?_))
  exact hc

/-! ### Link start -/

/-- A port's die sites begin to start, and the report path and what it advertises follow (R163). -/
def Gn.portStarted (g : Gn) (p : Nat) : Gn :=
  let m := if p = 32 ∧ g.rg F.tmStat_src ≠ 0 ∧ g.timeValid = true then g.useSource 1 else g
  let starting := m.sites.filter (fun x => m.portUse p == 1 && m.sitePort x == p && m.rg (F.tmSite_state x) == 0)
  let n := forEach starting (fun x (g : Gn) => g.wr (F.tmSite_state x) 1) m
  (if p = 32 ∨ (p = 33 ∧ n.rg F.rdStat_path = 2) then n.movePath.flushHold else n).advertise

/-- A child port in TIME whose time the module does not follow comes UP. -/
theorem Gn.portStart_other {g : Gn} {p : Nat} (hp : p < 34) (h4 : g.rg (F.lkStat_state p) = 4) (hc : g.childPort p = false) :
    g.portStart p = (((g.takeLinkStart (.port p)).1.wr (F.lkStat_state p) 5).wr (F.tmPort_state p) 2).portStarted p := by
  rw [Gn.portStart, h4, if_neg (by simp; omega)]
  dsimp only
  rw [hc, if_neg (by simp)]
  cases (g.takeLinkStart (.port p)).2 with
  | none => rfl
  | some th => rfl

/-- A port in TIME with a step of the time to apply comes UP. -/
theorem Gn.portStart_step {g : Gn} {p : Nat} {th : Int} (hp : p < 34) (h4 : g.rg (F.lkStat_state p) = 4)
    (hth : (g.takeLinkStart (.port p)).2 = some th) :
    let k := ((g.takeLinkStart (.port p)).1.wr (F.lkStat_state p) 5).wr (F.tmPort_state p) 2
    let a := k.setTime (thFix th)
    g.portStart p = (if (g.childPort p && !k.timeValid && (p == 32 || k.timePort == some p || k.timePort.isNone)) = true then
        (if p = 33 then a.useSource 2 else if p = 32 then a.useSource 1 else a) else k).portStarted p := by
  rw [Gn.portStart, h4, if_neg (by simp; omega)]
  dsimp only
  rw [hth, if_neg (by simp)]
  rfl

/-- Below the uplinks, that is its sites only. -/
theorem Gn.portStarted_child (g : Gn) {p : Nat} (hp : p < 32) : g.portStarted p
    = (forEach (g.sites.filter (fun x => g.portUse p == 1 && g.sitePort x == p && g.rg (F.tmSite_state x) == 0))
        (fun x (g : Gn) => g.wr (F.tmSite_state x) 1) g).advertise := by
  dsimp only [Gn.portStarted]
  rw [if_neg (show ¬ (p = 32 ∧ g.rg F.tmStat_src ≠ 0 ∧ g.timeValid = true) by omega), if_neg (by omega)]

end Sys2Proof.Machine

open Sys2Proof Sys2Proof.Machine

/-- Settles O18: the branch of each command for a port of 0 to 31. -/
theorem linkTrainingAdvances : Obligations.LinkTrainingAdvances := by
  unfold Obligations.LinkTrainingAdvances
  intro s p ha hp
  refine ⟨fun hu h0 => gnStep_if ha (Gn.trainStart_child hp hu h0), fun h1 ht => ⟨?_, ?_, ?_⟩, fun h1 ht => ?_,
    fun h2 => gnStep_if ha ((if_pos h2).trans (by rw [if_neg (by omega)])), fun cred h3 hc => gnStep_if ha (Gn.creditDone_other cred hp h3 hc),
    fun lane => ⟨fun h => gnStep_if ha ?_, fun h => gnStep_if ha ?_⟩, fun lane h => gnStep_self ((if_pos ha).trans (if_pos h))⟩
  · exact gnStep_if ha ((Gn.trainDone_child .full hp h1).trans rfl)
  · exact gnStep_if ha ((Gn.trainDone_child .single hp h1).trans rfl)
  · have hcs : s.gn.collectorsAfter p .collector = s.gn.collectorsAfter p .single := if_neg (by simp [ht])
    have hdone : s.gn.trainDone p .collector = s.gn.trainDone p .single := by
      rw [Gn.trainDone_child _ hp h1, Gn.trainDone_child _ hp h1, hcs]
      rfl
    exact (gnStep_if ha hdone).trans (gnStep_if ha rfl).symm
  · have hcs : s.gn.collectorsAfter p .collector = s.gn.lk.collectors.filter (fun q => q != p) ++ [p] := if_pos ⟨rfl, ht⟩
    refine gnStep_if ha ((Gn.trainDone_child .collector hp h1).trans ?_)
    rw [hcs]
    rfl
  · exact (Gn.stateTimeout_child lane hp (by omega) (by omega)).trans (if_pos (by omega))
  · exact (Gn.stateTimeout_child lane hp (by omega) (by omega)).trans (if_neg (by omega))

/-- Settles O19: the branch of each command. -/
theorem linkLossAndStartComplete : Obligations.LinkLossAndStartComplete := by
  unfold Obligations.LinkLossAndStartComplete
  refine ⟨fun s p lane ha => ⟨fun h => gnStep_if ha (if_pos h), fun h => gnStep_self ((if_pos ha).trans (if_neg h))⟩, fun s lane => plDo_eq rfl,
    fun s p ha hp h4 hc => ?_, fun s p th ha hp h4 hth => ?_, fun s x ha hm hu => ?_⟩
  · intro g starting
    refine gnStep_eq ((if_neg (by simp [ha])).trans ?_)
    exact (Gn.portStart_other (by omega) h4 hc).trans (Gn.portStarted_child _ hp)
  · intro g a k m starting n
    exact gnStep_eq ((if_neg (by simp [ha])).trans (Gn.portStart_step hp h4 hth))
  · refine gnStep_eq ?_
    rw [if_neg (by simp [ha])]
    exact if_neg (by simp [hm, hu])

end

section
/-! Topology, rank tables and the maintenance stop (R15, R210, R350 to R352). -/

namespace Sys2Proof.Machine

/-- The stop that runs waits for the graphs, then for the ensembles, and then ends. -/
theorem Gn.maintGo_graphs {g : Gn} {h : DescHdr} (hm : g.sc.maint = some h) (hg : g.sq.graphs ≠ []) : g.maintGo = g := by
  rw [Gn.maintGo, hm]
  exact if_pos (by simp [hg])

theorem Gn.maintGo_drop {g : Gn} {h : DescHdr} (hm : g.sc.maint = some h) (ha : g.alive = true) (hg : g.sq.graphs = []) :
    g.maintGo = if g.maintDrop.ts.slots.any (fun e => e.2.st != .empty) = true then g.maintDrop else g.maintDrop.maintEnd h := by
  rw [Gn.maintGo, hm]
  exact if_neg (by simp [ha, hg])

/-- Hall time's increments change neither what waits in a maintenance stop nor the graphs. -/
theorem Gn.tick_keeps (g : Gn) : g.tick.sc = g.sc ∧ g.tick.sq = g.sq := by
  unfold Gn.tick
  split
  · exact ⟨rfl, rfl⟩
  · exact ⟨rfl, rfl⟩

/-- A topology that passes its checks is loaded; one that fails is refused with the offset of its first failing field. -/
theorem Gn.topology_passes {g : Gn} (h : DescHdr) {t : Topology} (hok : g.flag F.buStat_topoOk = false) (hb : g.topoBad t (mkRanks t.ranks) = none) :
    g.topology h t = ((((g.onRd (fun d => { d with topo := some t, ranks := mkRanks t.ranks })).loadTopo.wr F.rdMap_gen t.gen).put
      F.buStat_topoOk true).complete 0x01 h stOk []) := by
  rw [Gn.topology, if_neg (Bool.eq_false_iff.1 hok), hb]

theorem Gn.topology_fails {g : Gn} (h : DescHdr) {t : Topology} {off : Nat} (hok : g.flag F.buStat_topoOk = false)
    (hb : g.topoBad t (mkRanks t.ranks) = some off) :
    g.topology h t = ((g.inc F.buStat_topoRej).record prodCore 0x1002 4 0 off 0 0 0).failed 0x01 h 0x1002 off := by
  rw [Gn.topology, if_neg (Bool.eq_false_iff.1 hok), hb]

end Sys2Proof.Machine

open Sys2Proof Sys2Proof.Machine

/-- Settles O31: the branch of each command; the stop by `Gn.maintGo_graphs` and `Gn.maintGo_drop`. -/
theorem setupCommandsComplete : Obligations.SetupCommandsComplete := by
  unfold Obligations.SetupCommandsComplete
  refine ⟨fun s h i ha => ?_, fun s h i off ha => ?_, fun s h gen ranks ha => ?_, fun s h ha hacc => ?_, fun s h ha hm => ?_⟩
  · intro g t m g1 hok hbad
    exact gnStep_desc ha (Gn.topology_passes h hok hbad)
  · intro g t hok hbad
    exact gnStep_desc ha (Gn.topology_fails h hok hbad)
  · intro g m hr hb
    exact gnStep_desc ha (if_neg (by rw [hr]; exact Bool.eq_false_iff.1 (congrArg Option.isSome hb)))
  · intro k hk
    have hstop : ∀ x : Gn, k.maintGo = x → exec (.maintStop h) s = .next { s with gn := x } := fun x hx =>
      gnStep_desc ha ((if_neg (by simp [hacc])).trans hx)
    exact ⟨fun hg => hstop _ (Gn.maintGo_graphs rfl hg), fun hg hs => hstop _ ((Gn.maintGo_drop rfl hk hg).trans (if_pos hs)),
      fun hg hs => hstop _ ((Gn.maintGo_drop rfl hk hg).trans (if_neg (Bool.eq_false_iff.1 hs)))⟩
  · intro k hk
    obtain ⟨hsc, hsq⟩ := s.gn.tick_keeps
    have hmk : k.sc.maint = some h := (congrArg ScSt.maint hsc).trans hm
    have hgk : k.sq.graphs = s.gn.sq.graphs := congrArg SqSt.graphs hsq
    exact ⟨fun hg => gnStep_eq (Gn.maintGo_graphs hmk (hgk ▸ hg)), fun hg hs => gnStep_eq ((Gn.maintGo_drop hmk hk (hgk.trans hg)).trans (if_pos hs)),
      fun hg hs => gnStep_eq ((Gn.maintGo_drop hmk hk (hgk.trans hg)).trans (if_neg (Bool.eq_false_iff.1 hs)))⟩

end

section
/-! Studios and the services of the host (R315 to R326, R340, R353). -/

namespace Sys2Proof.Machine

/-! ### Studios -/

/-- A studio that is opened while identity and key store stand, outside Maintenance. -/
theorem Gn.studioOpen_eq {g : Gn} {h : DescHdr} {n : Nat} (hn : tenant n = true) (hid : g.flag F.scStat_idOk = true)
    (hks : g.flag F.scStat_ksErased = false) (hacc : g.acc ≠ 2) :
    g.studioOpen h n = if g.flag F.scStat_busy ∨ g.rg (F.scStu_st n) ≠ 0 then g.complete 0x15 h stRefused []
      else ((g.wr (F.scStu_st n) 1).setAcc).complete 0x15 h stOk [] := by
  dsimp only [Gn.studioOpen]
  rw [hn, hid, hks]
  exact if_neg hacc

/-- A key block that unwraps under the identity key makes its studio OPEN. -/
theorem Gn.studioKey_unwraps {g : Gn} {h : DescHdr} {b k : List Byte} {ks : KeyStore} (hfn : h.fn ≠ 0) (hid : g.flag F.scStat_idOk = true)
    (hks : g.flag F.scStat_ksErased = false) (hst : g.studioSt h.fn = 1) (hstore : g.sc.store = some ks)
    (hun : unwrapSession ks.ident b (g.rg F.scId_fp) h.fn = some k) :
    let o := g.onSc (fun x => { x with keys := x.keys.filter (fun e => e.1 != h.fn) ++ [(h.fn, k)] })
    g.studioKey h b = (g.retag ((o.wr (F.scStu_st h.fn) 2).addWrap (F.scStu_opens h.fn) 1)).complete 0x17 h stOk [] := by
  dsimp only [Gn.studioKey]
  rw [if_neg hfn, if_neg (by simp [hid, hks, hst]), hstore, Option.bind_some, hun]

/-- The retagging of the dies asks what a change of the session keys does not touch. -/
theorem Gn.retag_keys (g k : Gn) (f : ScSt → List (Nat × List Byte)) : (g.onSc (fun x => { x with keys := f x })).retag k = g.retag k := rfl

/-- The end of the one erase that runs. -/
theorem Gn.closeDone_lone {g : Gn} {n : Nat} {h : DescHdr} (hc : g.sc.closing = [(n, h)]) : g.closeDone
    = ((((((g.onSc (fun x => { x with closing := [] })).put F.scStat_busy false).wr (F.scStu_st n) 0).setAcc).studioRecord n 0).complete 0x16 h stOk []) := by
  rw [Gn.closeDone, hc]
  rfl

/-! ### Services of the host -/

/-- An image for a slot that is not loaded, signed and not below the owner's minimum, is stored as valid (R324). -/
theorem Gn.imageWrite_good {g : Gn} (h : DescHdr) {slot : Nat} {x : FwImage} (hslot : slot < 2) (hlen : x.len ≠ 0) (hmax : x.len ≤ 63 * 1048576)
    (hload : g.sc.fwLoaded ≠ slot) (hsig : Config.ecdsaOk Config.bootKey x.digest x.sig = true) (hver : ∀ o, g.ownerRec = some o → o.minFw ≤ x.ver) :
    g.imageWrite h 0 slot x = (g.onSc (fun c => { c with
      fwSlots := setSlot c.fwSlots slot { ver := x.ver, valid := true, digest := x.digest, sig := x.sig, cfg := x.cfg } })).complete 0x1D h stOk [] := by
  have hfloor : g.floorVer 0 ≤ x.ver := by
    unfold Gn.floorVer
    split
    · next o ho => exact hver o ho
    · exact Nat.zero_le _
  have hok : (g.imageSigned 0 x.digest x.sig && decide (g.floorVer 0 ≤ x.ver)) = true := by
    rw [decide_eq_true hfloor, Bool.and_true]
    exact hsig
  dsimp only [Gn.imageWrite]
  rw [if_neg (by omega), if_neg (show ¬ g.loadedSlot 0 = some slot from fun hl => hload (Option.some.inj hl)), hok]
  rfl

/-- Enrolment with a block that is signed where a record is in force. -/
theorem Gn.enrol_good {g : Gn} (h : DescHdr) {o : OwnerIn} {ks : KeyStore} (hstore : g.sc.store = some ks)
    (hsig : ∀ m, g.ownerRec = some m → enrolSigned m o = true) :
    g.enrol h o = (g.onSc (fun c => { c with owner := some (ownerNew ks g.ownerRec o), ownerOk := true })).complete 0x1E h stOk [] := by
  rw [Gn.enrol, hstore]
  refine if_pos ?_
  split
  · rfl
  · next m hm => exact hsig m hm

end Sys2Proof.Machine

open Sys2Proof Sys2Proof.Machine

/-- Settles O32: the branch of each command. -/
theorem studioCommandsComplete : Obligations.StudioCommandsComplete := by
  unfold Obligations.StudioCommandsComplete
  refine ⟨fun s h n ha hn => ?_, fun s h n ha hn => ?_, fun s h b k ks ha hfn => ?_, fun s h n ha hn => ?_, fun s h n ha hc => ?_⟩
  · intro g hid hks hacc hb hst
    exact gnStep_desc ha ((Gn.studioOpen_eq hn hid hks hacc).trans (if_neg (by rw [hb, hst]; decide)))
  · intro g hid hks hacc hor
    exact gnStep_desc ha ((Gn.studioOpen_eq hn hid hks hacc).trans (if_pos hor))
  · intro g hid hks hst hstore hun g1
    refine gnStep_desc ha ((Gn.studioKey_unwraps hfn hid hks hst hstore hun).trans ?_)
    exact (congrArg (Gn.complete · 0x17 h stOk []) (Gn.retag_keys g _ _)).symm
  · intro g hb hst
    exact gnStep_desc ha ((if_neg (by simp [hn])).trans (if_neg (not_or.2 ⟨Bool.eq_false_iff.1 hb, hst⟩)))
  · exact gnStep_if ha (Gn.closeDone_lone hc)

/-- Settles O33: the branch of each service. -/
theorem hostServicesComplete : Obligations.HostServicesComplete := by
  unfold Obligations.HostServicesComplete
  refine ⟨fun s h nonce ks ha => ?_, fun s h first count ha => ?_, fun s h slot off n ha hs hn => gnStep_desc ha (if_neg (by omega)),
    fun s h slot x ha hs hl hm => ?_, fun s h o ks ha => ?_, fun s h o m ks ha => ?_⟩
  · intro g hid hst b
    refine gnStep_desc ha ?_
    rw [Gn.attest, hst]
    exact if_neg (by rw [hid]; decide)
  · intro g page h1 h2 h3 b
    exact gnStep_desc ha (if_neg (by omega))
  · intro g hload hsig hver g1
    exact gnStep_desc ha (Gn.imageWrite_good h hs hl hm hload hsig hver)
  · intro g hst hown mac g1
    refine gnStep_desc ha ((Gn.enrol_good h hst (by rw [hown]; simp)).trans ?_)
    rw [hown]
    rfl
  · intro g hst hown hsig mac g1
    refine gnStep_desc ha ((Gn.enrol_good h hst (fun m' hm' => ?_)).trans ?_)
    · rw [hown] at hm'
      cases hm'
      exact hsig
    · rw [hown]
      rfl

end

section
/-! Counter reads and the frames that carry them (R206 to R214, R223). -/

namespace Sys2Proof.Machine

/-- A reply settles the read that awaits it on its port. -/
theorem Gn.readReply_awaited {g : Gn} {p : Nat} {x : ReadRep} {r : Rd} (hr : g.rd.reads.find? (fun r => r.port == some p && r.q.tag == x.tag) = some r)
    (hs : x.status ≠ rdLinkLost) : g.readReply p x = g.settle r x.status x.tq x.value.toNat x.ht := by
  rw [Gn.readReply, hr]
  exact if_neg (by simp [hs])

/-- 10 ms after it was sent, the one read of this origin that waits for no sitting ends (R214). -/
theorem Gn.readTimeout_lone {g : Gn} {r : Rd} (hr : g.rd.reads = [r]) (ht : r.sent + 10000000 ≤ g.now) (hh : r.hdr.isSome = true) (hw : r.sitWait = false)
    (hf : g.inFlight r = false) : g.readTimeout r.q.tag = g.settleNo r rdTimeout 0 := by
  have hdue : g.rd.reads.filter (fun x => x.q.tag == r.q.tag && decide (x.sent + 10000000 ≤ g.now)) = [r] := by rw [hr]; simp [ht]
  dsimp only [Gn.readTimeout]
  rw [hdue]
  simp only [forEach, List.foldl_cons, List.foldl_nil, hh, hw, hf, Bool.not_false, Bool.and_self, if_true, Bool.false_eq_true, if_false]

/-- A register reply settles the live read of its site. -/
theorem Gn.regReply_live {g : Gn} {site : Nat} {r : Rd} (v ht tq : Nat) (hr : g.rd.reads.find? (fun r => r.site == some site) = some r) :
    g.regReply site 1 v ht tq = (g.settle r rdOk tq v ht).sendLive site := by
  rw [Gn.regReply, if_neg (by decide), if_neg (by decide), if_pos rfl, hr]

end Sys2Proof.Machine

open Sys2Proof Sys2Proof.Machine

/-- Settles O36: the branch of each command. -/
theorem readCommandsComplete : Obligations.ReadCommandsComplete := by
  unfold Obligations.ReadCommandsComplete
  exact ⟨fun s h ta sit ha => gnStep_desc ha rfl, fun s h key win epoch sit ha => gnStep_desc ha rfl, fun s p q ht hp => gnStep_if ht (if_pos hp),
    fun s p x r ht hr hs => gnStep_if ht (Gn.readReply_awaited hr hs), fun s r ha hr hs hh hw hf => gnStep_if ha (Gn.readTimeout_lone hr hs hh hw hf),
    fun s site v ht tq r hk hr => gnStep_if hk (Gn.regReply_live _ _ _ hr)⟩

end

section
/-! Pipeline images, task graphs and tree ensembles (R71 to R73, R98 to R106). -/

namespace Sys2Proof.Machine

/-! ### Images and graphs -/

/-- A transfer to HBM that no channel holds back runs once its channels have granted it. -/
theorem Gn.viaHbm_free {g : Gn} {unit a n : Nat} (f : Gn → Gn) (h : g.hbmHeld unit a n = false) : g.viaHbm unit a n f = f (g.hbmGranted unit a n) :=
  if_neg (Bool.eq_false_iff.1 h)

/-- An image that passes its checks is resident, its bytes in HBM. -/
theorem Gn.imageLoad_passes {g : Gn} (h : DescHdr) {num len : Nat} {y : ImageIn} (hn : num < 256) (hi : g.image num = none)
    (hc : imageCheck len (parseImage y) = 0) : g.imageLoad h num len y
      = (Gn.hbmWrite { g with sq := { g.sq with images := g.sq.images ++ [⟨num, parseImage y⟩] } } (hbmImage num) (y.raw.take (2 ^ 24))).complete 0x04 h
          stOk [num] := by
  dsimp only [Gn.imageLoad]
  rw [if_neg (by omega), hi, hc]
  rfl

/-- An image that fails a check is refused, its check named. -/
theorem Gn.imageLoad_fails {g : Gn} (h : DescHdr) {num len : Nat} {y : ImageIn} (hn : num < 256) (hi : g.image num = none)
    (hc : imageCheck len (parseImage y) ≠ 0) : g.imageLoad h num len y
      = (g.record prodSeq (Config.recCode 5).toNat 4 num (imageCheck len (parseImage y)) num 0 0).failed 0x04 h (Config.recCode 5).toNat
          (imageCheck len (parseImage y)) := by
  dsimp only [Gn.imageLoad]
  rw [if_neg (by omega), hi]
  exact if_neg hc

/-- A graph that no slot holds and that passes its checks. -/
theorem Gn.graphUnload_runs {g : Gn} (h : DescHdr) {slot : Nat} {x : Graph} (hs : slot < 16) (hx : g.graph slot = some x) (hu : x.unloading = false) :
    g.graphUnload h slot = g.unloadGraph slot (some h) := by
  rw [Gn.graphUnload, if_neg (by omega), hx]
  exact if_neg (by simp [hu])

/-! ### Staging -/

/-- A staging or a repair in the slot's range, with its reserved bytes zero, on a slot that is EMPTY or READY. -/
theorem Gn.ensLoad_eq {g : Gn} (h : DescHdr) {e : EnsIn} (hs : u8 e.hdr 0 < 64) (hr : u8 e.hdr 1 < 2) (hz : zeroBytes e.hdr 12 16 = true)
    (hy : zeroBytes e.hdr 48 60 = true) (hst : (g.ens (u8 e.hdr 0)).st = .empty ∨ (g.ens (u8 e.hdr 0)).st = .ready) :
    g.ensLoad h e = if u8 e.hdr 1 = 1 then
        match g.stageCheck e true with
        | .error b => g.ensRefuse h (u8 e.hdr 0) b
        | .ok ep => g.ensRepair h (u8 e.hdr 0) ep
      else g.setEns (u8 e.hdr 0) { g.ens (u8 e.hdr 0) with st := .staging, new := some (parseEpoch e), hdr := some h, input := some e } := by
  dsimp only [Gn.ensLoad]
  rw [if_neg (show ¬ 64 ≤ u8 e.hdr 0 by omega), if_neg (by rw [hz, hy]; simp; omega)]
  exact (if_neg (by rcases hst with hst | hst <;> rw [hst] <;> decide)).trans rfl

/-- No structure is bad when none fails its check. -/
theorem firstBad_none {α : Type} (n : Nat) {f : α → Option Nat} {l : List α} (h : ∀ x ∈ l, f x = none) : firstBad n l f = none := by
  refine List.findSome?_eq_none_iff.2 fun e he => ?_
  rw [h e.1 (List.fst_mem_of_mem_zipIdx he)]
  rfl

/-- A repair in which every panel repairs one of the slot's writes the damaged replicas. -/
theorem Gn.ensRepair_passes {g : Gn} (h : DescHdr) {slot : Nat} {ep : Epoch} (hp : ∀ p ∈ ep.panels, ((g.ens slot).repairs p).isSome = true) :
    let fix := (g.ens slot).damaged.filter (fun d => d.1 == ep.epoch && ep.panels.any (fun p => p.num == d.2.2))
    let k := forEach fix (fun d g => match ep.panels.find? (fun p => p.num == d.2.2) with
      | some p => g.writeReplica p d.2.1
      | none => g) g
    g.ensRepair h slot ep = (k.setEns slot { k.ens slot with damaged := (k.ens slot).damaged.filter (fun d => !fix.contains d) }).complete 0x08 h
      stOk [ep.epoch, slot] := by
  dsimp only [Gn.ensRepair]
  rw [firstBad_none 6 fun p hm => if_pos (hp p hm)] <;> rfl

/-- The end of a staging: its checks, and then the commit or the refusal. -/
theorem Gn.stagingDone_eq {g : Gn} {slot : Nat} {x : EnsIn} {h : DescHdr} (hs : (g.ens slot).st = .staging) (hi : (g.ens slot).input = some x)
    (hh : (g.ens slot).hdr = some h) : g.stagingDone slot = match g.stageCheck x false with
      | .error b => (g.setEns slot (g.ens slot).unstaged).ensRefuse h slot b
      | .ok ep => Gn.setEns { g with ts := { g.ts with pool := SMap.setList (fun _ => (0 : Word32)) g.ts.pool ep.bBase ep.bounds } } slot
          { g.ens slot with st := .commit, new := some ep, left := (ep.panels.map (·.num)).mergeSort, written := [], input := none } := by
  dsimp only [Gn.stagingDone]
  rw [hs, hi, hh] <;> rfl

/-- The one panel of an epoch starts when no slot is writing. -/
theorem Gn.panelWriteStart_lone {g : Gn} {slot : Nat} {ep : Epoch} {p : Panel} (hs : (g.ens slot).st = .commit) (hn : (g.ens slot).new = some ep)
    (hp : ep.panels = [p]) (hl : (g.ens slot).left = [p.num]) (hw : (g.ens slot).writing = []) (he : (g.ens slot).eligible p = true)
    (hall : g.ts.slots.all (fun x => x.2.st != .commit || x.2.writing.isEmpty) = true) :
    g.panelWriteStart slot p.num = g.setEns slot { g.ens slot with writing := [p.num] } := by
  have hfind : [p].find? (fun q => q.num == p.num) = some p := by simp
  have hbusy : g.ts.slots.any (fun s => s.2.st == .commit && s.2.new.toList.any (fun y => y.panels.any (fun q =>
      s.2.writing.contains q.num && sameTarget p q))) = false := by
    rw [List.any_eq_false]
    intro e hm
    have he := List.all_eq_true.1 hall e hm
    simp only [Bool.or_eq_true, bne_iff_ne, List.isEmpty_iff] at he
    rcases he with he | he
    · simp [he]
    · simp [he]
  have hlower : [p].any (fun q => (g.ens slot).left.contains q.num && !(g.ens slot).writing.contains q.num && decide (q.num < p.num) && sameTarget p q
      && (g.ens slot).eligible q) = false := by simp
  dsimp only [Gn.panelWriteStart]
  rw [hs, hn]
  dsimp only
  rw [hp, hfind]
  dsimp only
  rw [hbusy, hlower, he, hl, hw]
  exact if_pos (by simp)

/-- A panel that is written, its channels free. -/
theorem Gn.panelWriteDone_free {g : Gn} {slot num : Nat} {ep : Epoch} {p : Panel} (hs : (g.ens slot).st = .commit) (hn : (g.ens slot).new = some ep)
    (hp : ep.panels.find? (fun q => q.num == num) = some p) (hw : (g.ens slot).writing.contains num = true)
    (hheld : g.hbmHeld 19 (hbmPanels + 8 * p.rowBase) (if p.hbm then 128 * p.rows else 0) = false) :
    let k := (g.hbmGranted 19 (hbmPanels + 8 * p.rowBase) (if p.hbm then 128 * p.rows else 0)).writePanel p
    let e := { k.ens slot with writing := (k.ens slot).writing.filter (fun x => x != num), left := (k.ens slot).left.filter (fun x => x != num),
                               written := (k.ens slot).written ++ [num] }
    g.panelWriteDone slot num = if e.left.isEmpty then (k.setEns slot e).ensCommit slot else k.setEns slot e := by
  dsimp only [Gn.panelWriteDone]
  rw [hs, hn]
  dsimp only
  rw [hp]
  exact (if_pos hw).trans (Gn.viaHbm_free _ hheld)

/-- The scrubber's cycle in a running cluster that reports no error. -/
theorem Gn.scrub_running {g : Gn} {c : Nat} (ha : g.alive = true) (hg : g.flag (F.pwIsl_gated c) = false) (hs : (g.isl c).stoppedAt = none) :
    let row := SMap.get (fun _ => 0) g.ts.scrub c
    g.scrub c [] = forEach (List.range 16) (fun b g =>
      forEach (List.range 4) (fun q g => g.scrubWord c b (row % 256) true q) (g.scrubWord c b row false 0))
        { g with ts := { g.ts with scrub := SMap.set (fun _ => 0) g.ts.scrub c ((row + 1) % 65536) } } := by
  dsimp only [Gn.scrub]
  exact if_neg (by rw [ha, hg, hs]; decide)

end Sys2Proof.Machine

open Sys2Proof Sys2Proof.Machine

/-- Settles O40: the branch of each command. -/
theorem imageAndGraphCommandsComplete : Obligations.ImageAndGraphCommandsComplete := by
  unfold Obligations.ImageAndGraphCommandsComplete
  refine ⟨fun s h num len y ha hn hi => ?_, fun s h num x ha hn => ?_, fun s h al hd ts es ha => ?_, fun s h slot x ha hs => ?_⟩
  · dsimp only
    refine ⟨fun hc hheld hk hg => ?_, fun hc hk hg => ?_⟩
    · refine gnStep_eq ((if_pos (by rw [ha, hi, hc]; simp [hn])).trans ?_)
      refine (Gn.viaHbm_free _ hheld).trans ((Gn.desc_admitted _ hk).trans ?_)
      exact Gn.imageLoad_passes h hn hg hc
    · refine gnStep_eq ((if_neg ?_).trans ((Gn.desc_admitted _ hk).trans (Gn.imageLoad_fails h hn hg hc)))
      simp only [Bool.and_eq_true, beq_iff_eq, not_and]
      exact fun _ => hc
  · intro g g1 hu hx
    exact gnStep_desc ha ((if_neg (by omega)).trans (if_neg (by rw [hu, hx]; exact Bool.false_ne_true)))
  · intro g x g1 g2 hg hc
    refine gnStep_desc ha ?_
    rw [Gn.graphLoad, hg, hc]
    rfl
  · intro g hx hu
    exact gnStep_desc ha (congrArg Gn.proofSettle (Gn.graphUnload_runs h hs hx hu))

/-- Settles O41: the branch of each command. -/
theorem ensembleCommandsComplete : Obligations.EnsembleCommandsComplete := by
  unfold Obligations.EnsembleCommandsComplete
  refine ⟨fun s h e ha => ?_, fun s h e ep ha => ?_, fun s h e b ha => ?_, fun s h slot ha hs => ?_, fun s slot x h hs hi hh => ?_,
    fun s slot ep p hs hn hp => ?_, fun s slot num ep p hs hn hp hw => ?_, fun s c ha hg hs => gnStep_eq (Gn.scrub_running ha hg hs)⟩
  · intro g slot me hslot hrep hz hy hst
    exact gnStep_desc ha ((Gn.ensLoad_eq h hslot (by omega) hz hy hst).trans (if_neg (by omega)))
  · intro g slot me fix g1 hslot hrep hz hy hst hc hp
    refine gnStep_desc ha ((Gn.ensLoad_eq h hslot (by omega) hz hy (.inr hst)).trans ((if_pos hrep).trans ?_))
    rw [hc]
    exact Gn.ensRepair_passes h hp
  · intro g slot hslot hrep hz hy hst hc
    refine gnStep_desc ha ((Gn.ensLoad_eq h hslot (by omega) hz hy (.inr hst)).trans ((if_pos hrep).trans ?_))
    rw [hc]
  · intro g
    refine ⟨fun hst => gnStep_desc ha ((if_neg (by omega)).trans ?_), fun hst => gnStep_desc ha ((if_neg (by omega)).trans ?_)⟩
    · dsimp only
      rw [hst]
    · dsimp only
      rw [hst]
  · refine ⟨fun ep hc => gnStep_eq ((Gn.stagingDone_eq hs hi hh).trans ?_), fun b hc => gnStep_eq ((Gn.stagingDone_eq hs hi hh).trans ?_)⟩
    · rw [hc]
    · rw [hc]
  · intro e hl hw he hall
    exact gnStep_eq (Gn.panelWriteStart_lone hs hn hp hl hw he hall)
  · intro n hheld g e
    exact gnStep_eq (Gn.panelWriteDone_free hs hn hp hw hheld)

end

section
/-! Tasks: launch, break points, holds, the watchdog and a cycle of the pipeline (R72 to R75, R307). -/

namespace Sys2Proof.Machine

/-- The best ready task is launched, or waits on hold where no plan fits it. -/
theorem Gn.taskLaunch_picked {g : Gn} {c : Cand} (ha : g.alive = true) (hp : g.rg F.pwState_pstate = 0) (hf : g.frozen = false)
    (hc : g.pick g.cands [] = some c) : g.taskLaunch = if g.hasPlan c then g.launch c else g.holdLaunch c := by
  rw [Gn.taskLaunch, if_neg (by simp [ha, hp, hf]), hc]

theorem Gn.taskComplete_runs {g : Gn} {slot n idx : Nat} {t : Task} {r : Run} (hr : g.runOf slot n idx = some (t, r)) (hm : g.moving = true)
    (hh : r.held = false) : g.taskComplete slot n idx = g.taskDone slot n idx r.status := by
  rw [Gn.taskComplete, hr]
  exact if_pos (by simp [hm, hh])

/-! ### Break points -/

section
variable {g : Gn} {slot n idx : Nat} {t : Task} {r : Run} (hr : g.runOf slot n idx = some (t, r)) (hm : g.moving = true)
include hr hm

/-- A task that has faulted ends at its break point, with its status. -/
theorem Gn.breakPoint_faulted (hh : r.held = false) (hs : r.status ≠ 0) : g.breakPoint slot n idx = g.taskDone slot n idx r.status := by
  rw [Gn.breakPoint, hr]
  exact (if_neg (by simp [hm, hh])).trans (if_pos hs)

/-- A cancelled one ends there as well. -/
theorem Gn.breakPoint_cancelled (hh : r.held = false) (hs : r.status = 0) (hc : r.cancel = true) : g.breakPoint slot n idx = g.taskDone slot n idx 6 := by
  rw [Gn.breakPoint, hr]
  exact (if_neg (by simp [hm, hh])).trans ((if_neg (by simp [hs])).trans (if_pos hc))

/-- A task with a plan for each of its clusters takes the plans there. -/
theorem Gn.breakPoint_plans (hh : r.held = false) (hs : r.status = 0) (hc : r.cancel = false) (hp : (g.plansNow t).all (·.isSome) = true) :
    let new := (g.plansNow t).map (fun p => p.getD (0, 0))
    let sw := (t.clusters.zip ((r.plans.zip r.used).zip new)).filter (fun e => e.2.1 != e.2.2)
    let k := forEach sw (fun e g => g.inc (F.clPlan_planSw e.1)) g
    g.breakPoint slot n idx = (Gn.setTst (if sw = [] then k else k.placeCopies slot n t (new.map (·.2))) slot n idx (.running
      { r with plans := new.map (·.1), used := new.map (·.2), cyc := r.cyc.map (fun _ => 0), bp := r.bp + 1 })).coreSettle := by
  rw [Gn.breakPoint, hr]
  dsimp only
  rw [if_neg (by simp [hm, hh]), if_neg (by simp [hs]), if_neg (by simp [hc]), if_pos hp]
  simp only [List.isEmpty_iff]

/-- One without a plan for some cluster goes on hold there. -/
theorem Gn.breakPoint_holds (hh : r.held = false) (hs : r.status = 0) (hc : r.cancel = false) (hp : (g.plansNow t).all (·.isSome) = false) :
    let k := forEach ((t.clusters.zip (g.plansNow t)).filter (fun e => e.2.isNone)) (fun e g => g.inc (F.clPlan_nopHold e.1)) g
    g.breakPoint slot n idx = ((k.record prodSeq (Config.recCode 7).toNat 3 (taskSource slot idx) n t.image 0 0).setTst slot n idx (.running
      { r with held := true, cyc := r.cyc.map (fun _ => 0), bp := r.bp + 1 })).coreSettle := by
  rw [Gn.breakPoint, hr]
  dsimp only
  rw [if_neg (by simp [hm, hh]), if_neg (by simp [hs]), if_neg (by simp [hc]), if_neg (Bool.eq_false_iff.1 hp)]

/-! ### Holds -/

theorem Gn.holdResume_cancelled (hh : r.held = true) (hc : r.cancel = true) : g.holdResume slot n idx = g.taskDone slot n idx 6 := by
  rw [Gn.holdResume, hr]
  exact (if_neg (by simp [hm, hh])).trans (if_pos hc)

/-- A held task resumes once it has its plans and its cores are free. -/
theorem Gn.holdResume_plans (hh : r.held = true) (hc : r.cancel = false) (hp : (g.plansNow t).all (·.isSome) = true) (hf : g.coresFree t = true) :
    let new := (g.plansNow t).map (fun p => p.getD (0, 0))
    let sw := (t.clusters.zip ((r.plans.zip r.used).zip new)).filter (fun e => e.2.1 != e.2.2)
    let k := forEach sw (fun e g => g.inc (F.clPlan_planSw e.1)) g
    g.holdResume slot n idx = (k.placeCopies slot n t (new.map (·.2))).setTst slot n idx (.running
      { r with plans := new.map (·.1), used := new.map (·.2), held := false }) := by
  rw [Gn.holdResume, hr]
  dsimp only
  rw [if_neg (by simp [hm, hh]), if_neg (by simp [hc]), if_pos (by rw [hp, hf]; rfl)]

end

/-- A task past its bound of cycles is ended, its cores reset. -/
theorem Gn.bpWatchdog_late {g : Gn} {slot n idx : Nat} {t : Task} {r : Run} {x : Image} (hr : g.runOf slot n idx = some (t, r)) (ha : g.alive = true)
    (hh : r.held = false) (hx : g.image t.image = some x) (hc : r.cyc.any (fun c => decide (x.bpMax + 1024 ≤ c)) = true) :
    let keys := t.clusters.zipIdx.flatMap (fun e => (setBits 16 (g.foot t.image e.2).cores).map (fun k => e.1 * 16 + k))
    g.bpWatchdog slot n idx = ((g.coreReset keys).record prodSeq (Config.recCode 11).toNat 4 (taskSource slot idx) n t.image 0 0).taskDone slot n idx 4 := by
  rw [Gn.bpWatchdog, hr]
  dsimp only
  rw [hx]
  exact if_neg (by rw [ha, hh, hc]; decide)

/-! ### A cycle of the pipeline -/

/-- One island cycle of a running task in a cluster that runs: throttled, stalled by a crossing, or done. -/
theorem Gn.pipelineCycle_runs {g : Gn} {slot n idx c lc : Nat} {t : Task} {r : Run} (ops : List CycleOp) (hr : g.runOf slot n idx = some (t, r))
    (hl : t.clusters.findIdx? (· == c) = some lc) (hm : g.moving = true) (hh : r.held = false) (hg : g.flag (F.pwIsl_gated c) = false)
    (hs : (g.isl c).stoppedAt = none) :
    let x : Site := { slot := slot, inst := n, idx := idx, c := c, lc := lc, t := t, f := g.foot t.image lc }
    let k := ((g.nextOct x).nextIsl x).freshCycle
    let io := (forEach (ops.filter ioOp) (fun o g => g.cycleOp x o) (k.fillCrossing c)).freshCycle
    let e := (forEach ops (fun o g => g.cycleOp x o) k).engines x
    g.pipelineCycle slot n idx c ops = if g.throttled x r then io else if k.stalls c ops then io.passCycles x 1
      else ((((e.passCycles x (1 + e.addedCycles)).watchAccess x).memErrors x).sparsity x).freshCycle.fillCrossing c := by
  rw [Gn.pipelineCycle, hr]
  dsimp only
  rw [hl]
  exact if_neg (by rw [hm, hh, hg, hs]; decide)

end Sys2Proof.Machine

open Sys2Proof Sys2Proof.Machine

/-- Settles O42: the branch of each command. -/
theorem taskCommandsComplete : Obligations.TaskCommandsComplete := by
  unfold Obligations.TaskCommandsComplete
  have settled : ∀ {s : State} {f : Gn → Gn} {k : Gn}, f s.gn = k → gnStep s (fun g => (f g).proofSettle) = .next { s with gn := k.proofSettle } :=
    fun h => gnStep_eq (congrArg Gn.proofSettle h)
  refine ⟨fun s c ha hp hf hc => ⟨fun hpl => settled ?_, fun hpl => settled ?_⟩,
    fun s slot n idx t r hr hm => ⟨fun hh => settled (Gn.taskComplete_runs hr hm hh), fun hh hs => settled (Gn.breakPoint_faulted hr hm hh hs),
      fun hh hs hc => settled (Gn.breakPoint_cancelled hr hm hh hs hc), fun hh hc => settled (Gn.holdResume_cancelled hr hm hh hc)⟩,
    fun s slot n idx t r hr hm hh hs hc hp => settled (Gn.breakPoint_plans hr hm hh hs hc hp),
    fun s slot n idx t r hr hm hh hs hc hp => settled (Gn.breakPoint_holds hr hm hh hs hc hp),
    fun s slot n idx t r hr hm hh hc hp hf => settled (Gn.holdResume_plans hr hm hh hc hp hf),
    fun s slot n idx t r x hr ha hh hx hc => settled (Gn.bpWatchdog_late hr ha hh hx hc),
    fun s slot n idx c lc t r ops hr hl hm hh hg hs => ?_, fun s slot x hx hw => gnStep_eq ?_⟩
  · rw [Gn.taskLaunch_picked ha hp hf hc, if_pos hpl]
  · rw [Gn.taskLaunch_picked ha hp hf hc, if_neg (Bool.eq_false_iff.1 hpl)]
  · have hcycle := Gn.pipelineCycle_runs ops hr hl hm hh hg hs
    exact ⟨fun ht => gnStep_eq (hcycle.trans (if_pos ht)),
      fun ht hst => gnStep_eq (hcycle.trans ((if_neg (Bool.eq_false_iff.1 ht)).trans (if_pos hst))),
      fun ht hst => gnStep_eq (hcycle.trans ((if_neg (Bool.eq_false_iff.1 ht)).trans (if_neg (Bool.eq_false_iff.1 hst))))⟩
  · rw [Gn.winSkipWarning, hx]
    exact if_pos hw

end

section
/-! Proofing at the tray (R109 to R127, R173). -/

namespace Sys2Proof.Machine

/-- A seed of an epoch that has not ended is stored and forwarded while three have room. -/
theorem Gn.seed_stored {g : Gn} (h : DescHdr) {epoch : Nat} {sd : BitVec 128} (he : g.pf.epoch ≤ epoch)
    (hl : (g.pf.seeds.filter (fun x => x.epoch != epoch) ++ [({ epoch := epoch, seed := sd, sent := none } : Seed)]).length ≤ 3) :
    g.seed h epoch sd = (Gn.forwardSeeds { g with pf := { g.pf with seeds := g.pf.seeds.filter (fun x => x.epoch != epoch) ++
      [{ epoch := epoch, seed := sd, sent := none }] } }).complete 0x0B h stOk [] := by
  rw [Gn.seed, if_neg (by omega)]
  dsimp only
  rw [if_neg (by omega)]
  rfl

/-- Frames of a site that is served are taken by a tray outside a freeze. -/
theorem Gn.atTray {g x y z : Gn} (ht : g.takes = true) (htray : g.isTray = true) :
    (if (!g.takes || !g.isTray) = true then x else if g.frozen = true then y else z) = if g.frozen = true then y else z :=
  if_neg (by simp [ht, htray])

/-- A weight frame waits out a freeze. -/
theorem Gn.weightIn_parked {g : Gn} (w : WeightIn) (ht : g.takes = true) (htray : g.isTray = true) (hf : g.frozen = true) :
    g.weightIn w = g.park (.weight w) := (if_neg (by simp [ht, htray])).trans (if_pos hf)

theorem Gn.weightIn_manager {g : Gn} (w : WeightIn) (htray : g.isTray = false) : g.weightIn w = g := if_pos (by simp [htray])

/-- The expiry of a batch's gathering asks for the oldest of its exports. -/
theorem Gn.gatherExpiry_eq (g : Gn) : g.gatherExpiry
    = (g.dispatchWhen (fun p es => (es.head?.map (fun e => decide (e.since + p.gatherUs * 1000 ≤ g.now))).getD false)).pumpAll := by
  have htest : (fun (p : Plan) (es : List Exp) => match es with
      | e :: _ => decide (e.since + p.gatherUs * 1000 ≤ g.now)
      | [] => false) = fun p es => (es.head?.map (fun e => decide (e.since + p.gatherUs * 1000 ≤ g.now))).getD false := by
    funext p es
    cases es with
    | nil => rfl
    | cons e es => rfl
  exact congrArg (fun f => (g.dispatchWhen f).pumpAll) htest

/-- The outcome of an ended run decides its exports, and the run is gone. -/
theorem Gn.proofRunDone_ended {g : Gn} {slot inst : Nat} {r : PfRun} (ha : g.alive = true) (hf : g.frozen = false)
    (hr : g.pf.runs.find? (fun q => q.slot == slot && q.inst == inst && q.ended) = some r) :
    g.proofRunDone slot inst = ((forEach r.rbs.zipIdx (fun x g => g.runOutcome r x.2 x.1) g).onPf (fun q =>
      { q with runs := q.runs.filter (fun x => x.id != r.id) })).pumpAll := by
  rw [Gn.proofRunDone, if_neg (by simp [ha, hf]), hr]

/-- One of the exports that is past its deadline is answered LATE. -/
theorem Gn.proofDeadline_late {g : Gn} {site seq : Nat} {e : Exp} {p : Plan}
    (he : g.pf.exps.find? (fun e => e.site == site && e.seq == seq && e.st != .answered) = some e) (hp : g.expPlan e = some p)
    (hd : e.htDone + p.deadlineUs * 1000 ≤ g.now) : g.proofDeadline site seq = g.answer e 4 0 0 0xFFFFFFFF [] := by
  rw [Gn.proofDeadline, he]
  dsimp only
  rw [hp]
  exact if_pos hd

end Sys2Proof.Machine

open Sys2Proof Sys2Proof.Machine

/-- Settles O43: the branch of each command. -/
theorem proofCommandsComplete : Obligations.ProofCommandsComplete := by
  unfold Obligations.ProofCommandsComplete
  refine ⟨fun s h hd ts ha => gnStep_desc ha rfl, fun s h epoch sd ha => ?_, fun s h c ha hc => ?_, fun s site seq part n b w k ht => ⟨?_, ?_, ?_⟩,
    fun s site w ht htray hf hb => gnStep_eq ?_, fun s site => gnStep_self rfl, fun s => ⟨gnStep_eq rfl, gnStep_eq (Gn.gatherExpiry_eq _)⟩,
    fun s slot inst r ha hf hr => ?_, fun s site seq e p he hp hd => gnStep_eq (Gn.proofDeadline_late he hp hd)⟩
  · dsimp only
    exact ⟨fun hlow => gnStep_desc ha (if_pos hlow), fun he hl => gnStep_desc ha (Gn.seed_stored h he hl)⟩
  · dsimp only
    exact ⟨fun hb => gnStep_desc ha ((if_neg (by omega)).trans (if_pos hb)),
      fun hb => gnStep_desc ha ((if_neg (by omega)).trans (if_neg (Bool.eq_false_iff.1 hb)))⟩
  · intro htray hf
    refine ⟨fun hheld => gnStep_eq ?_, gnStep_eq rfl, gnStep_eq ?_⟩
    · exact (Gn.atTray ht htray).trans ((if_neg (Bool.eq_false_iff.1 hf)).trans (Gn.viaHbm_free _ hheld))
    · exact (Gn.atTray ht htray).trans (if_neg (Bool.eq_false_iff.1 hf))
  · intro htray hf
    exact ⟨gnStep_eq ((Gn.atTray ht htray).trans (if_pos hf)), gnStep_eq (Gn.weightIn_parked w ht htray hf),
      gnStep_eq ((Gn.atTray ht htray).trans (if_pos hf))⟩
  · intro htray
    exact ⟨gnStep_self (if_pos (by simp [htray])), gnStep_self (Gn.weightIn_manager w htray), gnStep_self (if_pos (by simp [htray]))⟩
  · exact (Gn.atTray ht htray).trans ((if_neg (Bool.eq_false_iff.1 hf)).trans (if_pos hb))
  · dsimp only
    exact gnStep_eq (Gn.proofRunDone_ended ha hf hr)

end

section
/-! Ingest, windows and reduction (R214 to R226). -/

namespace Sys2Proof.Machine

/-! ### Frames of a site -/

/-- A frame of a site that is ingested waits out a freeze. -/
theorem Gn.whenIngests {g y z : Gn} (h : g.ingests = true) : (if (!g.ingests) = true then g else if g.frozen = true then y else z)
    = if g.frozen = true then y else z := if_neg (by simp [h])

theorem Gn.takes_of_ingests {g : Gn} (h : g.ingests = true) : g.takes = true ∧ g.isTray = true := Bool.and_eq_true_iff.1 h

/-! ### Windows -/

/-- A new length of a window, in its range, with the close unchanged. -/
theorem Gn.winCfg_len {g : Gn} {w v : Nat} (hl : bits v 0 20 = 0 ∨ (10 ≤ bits v 0 20 ∧ bits v 0 20 ≤ 1000000))
    (hne : bits v 0 20 ≠ g.rg (F.winCfg_lenUs w)) (hc : bits v 20 14 = g.rg (F.winCfg_closeUs w)) :
    g.winCfg w v = (g.setWin w ((g.win w).setLen g.now (bits v 0 20))).wr (F.winCfg_lenUs w) (bits v 0 20) := by
  have hok : (bits v 0 20 == 0 || (decide (10 ≤ bits v 0 20) && decide (bits v 0 20 ≤ 1000000))) = true := by simpa using hl
  have hclose : ((g.setWin w ((g.win w).setLen g.now (bits v 0 20))).wr (F.winCfg_lenUs w) (bits v 0 20)).rg (F.winCfg_closeUs w)
      = g.rg (F.winCfg_closeUs w) := Gn.rg_wr_ne _ _ (by simp only [FRef.key, F.winCfg_lenUs, F.winCfg_closeUs]; omega)
  dsimp only [Gn.winCfg]
  rw [hok, if_pos (show (true && bits v 0 20 != g.rg (F.winCfg_lenUs w)) = true by simp [hne]), hclose, hc]
  exact if_neg (by simp)

/-- A window closes into one part for each epoch it spans and forgets the regimes that can no longer matter. -/
theorem Gn.windowClose_due {g : Gn} {w start stop : Nat} {short : Bool} (old new : List (Nat × SeriesIn)) (ha : g.alive = true)
    (hw : (g.win w).windowOf (g.win w).closed = some (start, stop, short)) (hd : stop + g.closeDelay w stop * 1000 ≤ g.now) :
    let es := g.epochsIn start stop
    let part : Nat × Nat → Gn → Gn := fun e k => k.closeEpoch w start stop (((g.win w).regime start).2.1 / 1000) e.1 short (decide (0 < e.2))
      (if e.2 + 1 = es.length then new else if e.2 = 0 then old else [])
    let k := if g.isTray = true then forEach es.zipIdx part (g.count 2 w) else g.count 2 w
    w ≠ k.rg F.hlSrch_hstream →
    let y := k.win w
    let cur := (y.segs.filter (fun s => decide (s.1 ≤ stop))).getLast?.toList
    let last := (y.closes.filter (fun c => decide (c.1 < stop))).getLast?.toList
    let z : WinSt := { segs := cur ++ y.segs.filter (fun s => decide (stop < s.1)), closes := last ++ y.closes.filter (fun c => decide (stop ≤ c.1)),
                       closed := stop, wins := y.wins.filter (fun v => decide (stop ≤ v.start)), cums := y.cums }
    g.windowClose w old new = ((k.setWin w z).windowToGraphs w start).raiseDecim := by
  intro es part k hh
  rw [Gn.windowClose, if_neg (by simp [ha])]
  dsimp only
  rw [hw]
  dsimp only
  rw [if_neg (show ¬ g.now < stop + g.closeDelay w stop * 1000 by omega)]
  have hk : (if (!(g.count 2 w).isTray) = true then g.count 2 w else forEach es.zipIdx part (g.count 2 w)) = k := by
    rw [show (g.count 2 w).isTray = g.isTray from rfl]
    cases ht : g.isTray <;> simp [k, ht]
  dsimp only [es, part] at hk
  rw [hk, if_neg hh]

/-! ### Rods and reduction control -/

/-- The one rod here leaves as it is once its wait has ended. -/
theorem Gn.summaryTimeout_lone {g : Gn} {r : Rod} (ha : g.alive = true) (hf : g.frozen = false) (hr : g.rd.rods = [r])
    (ht : r.x.win + r.x.span + g.rg F.rdCfg_waitUs * 1000 ≤ g.now) : g.summaryTimeout = g.emitRod r := by
  have hdue : g.rd.rods.filter (fun r => decide (r.x.win + r.x.span + g.rg F.rdCfg_waitUs * 1000 ≤ g.now)) = [r] := by rw [hr]; simp [ht]
  rw [Gn.summaryTimeout, if_neg (by simp [ha, hf])]
  dsimp only
  rw [hdue]
  exact if_pos (by rw [hr]; simp)

/-- With nothing queued to pass through, the parent's credit lets nothing go. -/
theorem Gn.controlFrame_empty {g : Gn} (w j : Nat) (hq : g.rd.queued = []) :
    g.controlFrame w j = (((g.wr F.rdStat_ptBeads w).onRd (fun d => { d with ordered := min 6 j })).checkSat).advertise := by
  have hlen : ((g.wr F.rdStat_ptBeads w).onRd (fun d => { d with ordered := min 6 j })).rd.queued.length = 0 := congrArg List.length hq
  dsimp only [Gn.controlFrame]
  rw [hlen]
  rfl

end Sys2Proof.Machine

open Sys2Proof Sys2Proof.Machine

/-- Settles O44: the branch of each command. -/
theorem ingestCommandsComplete : Obligations.IngestCommandsComplete := by
  unfold Obligations.IngestCommandsComplete
  refine ⟨fun s site r st tq studio b rs ps hi => ⟨fun hf => ?_, fun hf => ?_⟩, fun s site studio rs ht htray => gnStep_eq ?_,
    fun s w v ha hl hne hc => gnStep_if ha (Gn.winCfg_len hl hne hc), fun s w start stop short old new ha hw hd => ?_⟩
  · have hnot : ¬ s.gn.frozen = true := Bool.eq_false_iff.1 hf
    obtain ⟨ht, htray⟩ := Gn.takes_of_ingests hi
    exact ⟨gnStep_eq ((Gn.whenIngests hi).trans (if_neg hnot)), gnStep_eq ((Gn.whenIngests hi).trans (if_neg hnot)),
      gnStep_eq ((if_neg (by simp [ht])).trans ((if_neg (by simp [htray])).trans (if_neg hnot))),
      gnStep_eq ((Gn.whenIngests hi).trans (if_neg hnot))⟩
  · obtain ⟨ht, htray⟩ := Gn.takes_of_ingests hi
    exact ⟨gnStep_eq ((Gn.whenIngests hi).trans (if_pos hf)), gnStep_eq ((Gn.whenIngests hi).trans (if_pos hf)),
      gnStep_eq ((if_neg (by simp [ht])).trans ((if_neg (by simp [htray])).trans (if_pos hf))),
      gnStep_eq ((Gn.whenIngests hi).trans (if_pos hf))⟩
  · rw [if_neg (by simp [ht])]
    exact if_pos (by simp [htray])
  · intro es g0 part g hh
    exact gnStep_eq (Gn.windowClose_due old new ha hw hd hh)

/-- Settles O46: the branch of each command. -/
theorem reductionCommandsComplete : Obligations.ReductionCommandsComplete := by
  unfold Obligations.ReductionCommandsComplete
  refine ⟨fun s p x hp => ⟨fun hf => ?_, fun hf => ?_⟩, fun s r ha hf => ⟨fun hr => gnStep_eq ?_, fun hr ht => gnStep_eq ?_⟩,
    fun s ha htray => gnStep_eq (if_neg (by simp [ha, htray])), fun s w j ha hq => gnStep_if ha ?_⟩
  · have hnot : ¬ s.gn.frozen = true := Bool.eq_false_iff.1 hf
    exact ⟨gnStep_if hp (if_neg hnot), gnStep_if hp (if_neg hnot), gnStep_if hp (if_neg hnot)⟩
  · exact ⟨gnStep_if hp (if_pos hf), gnStep_if hp (if_pos hf), gnStep_if hp (if_pos hf)⟩
  · rw [Gn.summaryEmit, if_neg (by simp [ha, hf]), hr]
  · exact Gn.summaryTimeout_lone ha hf hr ht
  · exact Gn.controlFrame_empty w.toNat j hq

end

section
/-! Sittings at the module (R171 to R180). -/

namespace Sys2Proof.Machine

/-! ### Requests -/

/-- A sitting asked for here in time, with room for it and a number not in use. -/
theorem Gn.sittingPost_taken {g : Gn} (h : DescHdr) {ident t : Nat} (hi : ident ≠ 0) (hv : g.timeValid = true) (ht : g.now + 50000 ≤ t)
    (hl : g.sits.length < 8) (hn : g.sit ident = none) :
    g.sittingPost h ident t = Gn.forwardSit { g with sits := g.sits ++ [Sit.fresh ident t .armed (some h) 0] } ident t := by
  rw [Gn.sittingPost, if_neg hi, hn]
  exact if_neg (by simp [hv]; omega)

/-- One that is late, without time, without room or whose number is in use. -/
theorem Gn.sittingPost_refused {g : Gn} (h : DescHdr) {ident t : Nat} (hi : ident ≠ 0)
    (hbad : g.timeValid = false ∨ t < g.now + 50000 ∨ 8 ≤ g.sits.length ∨ g.sit ident ≠ none) :
    g.sittingPost h ident t = (g.inc F.sitStat_refused).complete 0x0D h stRefused [] := by
  rw [Gn.sittingPost, if_neg hi]
  refine if_pos ?_
  simp only [Bool.or_eq_true, Bool.not_eq_true', decide_eq_true_eq, Option.isSome_iff_ne_none, or_assoc]
  exact hbad

/-- The parent's request wakes the module, which arms the sitting, or holds it at once when it is late. -/
theorem Gn.sittingRequest_taken {g : Gn} {ident : Nat} (t : Nat) (hd : g.rg F.pwState_pstate ≠ 2) (hacc : g.acc ≠ 2) (hl : g.sits.length < 8)
    (hn : g.sit ident = none) : g.sittingRequest ident t = if g.wake.now < t then
        Gn.forwardSit { g.wake with sits := g.wake.sits ++ [Sit.fresh ident t .armed none 0] } ident t
      else (Gn.forwardSit { g.wake with sits := g.wake.sits ++ [Sit.fresh ident t .armed none cReqLate] } ident t).sitHeld
        (Sit.fresh ident t .armed none cReqLate) := by
  rw [Gn.sittingRequest, if_neg (by simp [hd, hacc]), hn, if_neg (by simp; omega)]
  by_cases hlt : g.wake.now < t
  · have hnot : decide (t ≤ g.wake.now) = false := by simpa using hlt
    dsimp only
    simp only [if_pos hlt, hnot, Bool.false_eq_true, if_false]
  · have hlate : decide (t ≤ g.wake.now) = true := by simpa using hlt
    dsimp only
    simp only [if_neg hlt, hlate, if_true]

/-! ### The freeze -/

section
variable {g : Gn} {ident : Nat} {x : Sit} (hx : g.sit ident = some x)
include hx

/-- A module without valid time captures nothing. -/
theorem Gn.sittingFreeze_noTime (hs : x.st = .armed) (ht : x.t ≤ g.now) (hv : g.timeValid = false) :
    g.sittingFreeze ident = g.sitHeld { x with cause := x.cause ||| cTimeInvalid } := by
  rw [Gn.sittingFreeze, hx]
  exact (if_neg (by simp [hs]; omega)).trans (if_pos (by simp [hv]))

/-- With every link of its scope in service and no other capture at that instant, the sitting takes the registers and the queues as they are. -/
theorem Gn.sittingFreeze_captures (hs : x.st = .armed) (ht : x.t ≤ g.now) (hv : g.timeValid = true)
    (hall : (g.sitLinks x).all (fun l => g.linkUp l && g.sitCapable l) = true) (hone : g.sits.find? (fun y => y.t == x.t && y.snap != []) = none) :
    g.sittingFreeze ident = (g.setSit { x with st := .frozen, snap := g.regs, tq := g.tq, tqIsl := g.tqCovering 16, queues := g.queueMarks }).checkFreeze
      ident := by
  have hup : ∀ l ∈ g.sitLinks x, g.linkUp l = true ∧ g.sitCapable l = true := fun l hl => Bool.and_eq_true_iff.1 (List.all_eq_true.1 hall l hl)
  have hdown : (g.sitLinks x).filter (fun l => !g.linkUp l) = [] := List.filter_eq_nil_iff.2 fun l hl => by simp [(hup l hl).1]
  have hfast : (g.sitLinks x).filter (fun l => g.linkUp l && !g.sitCapable l) = [] := List.filter_eq_nil_iff.2 fun l hl => by simp [(hup l hl).2]
  rw [Gn.sittingFreeze, hx]
  dsimp only
  rw [if_neg (by simp [hs]; omega), if_neg (by simp [hv]), hdown, hfast, hone]
  simp only [List.foldl_nil, List.filter_nil, List.append_nil]

/-- The freeze ends `sit_frz_us` after the sitting's time. -/
theorem Gn.freezeTimeout_due (hs : x.st = .frozen) (ht : x.t + g.rg F.tmCfg_sitFrzUs * 1000 ≤ g.now) : g.freezeTimeout ident = g.endFreeze x := by
  rw [Gn.freezeTimeout, hx]
  exact if_pos (by simp [hs, ht])

/-- Reports still missing past their time are counted lost. -/
theorem Gn.reportTimeout_due (ht : x.t + 4 * g.rg F.tmCfg_sitFrzUs * 1000 + 1000000 ≤ g.now) :
    let miss := (g.portsOf 2).filter (fun p => !x.lost.contains p && !x.reports.any (fun e => e.1 == p))
    g.reportTimeout ident = (g.setSit { x with lost := x.lost ++ miss }).trySitReport ident := by
  rw [Gn.reportTimeout, hx]
  exact if_neg (by omega)

/-! ### Markers and reports -/

/-- A port's marker closes its link. -/
theorem Gn.markerArrival_port (p : Nat) : g.markerArrival (.port p) ident none = (g.setSit x).closeLink x (.port p) 0 := by
  rw [Gn.markerArrival, hx]

/-- A block's marker is its image. -/
theorem Gn.markerArrival_site (site : Nat) (im : SampleIn) (hs : x.st = .frozen) (hi : x.images = []) :
    g.markerArrival (.site site) ident (some im) = (g.setSit { x with images := [(site, im)] }).closeLink { x with images := [(site, im)] } (.site site) 0 := by
  rw [Gn.markerArrival, hx]
  simp only [hs, hi, List.any_nil, Bool.or_false, List.nil_append]
  rfl

/-- A marker leaves once nothing older waits on its link. -/
theorem Gn.markerSend_port {p : Nat} (hs : x.st = .frozen) (hsnap : (x.snap == []) = false) (hsent : x.sent.contains (.port p) = false)
    (hl : g.markerLink x (.port p) = true) (hq : (g.port p).sendQ.any (fun f => decide (extStamp g.now f.stamp < x.t)) = false) :
    g.markerSend (.port p) ident = (g.setSit { x with sent := x.sent ++ [.port p] }).sendPort p 0x19 (leBytes 8 x.t ++ leBytes 1 ident ++ leBytes 7 1) := by
  unfold Gn.markerSend
  rw [hx]
  exact if_neg (by rw [hs, hsnap, hsent, hl, hq]; decide)

/-- A child's first report is merged. -/
theorem Gn.childReport_first {p : Nat} {r : SitReport} (hi : r.ident = ident) (hu : g.portUse p = 2) (hrep : x.reported = false)
    (hlost : x.lost.contains p = false) (hr : x.reports = []) :
    g.childReport p r = (g.setSit { x with reports := [(p, r)] }).trySitReport ident := by
  rw [Gn.childReport, hi, hx]
  dsimp only
  rw [hu, hrep, hlost, hr]
  rfl

end

end Sys2Proof.Machine

open Sys2Proof Sys2Proof.Machine

/-- Settles O45: the branch of each command. -/
theorem sittingCommandsComplete : Obligations.SittingCommandsComplete := by
  unfold Obligations.SittingCommandsComplete
  refine ⟨fun s h ident t ha hi => ?_, fun s h t ha => gnStep_desc ha rfl, fun s h ident ha hi => ?_, fun s ident t ha hd hacc hl hn => ?_,
    fun s ident x ha hx => ?_⟩
  · dsimp only
    exact ⟨fun hv ht hl hn => gnStep_desc ha (Gn.sittingPost_taken h hi hv ht hl hn), fun hbad => gnStep_desc ha (Gn.sittingPost_refused h hi hbad)⟩
  · dsimp only
    refine ⟨fun x hx => gnStep_desc ha ?_, fun hx => gnStep_desc ha ?_⟩
    · rw [Gn.sitRetire, if_neg hi, hx]
    · rw [Gn.sitRetire, if_neg hi, hx]
  · exact ⟨fun hlt => gnStep_if ha ((Gn.sittingRequest_taken t hd hacc hl hn).trans (if_pos hlt)),
      fun hle => gnStep_if ha ((Gn.sittingRequest_taken t hd hacc hl hn).trans (if_neg (by omega)))⟩
  · have live : ∀ {f : Sit → Gn → Gn}, gnStep s (fun g => if !g.alive then g else match g.sit ident with | none => g | some y => f y g)
        = .next { s with gn := f x s.gn } := fun {f} => gnStep_eq ((if_neg (by simp [ha])).trans (by rw [hx]))
    exact ⟨fun hs ht hv => gnStep_if ha (Gn.sittingFreeze_noTime hx hs ht hv),
      fun hs ht hv hall hone => gnStep_if ha (Gn.sittingFreeze_captures hx hs ht hv hall hone),
      fun hs ht => gnStep_if ha (Gn.freezeTimeout_due hx hs ht), fun ht => gnStep_if ha (Gn.reportTimeout_due hx ht),
      fun c => live (f := fun y g => g.retireSit y),
      fun site reason => ⟨live (f := fun y g => g.closeRoute y site (refusalCause reason)), live (f := fun y g => g.closeRoute y site cOverrun)⟩,
      fun p => gnStep_if ha (Gn.markerArrival_port hx p), fun site im hs hi => gnStep_if ha (Gn.markerArrival_site hx site im hs hi),
      fun p hs hsnap hsent hl hq => gnStep_if ha (Gn.markerSend_port hx hs hsnap hsent hl hq),
      fun site => gnStep_self (if_pos ha), fun p r hi hu hrep hlost hr => gnStep_if ha (Gn.childReport_first hx hi hu hrep hlost hr)⟩

end

section
/-! The recorder's intake and its flash log (R201, R263 to R266, R273 to R276). -/

namespace Sys2Proof.Machine

/-! ### Intake -/

/-- Where one producer alone waits with a record that can be taken, the grant takes it; registers but the arbiter's own stay. -/
theorem Gn.recordGrant_lone {g : Gn} {prod : Nat} {it : RecItem} (hp : prod < 22) (hheld : g.arbHeld 131 = false) (ht : g.canTake (prod, it) = true)
    (ho : g.ev.outbox = [(prod, it)]) :
    ∃ k : Gn, g.recordGrant [] = (k.intake prod it, some prod) ∧ k.ev = { g.ev with outbox := [] } ∧ k.mem = g.mem ∧ k.out = g.out
      ∧ ∀ f : FRef, f.key ≠ (F.arb_maxWait 131).key → f.key ≠ (F.arb_ptr 131).key → f.key ≠ (F.arb_starv 131).key → k.rg f = g.rg f := by
  obtain ⟨k, hk, ⟨regs, lk, rfl⟩, hrg⟩ := g.arbitrate_lone 131 prod hheld hp
  have htake : ({ g with regs := regs, lk := lk } : Gn).canTake (prod, it) = true := by
    rw [Gn.canTake, hrg F.pwState_pstate (by decide) (by decide) (by decide)]
    exact ht
  refine ⟨{ g with regs := regs, lk := lk, ev := { g.ev with outbox := [] } }, ?_, rfl, rfl, rfl, hrg⟩
  have hreqs : ([] : List Nat) ++ (g.ev.outbox.filter g.canTake).map (·.1) = [prod] := by rw [ho]; simp [ht]
  have hfind : [(prod, it)].find? (fun e => e.1 == prod && ({ g with regs := regs, lk := lk } : Gn).canTake e) = some (prod, it) := by simp [htake]
  have hrest : removeFirst (fun y => y.1 == prod && ({ g with regs := regs, lk := lk } : Gn).canTake y) [(prod, it)] = [] := if_pos (by simp [htake])
  rw [Gn.recordGrant, hreqs, hk]
  dsimp only
  rw [ho, hfind]
  dsimp only [Gn.onEv]
  rw [ho, hrest]

/-- A record of a lone producer is taken in by the first grant. -/
theorem Gn.recordSubmit_lone {g k : Gn} {prod : Nat} (ho : g.ev.outbox.any (fun e => e.1 == prod) = true) (hk : g.recordGrant [] = (k, some prod)) :
    g.recordSubmit prod = k := by
  rw [Gn.recordSubmit, if_pos ho, Gn.grantUntil, hk]
  exact if_pos rfl

/-! ### The flash log -/

/-- Without a changed chunk nothing goes before the ring's pages. -/
theorem Gn.flashChunks_none {g : Gn} (h : g.ev.chunks = []) : g.flashChunks = g := by
  have hnone : (List.range 16).filter (fun c => g.ev.chunks.contains c) = [] := by simp [h]
  rw [Gn.flashChunks, hnone]
  rfl

/-- The one changed chunk is written. -/
theorem Gn.fixedChunkFlash_lone {g : Gn} {c : Nat} (hc : c < 16) (h : g.ev.chunks = [c]) : g.fixedChunkFlash = g.flashChunk c := by
  have hfind : (List.range 16).find? (fun i => [c].contains i) = some c :=
    (congrArg (List.find? · (List.range 16)) (funext fun i => by rw [Bool.eq_iff_iff]; simp)).trans (find?_beq_of_mem (List.mem_range.2 hc))
  rw [Gn.fixedChunkFlash, h, hfind]

/-- The one open page whose oldest record not in flash is past its age is written. -/
theorem Gn.ringAgeFlash_lone {g : Gn} {p : Page} {r : RingRec} (hc : g.ev.chunks = []) (hp : g.ev.pages = [p]) (ho : p.closed = false)
    (hr : p.recs[p.flashed]? = some r) (ht : r.ht + g.rg F.evCfg_ageMs * 1000000 < g.now) : g.ringAgeFlash = g.flashRing p := by
  have hdirty : p.dirty = true := decide_eq_true (List.getElem?_eq_some_iff.1 hr).1
  have hclosed : [p].filter (fun p => p.closed && p.dirty) = [] := by simp [ho]
  have hdue : [p].filter (fun p => !p.closed && p.dirty && (match p.recs[p.flashed]? with
      | none => false
      | some r => decide (r.ht + g.rg F.evCfg_ageMs * 1000000 < g.now))) = [p] := by simp [ho, hdirty, hr, ht]
  dsimp only [Gn.ringAgeFlash]
  rw [Gn.flashChunks_none hc, hp, hclosed, List.mergeSort_nil]
  dsimp only [forEach, List.foldl_nil]
  rw [hp]
  exact congrArg (List.foldl (fun g p => Gn.flashRing g p) g) hdue

/-- An element noted in a list, once, is in it. -/
theorem mem_noted (a : Nat) (l : List Nat) : a ∈ if l.contains a = true then l else l ++ [a] := by
  split
  · next h => simpa using h
  · simp

end Sys2Proof.Machine

open Sys2Proof Sys2Proof.Machine

/-- Settles O49: the branch of each command; a lone record by `Gn.recordGrant_lone`. -/
theorem recorderCommandsComplete : Obligations.RecorderCommandsComplete := by
  unfold Obligations.RecorderCommandsComplete
  refine ⟨fun s prod ho => gnStep_eq (if_pos ho), fun s prod it hp hheld ht ho => ?_, fun s r => plDo_eq rfl, fun s hs => gnStep_eq ?_,
    fun s c ha hc h => gnStep_if ha (Gn.fixedChunkFlash_lone hc h), fun s p ha hp => gnStep_if ha ?_,
    fun s p r ha hc hp ho hr ht => gnStep_if ha (Gn.ringAgeFlash_lone hc hp ho hr ht), fun s slot hx => ?_,
    fun s slot hx => gnStep_self (if_neg (Bool.eq_false_iff.1 hx))⟩
  · obtain ⟨k, hk, hev, hmem, hout, hrg⟩ := Gn.recordGrant_lone hp hheld ht ho
    exact ⟨k, gnStep_eq (Gn.recordSubmit_lone (by rw [ho]; simp) hk), hev, hmem, hout, hrg⟩
  · exact if_neg (by simp [hs])
  · rw [Gn.ringPageFlash, hp]
  · refine ⟨_, gnStep_eq (if_pos hx), rfl, ?_, rfl, rfl, rfl, rfl, rfl⟩
    exact mem_noted _ _

end

section
/-! The block's registers by either port, its resets, its palette and its sampling instant (R129 to R133, R138 to R140). -/

namespace Sys2Proof.Machine

/-- A management-port write that is neither to a Link register nor to one that a link write has written in the same cycle. -/
theorem Pl.mpWrite_open {p : Pl} {addr : Nat} (v : Nat) (priv : Bool) (hl : p.linkOnly (addr - addr % 4) = false)
    (hw : p.wrote.contains (addr - addr % 4, true) = false) :
    p.mpWrite addr v priv = (p.noteWrite (addr - addr % 4) false).openReg (addr - addr % 4) v priv := if_neg (by rw [hl, hw]; decide)

/-- One that is, is dropped and counted. -/
theorem Pl.mpWrite_denied {p : Pl} {addr : Nat} (v : Nat) (priv : Bool)
    (h : p.linkOnly (addr - addr % 4) = true ∨ p.wrote.contains (addr - addr % 4, true) = true) : p.mpWrite addr v priv = p.deny :=
  if_pos (Bool.or_eq_true_iff.2 h)

theorem Pl.deny_eq (p : Pl) : p.deny = { p with mpDeny := min 65535 (p.mpDeny + 1), intStat := putBit p.intStat 6 true } := rfl

/-- A management-port read, privileged or of a register that needs no privilege. -/
theorem Pl.mpRead_open {p : Pl} {addr : Nat} {priv : Bool} (h : priv = true ∨ p.privOff (addr - addr % 4) = false) :
    p.mpRead addr priv = (p.readWord (addr - addr % 4) false).1.emitOut (.rdata (p.readWord (addr - addr % 4) false).2) :=
  if_neg (by rcases h with h | h <;> simp [h])

theorem Pl.mpRead_denied {p : Pl} {addr : Nat} (h : p.privOff (addr - addr % 4) = true) : p.mpRead addr false = p.deny.emitOut (.rdata 0) :=
  if_pos (by simp [h])

/-- A frame names 1 to 64 words. -/
theorem wordsOk_iff (n : Nat) : wordsOk n = true ↔ 1 ≤ n ∧ n ≤ 64 := by simp [wordsOk]

/-- The low half of a pending palette word. -/
theorem Pl.palWrite_low {p : Pl} {b : Nat} (v : Nat) (hb : b < p.par.nbank) : p.palWrite (0x900 + 8 * b) v
    = { p with palPend := SMap.set zeroWord p.palPend b (BitVec.ofNat 64 ((SMap.get zeroWord p.palPend b).toNat / 2 ^ 32 * 2 ^ 32 + v)),
               palArmed := false } := by
  have hbank : p.palBank (0x900 + 8 * b) = some b := (if_pos (by omega)).trans (congrArg some (by omega))
  have hhalf : decide (4 ≤ (0x900 + 8 * b - 0x900) % 8) = false := decide_eq_false (by omega)
  rw [Pl.palWrite, hbank, hhalf]
  rfl

/-- With room for what is selected, the instant builds its two records. -/
theorem Pl.samplingInstant_room {p : Pl} (hv : p.valid = true) (hi : p.ivl ≠ 0) :
    let k := p.takePalette
    let t := k.now - k.now % k.ivl
    k.sampleUsed + (sampleLen (k.selected false).length + sampleLen (k.selected true).length) ≤ 40960 →
    p.samplingInstant = (Pl.buildSample { k with shadow := k.cnt } t false).buildSample t true := by
  intro k t h
  exact (if_neg (by simp [hv, hi])).trans (if_neg (Nat.not_lt.2 h))

end Sys2Proof.Machine

open Sys2Proof Sys2Proof.Machine

/-- Settles O50: the branch of each command. -/
theorem blockRegisterCommandsComplete : Obligations.BlockRegisterCommandsComplete := by
  unfold Obligations.BlockRegisterCommandsComplete
  have bad : ∀ {n : Nat}, n = 0 ∨ 64 < n → ¬ wordsOk n = true := fun h hok => by
    obtain ⟨h1, h2⟩ := (wordsOk_iff _).1 hok
    omega
  refine ⟨fun s addr v priv => ?_, fun s addr priv => ?_, fun s off d h1 h2 => plDo_eq (if_pos ((wordsOk_iff _).2 ⟨h1, h2⟩)),
    fun s off d h => plDo_eq (if_neg (bad h)), fun s off n tag h1 h2 => plDo_eq (if_pos ((wordsOk_iff _).2 ⟨h1, h2⟩)),
    fun s off n tag h => plDo_eq (if_neg (bad h)),
    fun s => ⟨plDo_eq rfl, plDo_eq (if_pos rfl), plDo_eq (if_pos rfl), plDo_eq (if_pos rfl), plDo_self (if_neg (by decide)), plDo_eq rfl⟩,
    fun s b d hb h64 => plDo_eq (Pl.palWrite_low _ hb), fun s hv hi => ?_⟩
  · dsimp only
    exact ⟨fun hl hw => plDo_eq (Pl.mpWrite_open _ priv hl hw), fun h => plDo_eq ((Pl.mpWrite_denied _ priv h).trans (Pl.deny_eq _))⟩
  · dsimp only
    exact ⟨fun h => ⟨plDo_eq (Pl.mpRead_open h), plDo_eq (Pl.mpRead_open h)⟩, fun h => ⟨plDo_eq (Pl.mpRead_denied h), plDo_eq (Pl.mpRead_denied h)⟩⟩
  · intro p t n0 n1 h
    exact plDo_eq (Pl.samplingInstant_room hv hi h)

end

section
/-! Sittings, FREEZE, trace and low power of the block (R141 to R148). -/

namespace Sys2Proof.Machine

/-! ### Sittings -/

/-- A sitting is held while the block has time, room, and the sitting lies ahead under a new number. -/
theorem Pl.sitRequest_held {p : Pl} {ident t : Nat} (hv : p.valid = true) (ht : p.now < t) (hi : p.sitReqs.any (fun e => e.1 == ident) = false)
    (hl : p.sitReqs.length < 8) : p.sitRequest ident t = { p with sitReqs := p.sitReqs ++ [(ident, t)] } := by
  rw [Pl.sitRequest, if_neg (by simp [hv]), if_neg (by omega), if_neg (Bool.eq_false_iff.1 hi), if_neg (by omega)]

/-- The capture of the sittings of one instant that has come, with an image free. -/
theorem Pl.sitCapture_room {p : Pl} {t : Nat} (hi : (p.sitReqs.filter (fun e => e.2 == t)).map (·.1) ≠ []) (ht : t ≤ p.now)
    (hl : p.images.length < 2) : p.sitCapture t = (let k := { p with sitReqs := p.sitReqs.filter (fun e => e.2 != t) }
      forEach ((p.sitReqs.filter (fun e => e.2 == t)).map (·.1)) (fun i p => p.captureOne t i) { k with sitShadow := k.cnt, images := k.images ++ [t] }) := by
  rw [Pl.sitCapture]
  dsimp only
  rw [if_neg (by simp only [hi, false_or]; omega), if_neg (by omega)]

/-- FREEZE falls `frz_max_us` after its assertion. -/
theorem Pl.freezeExpiry_due {p : Pl} (hf : p.frzs ≠ []) (ht : p.frzSince + p.frzMaxUs * 1000 ≤ p.now) :
    p.freezeExpiry = Pl.record { p with frzs := [] } 0x0702 3 p.frzSit p.frzMaxUs (lo32 p.frzSince) (hi32 p.frzSince) 0 :=
  if_pos (by simp [Pl.freeze, hf, ht])

theorem Pl.freezeExpiry_early {p : Pl} (ht : p.now < p.frzSince + p.frzMaxUs * 1000) : p.freezeExpiry = p :=
  if_neg (by simp only [Bool.and_eq_true, decide_eq_true_eq]; omega)

/-! ### Trace -/

/-- A payload word of a core with room for it and nothing lost is stored. -/
theorem Pl.traceWord_stored {p : Pl} {c kind : Nat} (d : BitVec 48) (hen : p.trEn = true) (hc : c < p.par.ncore) (hk : kind < 0xC)
    (hlost : (p.core c).lost = 0) (hroom : (p.core c).used + 3 ≤ 252) : p.traceWord c kind d = (p.storeWord c kind d).restall c := by
  have hneed : ¬ unreserved < (p.core c).used + (if (p.openBurst c).isSome = true then 1 else 3) := by
    rw [unreserved]
    split <;> omega
  rw [Pl.traceWord, if_neg (by simp [hen]; omega), if_neg (by omega)]
  dsimp only
  rw [if_neg hneed, if_pos hlost]

section
variable {p : Pl} {c : Nat} {i : TrItem} {l : List TrItem} (hc : p.dmaCore = some c) (hi : (p.core c).items = i :: l)
include hc hi

/-- The DMA moves the oldest item of the core whose turn it is, when the buffer takes it. -/
theorem Pl.dma_moves {x : Pl} (hx : p.circPut c i = some x) : p.dma = (Pl.popItem { x with dmaLast := c } c).lpSettle c := by
  rw [Pl.dma, hc]
  dsimp only
  rw [hi]
  dsimp only
  rw [hx]

theorem Pl.dma_full (hx : p.circPut c i = none) : p.dma = p := by
  rw [Pl.dma, hc]
  dsimp only
  rw [hi]
  dsimp only
  rw [hx]

end

/-- In STREAM mode a trace frame takes what waits. -/
theorem Pl.shipTrace_waiting {p : Pl} (hm : p.trMode = false) (hc : p.circ ≠ []) :
    p.shipTrace = (Pl.send { p with circ := (takeWords 509 p.circ).2 } 0x13 3 (wordBytes (takeWords 509 p.circ).1)).stampsDue p.stampPend :=
  if_neg (by simp [hm, hc])

/-- An extract of whole lines within the buffer. -/
theorem Pl.extract_some {p : Pl} {n : Nat} (h64 : n % 64 = 0) (hn : n ≤ p.trBytes) (hm : p.trMode = true) (hcs : (trimChunks n p.circ).1 ≠ []) :
    p.extract n = p.queue { p.item 0x15 3 [] with chunks := (trimChunks n p.circ).1 } := by
  rw [Pl.extract, if_neg (by omega), if_neg (by simp [hm])]
  exact if_neg hcs

/-! ### Low power -/

theorem Pl.core_setCore (p : Pl) (c d : Nat) (x : TrCore) : (p.setCore c x).core d = if d = c then x else p.core d := SMap.get_set _ _ _ _ _

/-- The pins that a command shows do not follow the cores. -/
theorem Pl.showPins_eq_of_cores (p : Pl) (cs : SMap TrCore) (o : List Out) : p.showPins { p with cores := cs, out := o } = { p with cores := cs, out := o } :=
  Pl.showPins_eq _ _ rfl rfl rfl rfl

theorem Pl.showPins_setCore_emitOut (p : Pl) (c : Nat) (x : TrCore) (o : Out) : p.showPins ((p.setCore c x).emitOut o) = (p.setCore c x).emitOut o :=
  Pl.showPins_eq_of_cores _ _ _

theorem Pl.showPins_setCore_setCore_emitOut (p : Pl) (c : Nat) (x y : TrCore) (o : Out) :
    p.showPins (((p.setCore c x).setCore c y).emitOut o) = ((p.setCore c x).setCore c y).emitOut o :=
  Pl.showPins_eq_of_cores _ _ _

/-- A block command that moves no pin answers what it does to the block. -/
theorem plDo_eq_of_pins {s : State} {f : Pl → Pl} {q : Pl} (hf : f s.pl = q) (hpins : s.pl.showPins q = q) : plDo s f = .next { s with pl := q } := by
  rw [plDo_eq hf, hpins]

/-- A core without trace of its own sleeps at once. -/
theorem Pl.lpEntry_idle {p : Pl} {c : Nat} (hc : c < p.par.ncore) (hi : (p.core c).items = []) (ht : p.trEn = false) (hl : (p.core c).lp = .on) :
    ∃ x y : TrCore, y.lp = .asleep ∧ p.lpEntry c = ((p.setCore c x).setCore c y).emitOut (.pin pinLpAck (2 * c + 1)) := by
  let x : TrCore := { p.core c with lp := .entering p.now }
  refine ⟨x, { x with lp := .asleep }, rfl, ?_⟩
  have hx : (p.setCore c x).core c = x := (Pl.core_setCore _ _ _ _).trans (if_pos rfl)
  have hmark : p.lpMarker c 0 = p := if_neg (by simp [ht])
  have hdrain : p.drainCore c (p.core c).items = p := by
    rw [hi]
    rfl
  have hsettle : (p.setCore c x).lpSettle c = ((p.setCore c x).setCore c { x with lp := .asleep }).emitOut (.pin pinLpAck (2 * c + 1)) := by
    rw [Pl.lpSettle, hx]
    exact if_pos hi
  rw [Pl.lpEntry, if_neg (by simp [hl]; omega)]
  dsimp only
  rw [hmark, hdrain]
  exact hsettle

/-- A core wakes; without trace nothing else of it changes. -/
theorem Pl.lpExit_idle {p : Pl} {c : Nat} (hc : c < p.par.ncore) (hl : (p.core c).lp ≠ .on) (ht : p.trEn = false) :
    p.lpExit c = (p.setCore c { p.core c with lp := .on }).emitOut (.pin pinLpAck (2 * c)) := by
  have hmark : p.lpMarker c 1 = p := if_neg (by simp [ht])
  rw [Pl.lpExit, if_neg (by simp [hl]; omega), hmark]

end Sys2Proof.Machine

open Sys2Proof Sys2Proof.Machine

/-- Settles O53: the branch of each command. -/
theorem blockSittingAndTraceComplete : Obligations.BlockSittingAndTraceComplete := by
  unfold Obligations.BlockSittingAndTraceComplete
  refine ⟨fun s ident t hv ht hi hl => plDo_eq (Pl.sitRequest_held hv ht hi hl), fun s t => ?_, fun s ident => ⟨plDo_eq rfl, plDo_eq rfl⟩,
    fun s hf => ⟨fun ht => plDo_eq (Pl.freezeExpiry_due hf ht), fun ht => plDo_self (Pl.freezeExpiry_early ht)⟩,
    fun s c kind d hen hc hk hlost hroom => plDo_eq (Pl.traceWord_stored d hen hc hk hlost hroom),
    fun s c i l hc hi => ⟨fun x hx => plDo_eq (Pl.dma_moves hc hi hx), fun hx => plDo_self (Pl.dma_full hc hi hx)⟩,
    fun s hv hw hp => plDo_eq (if_pos (by simp [hv, hw, hp])), fun s hm hc => plDo_eq (Pl.shipTrace_waiting hm hc),
    fun s n h64 hn hm => fun hcs => plDo_eq (Pl.extract_some h64 hn hm hcs), fun s n hbad => plDo_eq (if_pos hbad),
    fun s c hc hi ht hl => ?_, fun s c since hl => plDo_eq rfl, fun s c hc hl ht => ?_⟩
  · dsimp only
    exact fun hi ht hl => plDo_eq (Pl.sitCapture_room hi ht hl)
  · obtain ⟨x, y, hy, hentry⟩ := Pl.lpEntry_idle hc hi ht hl
    refine ⟨_, plDo_eq_of_pins hentry (Pl.showPins_setCore_setCore_emitOut ..), rfl, ?_, rfl, fun d hd => ?_⟩
    · exact (congrArg TrCore.lp ((Pl.core_setCore _ _ _ _).trans (if_pos rfl))).trans hy
    · exact (Pl.core_setCore _ _ _ _).trans ((if_neg hd).trans ((Pl.core_setCore _ _ _ _).trans (if_neg hd)))
  · refine ⟨_, plDo_eq_of_pins (Pl.lpExit_idle hc hl ht) (Pl.showPins_setCore_emitOut ..), rfl, ?_, rfl, fun d hd => ?_⟩
    · exact congrArg TrCore.lp ((Pl.core_setCore _ _ _ _).trans (if_pos rfl))
    · exact (Pl.core_setCore _ _ _ _).trans (if_neg hd)

end


-- ==== Block progress and proof exports ====
section
/-! Progress monitors and the proof tap of the block (R149 to R153): one lemma for each case of a command. -/

namespace Sys2Proof.Machine

/-! ### Progress monitors -/

/-- A pulse of a monitor with nothing to report only counts. -/
theorem Pl.pulse_quiet {p : Pl} {n : Nat} (hn : n < p.par.nmon) (hs : (p.mon n).stalled = false) (hr : (p.mon n).report = false)
    (hp : (p.mon n).pend = false) :
    p.pulse n = p.setMon n { p.mon n with count := ((p.mon n).count + 1) % 2 ^ 32, last := p.now, since := p.now } := by
  rw [Pl.pulse, if_neg (by omega)]
  generalize p.mon n = m at hs hr hp ⊢
  cases m
  simp only at hs hr hp
  simp only [hs, hr, hp, Bool.or_false, Bool.false_eq_true, if_false]

theorem Pl.report_ready {p : Pl} {n : Nat} (hr : (p.mon n).ready p.now = true) :
    p.report n = p.progress n (p.mon n).last (if (p.mon n).recov then 2 else 0) := if_pos hr

theorem Pl.stallMon_due {p : Pl} {n : Nat} (hn : n < p.par.nmon) (he : (p.mon n).en = true) (hs : (p.mon n).stalled = false)
    (ht : (p.mon n).expiry ≤ p.now) :
    p.stallMon n =
      let m := p.mon n
      let q := (p.setMon n { m with stalled := true }).progress n m.expiry 1
      let q := q.record 0x0703 4 n m.winMs (lo32 m.since) (hi32 m.since) m.count
      Pl.raise { q with pgStall := putBit q.pgStall n true } 1 :=
  if_neg (by simp [he, hs]; omega)

/-! ### Selection of exports -/

/-- A row-block that passes the selection test joins the exports while there is room. -/
theorem Pl.identity_selected {p : Pl} {i : PxId} {e : PlSeed} (hpx : p.par.px = true) (hv : p.valid = true)
    (he : p.seeds.find? (fun e => e.epoch == i.epoch) = some e) (hk : e.k ≠ 0) (hsel : Machine.selected e.seed e.k (pxIdent i) p.par.site = true) :
    p.identity i = p.takeExport i e := by
  rw [Pl.identity, hpx, hv, he]
  simp only [Bool.not_true, Bool.false_eq_true, if_false, hk, hsel, if_true]

theorem Pl.takeExport_room {p : Pl} (i : PxId) (e : PlSeed) (hx : p.exps.length < 8) (hr : p.rpQ.length < 8) :
    p.takeExport i e = Pl.emitOut { p with exps := p.exps ++ [{ id := i, seq := p.nextSeq, attempt := 0, htDone := none, deadlineUs := e.deadlineUs, rex := .none }],
                                           inStream := p.inStream ++ [p.nextSeq], nextSeq := (p.nextSeq + 1) % 2 ^ 32 } (.pin pinSel (1 + 2 * p.nextSeq)) :=
  if_neg (by omega)

/-- A repeated identity of an outstanding request is answered 1 and streams again. -/
theorem Pl.reidentity_outstanding {p : Pl} {i : PxId} {x : PlExp} (hpx : p.par.px = true)
    (hx : p.exps.find? (fun x => pxSame x.id i && x.rex == .outstanding) = some x) :
    p.reidentity i = Pl.emitOut { p.onExp x.seq (fun y => { y with rex := .streaming, attempt := 1 }) with
                                    rexQ := p.rexQ.filter (fun q => q != x.seq), inStream := p.inStream ++ [x.seq] } (.pin pinSel (1 + 2 * x.seq)) := by
  rw [Pl.reidentity, hpx, if_pos rfl, hx]
  rfl

theorem Pl.streamEnd_held {p : Pl} {seq : Nat} {l : List Nat} {x : PlExp} (fmt kred nout : Nat) (a e : List Byte) (hl : p.inStream = seq :: l)
    (hx : p.exps.find? (fun x => x.seq == seq) = some x) :
    p.streamEnd fmt kred nout a e =
      let y := if x.attempt = 0 then { x with htDone := some p.now } else { x with rex := .done }
      let data := exportHeader y p.par.site fmt kred nout a e ++ a ++ e
      let n := ceilDiv data.length partMax
      (Pl.onExp { p with inStream := l } seq (fun _ => y)).shipParts y data n n := by
  rw [Pl.streamEnd, hl]
  simp only [hx]
  rfl

/-! ### Verdicts, replay and release -/

theorem Pl.verdict_held {p : Pl} {b : List Byte} {x : PlExp} (hb : b.length = 32) (hc : u8 b 20 % 8 ≠ 7)
    (hx : p.exps.find? (fun x => x.seq == u32 b 16) = some x) : p.verdict b = p.judge x (u8 b 20 % 8) := by
  rw [Pl.verdict]
  simp only [hb, hc, hx, ne_eq, not_true_eq_false, or_self, if_false]

/-- A malformed verdict, a reserved code and a sequence number not held are discarded and counted. -/
theorem Pl.verdict_discarded {p : Pl} {b : List Byte} (h : b.length ≠ 32 ∨ u8 b 20 % 8 = 7 ∨ p.exps.find? (fun x => x.seq == u32 b 16) = none) :
    p.verdict b = p.unknownVerdict := by
  rw [Pl.verdict]
  by_cases hbad : b.length ≠ 32 ∨ u8 b 20 % 8 = 7
  · exact if_pos hbad
  · have hnone : p.exps.find? (fun x => x.seq == u32 b 16) = none := (or_assoc.2 h).resolve_left hbad
    simp only [hbad, hnone, if_false]

theorem Pl.rexGone_cons {p : Pl} {seq : Nat} {l : List Nat} (h : p.rexQ = seq :: l) :
    p.rexGone = Pl.release { p with q := p.q.filter (fun it => !(it.typ == 0x20 && it.key == seq)) } seq := by
  rw [Pl.rexGone, h]

theorem Pl.slotTimeout_due {p : Pl} {seq t : Nat} {x : PlExp} (hx : p.exps.find? (fun x => x.seq == seq) = some x) (hd : x.htDone = some t)
    (ht : t + p.deadline x * 1000 + 20000 ≤ p.now) : p.slotTimeout seq = p.release seq := by
  rw [Pl.slotTimeout]
  simp only [hx, hd]
  exact if_neg (by omega)

end Sys2Proof.Machine

open Sys2Proof Sys2Proof.Machine

/-- Settles O54: the case of each command. -/
theorem blockProgressAndProofComplete : Obligations.BlockProgressAndProofComplete := by
  unfold Obligations.BlockProgressAndProofComplete
  refine ⟨fun s n hn hs hr hp => plDo_eq (Pl.pulse_quiet hn hs hr hp), fun s n hp hr => plDo_eq ((if_pos hp).trans (Pl.report_ready hr)),
    fun s n hn he hs ht => plDo_eq (Pl.stallMon_due hn he hs ht), fun s ep dl k sd hk => plDo_eq (if_pos hk),
    fun s i e hpx hv he hk hsel hx hr => plDo_eq ((Pl.identity_selected hpx hv he hk hsel).trans (Pl.takeExport_room i e hx hr)),
    fun s i x hpx hx => plDo_eq (Pl.reidentity_outstanding hpx hx),
    fun s fmt kred nout seq l a e x hl hx => plDo_eq (Pl.streamEnd_held fmt kred nout a e hl hx),
    fun s b x hb hc hx => plDo_eq (Pl.verdict_held hb hc hx), fun s b hbad => plDo_eq (Pl.verdict_discarded hbad),
    fun s seq l hl => plDo_eq (Pl.rexGone_cons hl), fun s seq x t hx hd ht => plDo_eq (Pl.slotTimeout_due hx hd ht),
    fun s hr => plDo_eq (if_pos hr), fun s hpx hx => ?_⟩
  have hkeep : (s.pl.par.px && !s.pl.exps.isEmpty) = true := by simp [hpx, hx]
  have hitem : s.pl.keepalive = s.pl.item 0x00 0 (leBytes 4 s.pl.watermark) := by rw [Pl.keepalive, hpx, if_pos rfl]
  exact plDo_eq ((if_pos hkeep).trans (congrArg s.pl.queue hitem))

end


-- ==== Reset ====
section
/-! What reset leaves (R11, R156, R293): every field at the value of its table. -/

namespace Sys2Proof.Machine

/-- At reset every register field reads the reset value of its table. -/
theorem State.reset_rg (f : FRef) : State.reset.gn.rg f = regDefault f.key := Gn.rg_default _ (by rfl) f

theorem State.reset_bounded : State.reset.pl.bounded := by
  unfold Pl.bounded
  decide

/-- No studio of the table is open at reset. -/
theorem regDefault_scStu_st : ∀ n < 15, regDefault (F.scStu_st (n + 1)).key = 0 := by decide +kernel

end Sys2Proof.Machine

open Sys2Proof Sys2Proof.Machine

/-- Settles O58: a register holds its default, and the stores of the reset block are empty. -/
theorem resetHolds : Obligations.ResetHolds := by
  unfold Obligations.ResetHolds
  refine ⟨rfl, State.reset_rg, ?_, rfl, ?_, ?_, fun n hn => (State.reset_rg _).trans (regDefault_scStu_st n hn), ?_, rfl, rfl, rfl, rfl, rfl, rfl,
    fun i => rfl, rfl, rfl, State.reset_bounded⟩
  · exact (State.reset_rg _).trans (by decide +kernel)
  · exact (State.reset_rg _).trans (by decide +kernel)
  · exact (State.reset_rg _).trans (by decide +kernel)
  · exact (State.reset_rg _).trans (by decide +kernel)

end
